-- ==== Sys2Proof/Word.lean ====
section
/-! DEFINITION. The word types of the OR-8: bytes, the 64-bit value of a dictionary entry, FP32 and BF16
codes (R2). Everything that computes with them stands in files under Machine/. -/

namespace Sys2Proof

/-- One byte of any memory image (R1: multi-byte values are little-endian). -/
abbrev Byte := BitVec 8

/-- The value a dictionary entry holds: at most 8 bytes for every type that is not a string or a domain
(Table 16-2). -/
abbrev Val := BitVec 64

/-- A binary32 code (R2). -/
abbrev F32 := BitVec 32

/-- A BF16 code: the upper 16 bits of the binary32 layout (R2). -/
abbrev B16 := BitVec 16

end Sys2Proof
end

