-- ==== Sys2Proof/Machine/Types.lean ====
section
/-! DEFINITION. The data that commands carry from outside the block: access paths, samples, descriptors,
containers, packets and measured readings. Plain data only. -/

namespace Sys2Proof

/-- The three access paths to the one dictionary server (R324, in the order in which it takes accesses of one
microsecond). -/
inductive Path where
  | ecat | can | mailbox
  deriving DecidableEq, Repr

/-- A sparse map held as data: keys strictly rising, no key listed whose value is the map's default. -/
abbrev Kv (α : Type) := List (Nat × α)

/-- Where and when a core issues an operation: the core, the slot cycle, and the bundle's index in its plate
(R46, Table 3-6). -/
structure At where
  core   : Fin 96
  cycle  : Nat
  bundle : Nat
  deriving DecidableEq, Repr

/-- How the galley word of a read reached its landing cycle (R47, R48, R61). -/
inductive Landing where
  /-- arrived, check bits agree -/
  | clean
  /-- not arrived by its landing cycle (R48) -/
  | missed
  /-- the stored check bits differ from those computed (R94): a detection -/
  | detected
  deriving DecidableEq, Repr

/-- What a restorable word's rewrite did (R95, R367). -/
inductive Restore where
  | none | restored | corrected | failed
  deriving DecidableEq, Repr

/-- How a data engine transfer ended at its last word (R56, R366, R367). -/
inductive TransferEnd where
  | ok
  /-- its last word is done, and DDR5 words of it, by their addresses, were corrected on the way (R365) -/
  | corrected (addrs : List Nat)
  /-- an uncorrectable DDR5 word, with its address (R367) -/
  | uncorrectable (addr : Nat)
  /-- a poisoned DDR5 word (R366) -/
  | poison (addr : Nat)
  /-- a galley word whose check failed on the way (R93, R107), with its local address -/
  | detected (addr : Nat)
  deriving DecidableEq, Repr

/-- What a unit's read of DDR5 words met: words corrected, and the first uncorrectable one, by address (R365, R367). -/
structure DdrIn where
  corrected : List Nat
  uncorrectable : Option Nat
  deriving DecidableEq, Repr

/-- Which way a slug migrates (R230): out to the DDR5 pool, or back to galley with what its read met. -/
inductive Migration where
  | toDdr
  | toGalley (read : DdrIn)
  deriving DecidableEq, Repr

/-- A host read of BAR2 (R342): how many bytes, and what its DDR5 read met. -/
structure BarRead where
  length : Nat
  ddr : DdrIn
  deriving DecidableEq, Repr

/-- A die-to-die link with a word on it (R30): dies 0-5 compute dies, 6 HD0, 7 HD1. -/
structure LinkHop where
  sender   : Fin 8
  receiver : Fin 8
  /-- destination address of the word that the link carried -/
  word     : Nat
  deriving DecidableEq, Repr

/-- Where a streamed row comes from (STREAM_SRC, Table 3-6). -/
inductive StreamSrc where
  /-- galley at STREAM_ADDR, in 16-byte units of the die's galley -/
  | galley (addr : Nat)
  /-- the window engine tap of the same bundle -/
  | tap
  deriving DecidableEq, Repr

/-- The SPD reply of one DDR5 channel (R362, R363). -/
structure Spd where
  gib   : Nat
  ranks : Nat
  /-- width of its devices, 4 or 8 -/
  width : Nat
  /-- density of its devices in Gb -/
  gbit  : Nat
  /-- an LRDIMM or a 3DS stack -/
  other : Bool
  deriving DecidableEq, Repr

/-- Where a galley memory test first failed (R417, Table 21-9). -/
structure GalleyFail where
  bank : Nat
  row : Nat
  element : Nat
  background : Nat
  /-- 0-3 the link ends; 255 when the failure lay in the banks -/
  link : Nat
  deriving DecidableEq, Repr

/-- The samples of one word time (R131, R132): in serial mode the level of FR in its 16 bit times, the first one in bit 15,
and a 16-bit word for each data lane, MSB first, so that bit 15 is what came first; in parallel mode 1 where HSYNC has risen
since the sample before, else 0, and the sample of the bus. -/
structure WordIn where
  mark : Nat
  lanes : List Nat
  deriving DecidableEq, Repr

/-- One line as its channel receives it, in arrival order (R131-R133), and what becomes of it on the way (R136, R137). -/
structure LineIn where
  words : List WordIn
  /-- samples that reach the shading unit changed: place in arrival order, value there (R136) -/
  changed : List (Nat × Nat)
  /-- a writer's CRC differs from the trailer's (R137) -/
  writerCrcBad : Bool
  deriving DecidableEq, Repr

/-- One 8 x 8 block of dequantised coefficients of a JPEG component, in row-major order (R266). -/
abbrev DctBlock := List Int

/-- An image as its published standard decodes it, up to the point where the manual's own arithmetic begins
(R265, R266). -/
inductive ImageIn where
  /-- raw samples: the file's bytes; the layout comes from the job item -/
  | raw (bytes : List Byte)
  /-- PNG and TIFF: width, height, planes, 16-bit samples, rows of samples in pixel order with planes interleaved -/
  | samples (width height planes : Nat) (wide : Bool) (rows : List (List Nat))
  /-- bilevel PNG and TIFF: width, height, and for each pixel whether it is black -/
  | bilevel (width height : Nat) (rows : List (List Bool))
  /-- baseline JPEG: width, height, subsampling 4:2:0, and per component its blocks in raster order of blocks -/
  | jpeg (width height : Nat) (sub420 : Bool) (comps : List (List DctBlock))
  /-- the file breaks a rule of its standard or of Table 13-1 (R268) -/
  | corrupt
  deriving DecidableEq, Repr

/-- The image file of a sample job (R350): its bytes, and the picture that a PNG file decodes to. -/
structure SampleIn where
  file : List Byte
  picture : ImageIn
  deriving DecidableEq, Repr

/-- What a loopback's checker has received up to now (R414): for every lane the place in its generator's stream at which its
last bits begin, and those bits. -/
structure LockIn where
  engine : Fin 4
  lanes : List (Nat × List Bool)
  deriving DecidableEq, Repr

/-- How a host read failed (R360). -/
inductive HostFail where
  | unsupportedRequest | completerAbort | poisoned | timeout
  deriving DecidableEq, Repr

/-- What a host read was reading (R360). -/
inductive HostReadOf where
  /-- the host word of a job list -/
  | listWord (list : Fin 16)
  /-- the host word of a result ring -/
  | ringWord (ring : Fin 16)
  /-- the host word of a pass-through ring -/
  | passWord (ch : Fin 4)
  /-- descriptor k of a list -/
  | descriptor (list : Fin 16) (k : Nat)
  /-- a buffer of entry k of a list, of which so many bytes had been read before -/
  | buffer (list : Fin 16) (k read : Nat)
  deriving DecidableEq, Repr

/-- Sources of MSI-X messages (R359). -/
inductive MsixSrc where
  | list (n : Fin 16) | ring (n : Fin 16) | pass (n : Fin 4) | event
  deriving DecidableEq, Repr

/-- What one poll read: the host words read (source, raw 64-bit word), and the descriptors (list, 1024-bit word)
fetched in order (R344, R345). -/
structure PollIn where
  listWords : List (Fin 16 × Nat)
  ringWords : List (Fin 16 × Nat)
  passWords : List (Fin 4 × Nat)
  descs     : List (Fin 16 × Nat)
  deriving DecidableEq, Repr

/-- One regulator reading over PMBus (R425): output power in mW and the warning and fault bits. -/
structure RailRead where
  rail      : Nat
  answered  : Bool
  milliwatt : Nat
  ocWarning : Bool
  ocFault   : Bool
  uvFault   : Bool
  deriving DecidableEq, Repr

/-- What is sampled once per frame or tick: junction temperatures of the eight dies in 0.1 degrees, none where the
sensor failed (R298). -/
structure TempsIn where
  dies : List (Option Int)
  deriving DecidableEq, Repr

/-- One step of a scrub or patrol, and what a refresh shadow read: what the pass met (R98, R372, R374). -/
structure ScrubIn where
  /-- galley words (local addresses) whose check would fail where the scrub reads them -/
  galley : List Nat
  /-- DDR5 words, by address, that the patrol would find with an error that the code corrects -/
  corrected : List Nat
  /-- DDR5 words, by address, that the patrol would find uncorrectable -/
  uncorrectable : List Nat
  /-- the hottest DDR5 device temperature in 0.1 degrees; none where a sensor failed -/
  dram : Option Int
  deriving DecidableEq, Repr

/-- A slot entry of an imposition (Table 6-6). -/
structure SlotEntry where
  start : Nat
  length : Nat
  budget : Nat
  plate : Nat
  slotType : Nat
  operandWords : Nat
  operandAddr : Nat
  /-- every paired field well formed and every reserved bit 0 -/
  wellFormed : Bool
  deriving DecidableEq, Repr

/-- A scoreboard slot table entry (Table 6-10). -/
structure SbSlot where
  slot : Nat
  producer : Nat
  consumers : List Nat
  base : Nat
  size : Nat
  wellFormed : Bool
  deriving DecidableEq, Repr

/-- A slot group entry (Table 14-2). -/
structure GroupEntry where
  frames : Nat
  cores : List Nat
  slotType : Nat
  kind : Nat
  itemsMax : Nat
  wellFormed : Bool
  deriving DecidableEq, Repr

/-- A plate: its 512-bit header (Table 6-5) and its 512-bit bundles (Table 3-6). -/
structure PlateSeg where
  header  : Nat
  bundles : List Nat
  deriving DecidableEq, Repr

/-- One imposition segment: its number, the slot list of each core, the group use code of group g of die n at
index 64n + g, and its scoreboard slot table (R114, R117, R120). -/
structure ImpositionSeg where
  number   : Nat
  slots    : List (Nat × List SlotEntry)
  groupUse : List Nat
  sbSlots  : List SbSlot
  deriving DecidableEq, Repr

/-- A weights segment: its declared format (STREAM_FMT code) and its scale bytes (R71). -/
structure WeightSeg where
  fmt    : Nat
  scales : List Nat
  deriving DecidableEq, Repr

/-- Where the formes of a plate set put the outputs that Table 14-3 has them reserve: the manual gives these areas no place,
so their addresses come with the set's contents (DESIGN CHOICE, log entry 130). -/
structure WorkAreas where
  /-- first bytes of the layout output areas, the box list buffers and the encoder output areas -/
  layout : List Nat
  boxLists : List Nat
  encoder : List Nat
  /-- first byte of the crop slots, which follow one another, and how many there are -/
  crops : Nat
  cropSlots : Nat
  deriving DecidableEq, Repr

/-- The contents of a plate set, segment by segment (Table 6-3). The manual gives no byte place for a weights
segment's format and scale bytes nor for an imposition segment's number, so the contents are carried parsed. -/
structure PlateSetIn where
  /-- segment types in container order -/
  types : List Nat
  header : Nat
  plates : List PlateSeg
  impositions : List ImpositionSeg
  weights : List WeightSeg
  classTable : List Nat
  /-- the first constant segment, as far as its 21 slot group tables reach (R280) -/
  constant : List Byte
  /-- walk descriptors (Table 11-6) -/
  walks : List Nat
  /-- resident images: (local galley address, bytes), from restorable segments and initial galley images -/
  images : List (Nat × List Byte)
  /-- where each image begins in the container, and so in its area (R95, Table 18-1) -/
  imageOffs : List Nat
  /-- ranges (address, length) of restorable segments -/
  restorable : List (Nat × Nat)
  /-- galley ranges (address, length) of the constant data segments among them, type 05h -/
  constants : List (Nat × Nat)
  areas : WorkAreas
  deriving DecidableEq, Repr

/-- A fount as its slot holds it (Tables 12-1 to 12-3): token byte strings, normalisation entries (FROM, TO list). -/
structure FountIn where
  fountId : Nat
  eos : Nat
  maxTokenBytes : Nat
  tokens : List (List Byte)
  norm : List (Nat × List Nat)
  deriving DecidableEq, Repr

/-- A transition entry (Table 12-7). -/
structure Transition where
  token : Nat
  next : Nat
  capture : Nat
  deriving DecidableEq, Repr

/-- A state entry (Table 12-6) with its transitions. -/
structure GState where
  isEnd : Bool
  frisket : Nat
  trans : List Transition
  deriving DecidableEq, Repr

/-- A grammar as its slot holds it (Table 12-5): each frisket is the ascending list of its set bits. -/
structure GrammarIn where
  grammarId : Nat
  fountId : Nat
  tokens : Nat
  captures : Nat
  names : List Nat
  states : List GState
  friskets : List (List Nat)
  deriving DecidableEq, Repr

/-- A firmware image as the boot ROM reads it in a slot: its version, security version, signing key and manifest digest,
the code of the first of checks 1, 2, 4 and 5 of Table 20-4 that it fails, 0 for none, and its bytes. -/
structure FwImage where
  version : Nat
  securityVersion : Nat
  keyId : Nat
  digest : List Byte
  status : Nat
  bytes : List Byte
  deriving DecidableEq, Repr

/-- The two segments of a delta package, byte by byte: the delta header and the operation stream (Table 20-7). -/
structure DeltaIn where
  head : List Byte
  stream : List Byte
  deriving DecidableEq, Repr

/-- What a container carries by KIND (Table 20-2). -/
inductive ContentIn where
  /-- the bytes that follow the manifest -/
  | firmware (body : List Byte)
  | plateSet (ps : PlateSetIn)
  /-- a fount image, byte by byte (Tables 12-1 to 12-3) -/
  | fount (image : List Byte)
  /-- a grammar image, byte by byte (Tables 12-5 to 12-7) -/
  | grammar (image : List Byte)
  | delta (d : DeltaIn)
  deriving DecidableEq, Repr

/-- A Shaig container as it arrives: the header word of 512 bits (Table 20-2) and the segment table's entries of 1,024
bits (Table 20-3); the outcome of the published signature and digest computations (R396). -/
structure ContainerIn where
  header : Nat
  table : List Nat
  /-- the Ed25519 signature over the manifest verifies with the key KEY_ID names -/
  signatureOk : Bool
  /-- every segment's SHA-512 equals its DIGEST -/
  digestsOk : Bool
  /-- the SHA-512 of the manifest -/
  digest : List Byte
  content : ContentIn
  deriving DecidableEq, Repr

/-- A fabric packet: its 128-bit header (Table 19-2) and its payload words of 512 bits. -/
structure PacketIn where
  header  : Nat
  payload : List Nat
  deriving DecidableEq, Repr

/-- NMT commands on CANopen (R331). -/
inductive NmtCmd where
  | start | stop | preOperational
  deriving DecidableEq, Repr

/-- EtherCAT AL states (R330). -/
inductive AlState where
  | init | preop | safeop | op | boot
  deriving DecidableEq, Repr

/-- What sends a cycle of TxPDOs (R334, R339). -/
inductive PdoTrigger where
  /-- a CANopen SYNC -/
  | sync
  /-- the EtherCAT DC SYNC0 event -/
  | sync0
  /-- the event of a process data sync manager -/
  | smEvent
  /-- the cycle of free run -/
  | freeRun
  /-- the event timer of TPDO n -/
  | eventTimer (n : Fin 8)
  deriving DecidableEq, Repr

/-- The functions whose start bit a completed start sets (R308). -/
inductive StartFn where
  | scheduler | textUnit | gu0 | gu1 | slug | batch
  | scan (ch : Fin 4)
  deriving DecidableEq, Repr

/-- Debug port an access addresses (R408): the management controller or a core. -/
inductive DebugPort where
  | management | core (n : Fin 96)
  deriving DecidableEq, Repr

/-- One field as the structuring plate gives it: its region, its schema identifier and its confidence (R21). -/
structure FieldIn where
  region     : Nat
  nameId     : Nat
  confidence : Nat
  deriving DecidableEq, Repr

/-- What the plates of a committing forme computed beyond what lies in galley and DDR5 (R285). The manual gives the
box list, the outputs of structuring plates and of the loss no place in memory, so the commit carries them. -/
inductive CommitIn where
  | plain
  /-- layout finish: the box list (Tables 9-1, 9-2) -/
  | boxes (list : List Byte)
  /-- structuring: the fields in structured order -/
  | fields (fs : List FieldIn)
  /-- geometry handoff: regions whose crop a DDR5 read reported uncorrectable (R264) -/
  | handoff (bad : List Nat)
  /-- adaptation step: the loss, and the gradients as FP32 values in element order -/
  | step (loss : F32) (grads : List F32)
  deriving DecidableEq, Repr

end Sys2Proof
end

