-- ==== Sys2Proof/Syntax.lean ====
section
/-! DEFINITION. The commands of the OR-8: one constructor per row of the table of operations and events
(opcode_table.json), with what the row carries from outside. -/

namespace Sys2Proof

/-- A command: an operation or event of the part, each whole and indivisible. -/
inductive Instr where
  -- resets and staged start
  | powerOnReset
  | resetNAsserted
  | managementWatchdog
  | resetRequest (p : Path) (v : Nat)
  | fieldNetworkReset
  | referenceClockLoss
  | perstN (asserted : Bool)
  | functionLevelReset
  | pcieLinkChange (up : Bool) (gen width : Nat)
  | busMasterEnable (on : Bool)
  | resetRelease (tmode : BitVec 2)
  | chaseEntry
  | proofEntry (spd : List (Fin 8 × Spd))
  | galleyTestDone (die : Fin 6) (fail : Option GalleyFail)
  | ddrTrainingDone (ch : Fin 8) (ok : Bool)
  | ddrMemoryTestDone (ch : Fin 8) (ok : Bool) (corrected : Nat)
  | ddrLayoutSizeWrite (p : Path) (sub : Nat) (raw : Val)
  | pressEntry
  | targetStageProof (p : Path)
  | targetStagePress (p : Path)
  | recoveryImageWrite (p : Path) (offset : Nat) (bytes : List Byte) (last : Option ContainerIn)
  -- frames, slots and formes
  | frameStart (temps : TempsIn)
  | slotStart (core : Fin 96) (slot : Nat) (scrub : ScrubIn)
  | formeCommit (id : Nat) (res : CommitIn)
  -- the sequencer
  | loopBegin (a : At) (level : Fin 4) (count endBundle : Nat)
  | loopEnd (a : At) (level : Fin 4)
  | waitCycle (a : At) (count : Nat)
  | endOp (a : At)
  | replayPoint (a : At)
  | expectFill (a : At) (slot : Fin 512) (epoch : Nat)
  | expectDrain (a : At) (slot : Fin 512) (epoch : Nat)
  | filled (a : At) (slot : Fin 512) (epoch : Nat)
  | drained (a : At) (slot : Fin 512) (epoch : Nat)
  | checkTag (a : At) (tag : Fin 128)
  | release (a : At) (slot : Fin 512)
  -- the matrix engine
  | mac (a : At) (row : Fin 32) (fmt : Nat) (sidx : Fin 32) (src : StreamSrc)
  | macInit (a : At) (row : Fin 32) (fmt : Nat) (sidx : Fin 32) (src : StreamSrc)
  | loadTile (a : At) (fmt : Nat) (word : Fin 64) (addr : Nat)
  | loadScale (a : At) (addr : Nat)
  | swap (a : At)
  | drain (a : At) (row : Fin 32) (vd : Fin 32)
  | drainClear (a : At) (row : Fin 32) (vd : Fin 32)
  -- the vector engine
  | add (a : At) (vd va vb : Fin 32)
  | sub (a : At) (vd va vb : Fin 32)
  | mul (a : At) (vd va vb : Fin 32)
  | fma (a : At) (vd va vb vc : Fin 32)
  | max (a : At) (vd va vb : Fin 32)
  | min (a : At) (vd va vb : Fin 32)
  | movi (a : At) (vd : Fin 32) (imm : F32)
  | scale (a : At) (vd va : Fin 32) (imm : BitVec 32)
  | exp (a : At) (vd va : Fin 32)
  | rcp (a : At) (vd va : Fin 32)
  | rsqrt (a : At) (vd va : Fin 32)
  | scorr (a : At) (vd va vb : Fin 32)
  | rsum (a : At) (vd va : Fin 32)
  | rmax (a : At) (vd va : Fin 32)
  | cvt (a : At) (vd va : Fin 32) (fmt : Fin 6) (rnd : Fin 3) (imm : BitVec 32)
  | mseRange (a : At) (vd va vb : Fin 32) (fmt : Nat) (split first zp : Bool) (slot : Fin 64)
  | mseError (a : At) (vd va vb : Fin 32) (fmt : Nat) (split first zp : Bool) (slot : Fin 64)
  | vectorLoad (a : At) (reg : Fin 32) (addr : Nat)
  | vectorStore (a : At) (reg : Fin 32) (addr : Nat)
  | storeConvert (a : At) (reg : Fin 32) (addr : Nat) (fmt : Fin 6) (rnd : Fin 3) (imm : BitVec 32)
  -- the window engine
  | lineLoad (a : At) (y x : Fin 15) (addr : Nat)
  | shift (a : At) (h w s : Nat)
  | emitTap (a : At) (y x : Fin 15) (row : Fin 32) (init : Bool)
  | poolMax (a : At) (y x h w dil : Nat) (vd : Fin 32)
  | poolAvg (a : At) (y x h w dil : Nat) (vd : Fin 32)
  -- the data engine
  | galleyCopy (a : At) (desc : Nat) (tag : Fin 128)
  | galleyFill (a : At) (desc : Nat) (tag : Fin 128)
  | ddrRead (a : At) (desc : Nat) (tag : Fin 128)
  | ddrWrite (a : At) (desc : Nat) (tag : Fin 128)
  | slugWalkGather (a : At) (desc : Nat) (tag : Fin 128)
  | slugWalkAppend (a : At) (desc : Nat) (tag : Fin 128)
  | slugWalkSealRead (a : At) (desc : Nat) (tag : Fin 128)
  | slugWalkSealWrite (a : At) (desc : Nat) (tag : Fin 128)
  | remoteWrite (a : At) (desc : Nat) (tag : Fin 128)
  | loadStreamScaleTable (a : At) (desc : Nat) (tag : Fin 128)
  | transferComplete (core : Fin 96) (tag : Fin 128) (how : TransferEnd)
  | galleyReadLanding (a : At) (addr : Nat) (fetch : Bool) (how : Landing) (restore : Restore)
  | stepReplay (core : Fin 96)
  | supplyDroop (core : Fin 96) (need : Nat)
  | supplyProtectiveStop (core : Fin 96)
  | linkCrcError (hop : LinkHop) (forme : Nat)
  -- transport
  | lineStep (ax : Fin 4)
  | axisResume (ax : Fin 4)
  | stallEvent (ax : Fin 4)
  | sensorEdge (ds : Fin 8) (level : Bool)
  | reservationResume (ax : Fin 4)
  | jam (ax : Fin 4)
  | longDocumentJam (ax : Fin 4)
  | driverFault (ax : Fin 4)
  | driverFaultRelease (ax : Fin 4)
  | fieldTimeout (ax : Fin 4)
  | axisEnable (p : Path) (ax : Fin 4)
  | axisDisable (p : Path) (ax : Fin 4)
  | clearSafe (p : Path) (ax : Fin 4) (v : Nat)
  | go (p : Path) (ax : Fin 4) (v : Nat)
  | freeAxisPulse (ax : Fin 4)
  -- scan channels
  | scanLineComplete (ch : Fin 4) (line : LineIn)
  | pageTruncated (ch : Fin 4)
  | channelEnable (p : Path) (ch : Fin 4)
  | channelDisable (p : Path) (ch : Fin 4)
  | refStore (p : Path) (ch : Fin 4) (v : Nat)
  -- geometry, slugs, text
  | geometryFormeRun (unit : Fin 2)
  | slugMigrate (slug : Nat) (way : Migration)
  | textRowProcess (row : Fin 256)
  | decodeCutoff (seq : Nat)
  | layoutCutoff (ring : Fin 16) (seq : Nat)
  | structuringCutoff (ring : Fin 16) (seq : Nat)
  | fountUnload (p : Path) (slot : Fin 8) (v : Nat)
  | grammarUnload (p : Path) (slot : Fin 32) (v : Nat)
  | textClearCounters (p : Path) (v : Nat)
  -- batch preparation and adaptation
  | imageDecodeStart (img : ImageIn)
  | imageDecodeComplete (engine : Fin 8)
  | decodeDeferred (engine : Fin 8)
  | decodeAbandoned (engine : Fin 8)
  | adaptRunStart (p : Path)
  | adaptRunStop (p : Path)
  | adaptBatchBuild (times : List Nat)
  | publish (p : Path) (v : Nat)
  -- power, thermal, plates
  | thermalPointUp
  | thermalPointDown
  | powerPointUp
  | powerPointDown
  | protectiveStepRelease
  | pmbusPoll (rails : List RailRead) (temps : TempsIn)
  | pmbusAlert (rails : List RailRead)
  | sensorCalibration (die : Fin 8)
  | backgroundTick (scrub : ScrubIn) (temps : TempsIn)
  | freqRequest (p : Path) (v : Nat)
  | activateArea (p : Path) (v : Nat) (testPass : Bool)
  | clearSuspect (p : Path) (v : Nat)
  -- the dictionary
  | coreCounterClear (p : Path) (sub v : Nat)
  | statSlotClear (p : Path) (slot : Fin 64) (v : Nat)
  | dictionaryWrite (p : Path) (index sub : Nat) (bytes : List Byte)
  | sdoTransferTimeout (p : Path) (index sub : Nat)
  | mailboxRead (header : Nat)
  | mailboxWrite (header : Nat) (bytes : List Byte)
  | describeSelect (p : Path) (v : Nat)
  | paramStoreSave (p : Path) (sub v : Nat)
  | paramStoreDone (ok : Bool)
  | paramStoreRestore (p : Path) (sub v : Nat)
  | paramStoreCompact (p : Path) (v : Nat)
  | paramStoreWearLevel
  | errorHistoryClear (p : Path) (v : Nat)
  | rxpdoReceived (p : Path) (bytes : List Byte)
  | pdoCycle (trigger : PdoTrigger)
  | emcyInhibitExpiry
  | heartbeat
  | nmtResetCommunication
  | nmtStateCommand (cmd : NmtCmd)
  | ecatStateRequest (state : AlState)
  | foeWrite (name : List Byte)
  -- the host interface
  | hostPoll (poll : PollIn)
  | jobImage (list : Fin 16) (mesh : List Byte)
  | jobTokenise (list : Fin 16) (text : List Byte)
  | jobSample (list : Fin 16) (img : SampleIn) (text : List Byte)
  | jobTemplateBuild (list : Fin 16) (text : List Byte)
  | jobTemplateImport (list : Fin 16) (text : List Byte)
  | jobTemplateClear (list : Fin 16)
  | jobRequests (list : Fin 16) (table : List Byte)
  | jobLoad (list : Fin 16)
  | hostReadRetry (what : HostReadOf) (fail : Option HostFail)
  | msixHoldoffExpiry (src : MsixSrc)
  | msixUnmask (vector : Fin 64)
  | ringEnable (p : Path) (ring : Fin 16)
  | jobListEnable (p : Path) (list : Fin 16)
  | passthroughDrain (ch : Fin 4)
  | bar2Read (offset : Nat) (read : BarRead)
  | bar2Write (offset : Nat) (bytes : List Byte)
  -- the fabric
  | fabricEnable (p : Path)
  | fabricPortAligned (port : Fin 4) (neighbour sizeX sizeY : Nat) (facing : Fin 4)
  | fabricRetrain (port : Fin 4)
  | fabricAlignmentLost (port : Fin 4)
  | fabricLinkSilent (port : Fin 4)
  | fabricLinkReceived (port : Fin 4) (pk : PacketIn)
  | fabricPacketForward (port : Fin 4) (pk : PacketIn)
  | fabricWriteReceived (port : Fin 4) (pk : PacketIn)
  | fabricWriteRespReceived (port : Fin 4) (pk : PacketIn)
  | fabricGrantReceived (port : Fin 4) (pk : PacketIn)
  | fabricCloseReceived (port : Fin 4) (pk : PacketIn)
  | fabricMgmtRespReceived (port : Fin 4) (pk : PacketIn)
  | fabricAdapterReqReceived (port : Fin 4) (pk : PacketIn)
  | fabricAdapterDataReceived (port : Fin 4) (pk : PacketIn)
  | fabricRespTimeout (tag : Nat)
  | windowDeadline (window : Fin 256)
  | adapterImportFrom (p : Path) (dev : Nat)
  -- loads, firmware and identity
  | loadManifestReceived (target : Nat) (c : ContainerIn)
  | loadComplete (target : Nat) (c : ContainerIn)
  | fwSlotWritten (ok : Bool)
  | fwActivate (p : Path) (v : Nat)
  | confirm (p : Path) (v : Nat)
  | trialTimeout
  | attestRequest (p : Path) (v : Nat)
  | tokenWrite (p : Path) (token signature : List Byte)
  | debugGrantExpiry
  | debugLock (p : Path) (v : Nat)
  | ownerKeyProgram (p : Path) (bytes : List Byte)
  | ownerKeyRevoke (p : Path) (v : Nat)
  -- test
  | loopbackStart (p : Path) (engine : Fin 4)
  | loopbackLock (seen : LockIn)
  | loopbackLockTimeout (engine : Fin 4)
  | loopbackDurationEnd (engine : Fin 4) (bits errors : Nat) (firstError : Nat)
  | loopbackStop (p : Path) (engine : Fin 4)
  | pcieLoopbackEntry
  | galleyTestRequest (p : Path) (v : Nat)
  | jtagIdcode
  | jtagSamplePreload
  | jtagExtest
  | jtagClamp
  | jtagHighz
  | jtagDebugAccess (port : DebugPort)
  | jtagBypass
  -- further events
  | functionStartComplete (fn : StartFn)
  | compactionComplete
  | hostReadCompletion (what : HostReadOf) (fail : HostFail)
  | fabricCrcMismatch (port : Fin 4)
  | sampleDecodeOverBudget
  deriving DecidableEq, Repr

end Sys2Proof
end

