-- ==== Sys2Proof/Decode.lean ====
section
/-! DEFINITION. The decoder over the rows that the operations table gives bits. It gives none to any row: the part's
commands are events on its interfaces, so no word spells one (log entry 1). -/

namespace Sys2Proof

/-- The command that a word spells by the table's bits: no row has any. -/
def decodeTableWord (_nbits _w : Nat) : Option Instr := none

end Sys2Proof
end

