-- ==== Sys2Proof/Machine/Float.lean ====
section
/-! DEFINITION. The arithmetic of the matrix and vector engines (R50, R52 to R55, R66 to R80): exact dyadic
values, one rounding per node, conversions, scale choice and the Philox generator. -/

namespace Sys2Proof.Machine

/-- A floating value: NaN, an infinity, or the exact dyadic number (−1)^neg · m · 2^e. A zero keeps its sign. -/
inductive Num where
  | nan
  | inf (neg : Bool)
  | fin (neg : Bool) (m : Nat) (e : Int)
  deriving DecidableEq, Repr

/-- The rounding modes V_RND (Table 3-6): nearest even, toward zero, or seeded stochastic with its 16-bit draw
(R79). -/
inductive Rnd where
  | nearest
  | zero
  | stochastic (r : Nat)
  deriving DecidableEq, Repr

/-- A binary floating format: p bits of precision, least significant exponent of the subnormals, its largest finite
code, its infinity code (the largest finite code where the format has no infinity), its NaN code, its sign place,
and whether finite overflow saturates in every mode (Tables 4-1, 4-3). -/
structure Fmt where
  p      : Nat
  emin   : Int
  maxFin : Nat
  infCode : Nat
  nanCode : Nat
  signAt : Nat
  saturates : Bool
  deriving DecidableEq, Repr

def fmtF64  : Fmt := ⟨53, -1074, 0x7FEFFFFFFFFFFFFF, 0x7FF0000000000000, 0x7FF8000000000000, 63, false⟩
def fmtF32  : Fmt := ⟨24, -149, 0x7F7FFFFF, 0x7F800000, 0x7FC00000, 31, false⟩
def fmtBF16 : Fmt := ⟨8, -133, 0x7F7F, 0x7F80, 0x7FC0, 15, false⟩
def fmtF16  : Fmt := ⟨11, -24, 0x7BFF, 0x7C00, 0x7E00, 15, false⟩
def fmtE4M3 : Fmt := ⟨4, -9, 0x7E, 0x7E, 0x7F, 7, true⟩
def fmtE5M2 : Fmt := ⟨3, -16, 0x7B, 0x7C, 0x7F, 7, true⟩

/-- The exact value of a code (Table 4-1). A magnitude above the largest finite code is the infinity code or a NaN. -/
def Fmt.decode (f : Fmt) (code : Nat) : Num :=
  let neg := code.testBit f.signAt
  let mag := code % 2 ^ f.signAt
  if mag > f.maxFin then
    if mag = f.infCode then .inf neg else .nan
  else
    let ex := mag / 2 ^ (f.p - 1)
    let frac := mag % 2 ^ (f.p - 1)
    if ex = 0 then .fin neg frac f.emin
    else .fin neg (frac + 2 ^ (f.p - 1)) (f.emin + (ex - 1 : Nat))

/-- Round m · 2^e to a multiple of 2^q (q ≥ e): the quotient under the mode. -/
def roundShift (m d : Nat) (r : Rnd) : Nat :=
  let lo := m / 2 ^ d
  let rem := m % 2 ^ d
  match r with
  | .nearest => if 2 * rem > 2 ^ d ∨ (2 * rem = 2 ^ d ∧ lo % 2 = 1) then lo + 1 else lo
  | .zero => lo
  | .stochastic x => if x < rem * 65536 / 2 ^ d then lo + 1 else lo

/-- The magnitude code of m · 2^e in a format, before overflow is looked at: it may exceed maxFin. -/
def Fmt.roundMag (f : Fmt) (m : Nat) (e : Int) (r : Rnd) : Nat :=
  if m = 0 then 0 else
  let top : Int := (Nat.log2 m : Int) + e
  let q : Int := max (top - (f.p - 1 : Nat)) f.emin
  if top > 2000 then 2 ^ (f.signAt + 1)
  else if q ≤ e then (q - f.emin).toNat * 2 ^ (f.p - 1) + m * 2 ^ (e - q).toNat
  else if (q - e).toNat > Nat.log2 m + 80 then 0
  else (q - f.emin).toNat * 2 ^ (f.p - 1) + roundShift m (q - e).toNat r

/-- Does the finite value overflow the format under the mode (R77)? -/
def Fmt.overflows (f : Fmt) (v : Num) (r : Rnd) : Bool :=
  match v with
  | .fin _ m e => f.roundMag m e r > f.maxFin
  | _ => false

/-- Conversion into a floating format (Table 4-3). -/
def Fmt.encode (f : Fmt) (v : Num) (r : Rnd) : Nat :=
  match v with
  | .nan => f.nanCode
  | .inf neg => f.infCode + (if neg then 2 ^ f.signAt else 0)
  | .fin neg m e =>
    let mag := f.roundMag m e r
    let sat := if f.saturates then f.maxFin else
      match r with | .nearest => f.infCode | _ => f.maxFin
    (if mag > f.maxFin then sat else mag) + (if neg then 2 ^ f.signAt else 0)

/-- The FP32 value of a code (R2). -/
def Num.of32 (w : F32) : Num := fmtF32.decode w.toNat

/-- RNE to FP32 (R52): every NaN is the canonical one. -/
def Num.to32 (v : Num) : F32 := BitVec.ofNat 32 (fmtF32.encode v .nearest)

/-- −v. -/
def Num.neg : Num → Num
  | .nan => .nan
  | .inf s => .inf (!s)
  | .fin s m e => .fin (!s) m e

/-- Is this value a zero? -/
def Num.isZero : Num → Bool
  | .fin _ m _ => m = 0
  | _ => false

/-- Signed mantissa at exponent q ≤ e. -/
def signedAt (neg : Bool) (m : Nat) (e q : Int) : Int :=
  let v : Int := (m * 2 ^ (e - q).toNat : Nat)
  if neg then -v else v

/-- The exact dyadic number of a signed mantissa. -/
def Num.ofInt (v : Int) (e : Int) : Num := .fin (v < 0) v.natAbs e

/-- Exact sum. An exact zero sum of opposite signs is +0; of two zeros of sign − it is −0 (IEEE 754, RNE). -/
def Num.add (a b : Num) : Num :=
  match a, b with
  | .nan, _ => .nan
  | _, .nan => .nan
  | .inf s, .inf t => if s = t then .inf s else .nan
  | .inf s, .fin _ _ _ => .inf s
  | .fin _ _ _, .inf t => .inf t
  | .fin s m e, .fin t n f =>
    if m = 0 ∧ n = 0 then .fin (s && t) 0 (min e f)
    else
      let q := min e f
      .ofInt (signedAt s m e q + signedAt t n f q) q

/-- Exact product (R73: ∞ · 0 is NaN). -/
def Num.mul (a b : Num) : Num :=
  match a, b with
  | .nan, _ => .nan
  | _, .nan => .nan
  | .inf s, .inf t => .inf (s != t)
  | .inf s, .fin t n _ => if n = 0 then .nan else .inf (s != t)
  | .fin s m _, .inf t => if m = 0 then .nan else .inf (s != t)
  | .fin s m e, .fin t n f => .fin (s != t) (m * n) (e + f)

/-- v · 2^k, exact. -/
def Num.scale (v : Num) (k : Int) : Num :=
  match v with
  | .fin s m e => .fin s m (e + k)
  | w => w

/-- a ≤ b for non-NaN values, with −0 below +0 (R52). -/
def Num.le (a b : Num) : Bool :=
  match a, b with
  | .nan, _ => false
  | _, .nan => false
  | .inf true, _ => true
  | _, .inf false => true
  | .inf false, _ => false
  | _, .inf true => false
  | .fin s m e, .fin t n f =>
    if m = 0 ∧ n = 0 then s || !t
    else
      let q := min e f
      signedAt s m e q ≤ signedAt t n f q

/-! ## FP32 lane operations (R52, R53) -/

def fadd (a b : F32) : F32 := (Num.add (.of32 a) (.of32 b)).to32
def fsub (a b : F32) : F32 := (Num.add (.of32 a) (Num.of32 b).neg).to32
def fmul (a b : F32) : F32 := (Num.mul (.of32 a) (.of32 b)).to32
def ffma (a b c : F32) : F32 := (Num.add (Num.mul (.of32 a) (.of32 b)) (.of32 c)).to32

def canonNaN : F32 := 0x7FC00000#32

/-- A value with any NaN made the canonical one (R52). -/
def canonical (w : F32) : F32 := if Num.of32 w == .nan then canonNaN else w

/-- MAX (R52): the canonical NaN when either input is a NaN. -/
def fmax (a b : F32) : F32 :=
  match Num.of32 a, Num.of32 b with
  | .nan, _ => canonNaN
  | _, .nan => canonNaN
  | x, y => if x.le y then b else a

/-- MIN (R52). -/
def fmin (a b : F32) : F32 :=
  match Num.of32 a, Num.of32 b with
  | .nan, _ => canonNaN
  | _, .nan => canonNaN
  | x, y => if x.le y then a else b

/-- SCALE: a · 2^k rounded once. A shift beyond ±1000 has the outcome of ±1000. -/
def fscale (a : F32) (k : Int) : F32 := (Num.scale (.of32 a) (max (-1000) (min 1000 k))).to32

/-- Fixed-point bits of the exponential. -/
def expBits : Nat := 400

/-- Terms n + 1, n + 2, … of the exponential series in fixed point: the running sum and the last term. -/
def expSeries : Nat → Nat → Int → Int → Int → Int
  | 0, _, _, _, acc => acc
  | fuel + 1, n, y, term, acc =>
    let t := term * y / (2 ^ expBits : Nat) / (n : Int)
    expSeries fuel (n + 1) y t (acc + t)

/-- Square a fixed-point number k times. -/
def sqFix : Nat → Nat → Nat
  | 0, v => v
  | k + 1, v => sqFix k (v * v / 2 ^ expBits)

/-- e^x for 2^-26 ≤ |x| < 128, as a fixed-point number of expBits fraction bits: series of x/256, squared eight
times. Its relative error is far below any rounding gap of the FP32 results. -/
def expFix (x : Int) : Nat :=
  let y := x / 256
  sqFix 8 (expSeries 70 1 y (2 ^ expBits : Nat) (2 ^ expBits : Nat)).toNat

/-- EXP (R53): e^a rounded once. -/
def fexp (a : F32) : F32 :=
  match Num.of32 a with
  | .nan => canonNaN
  | .inf true => 0#32
  | .inf false => 0x7F800000#32
  | .fin s m e =>
    let top : Int := (Nat.log2 m : Int) + e
    if m = 0 ∨ top < -26 then 0x3F800000#32
    else if top ≥ 7 then (if s then 0#32 else 0x7F800000#32)
    else
      let x := signedAt s m (e + expBits) 0
      (Num.fin false (2 * expFix x + 1) (-(expBits : Int) - 1)).to32

/-- RCP (R53): 1/a rounded once; RCP(±0) is ±∞. -/
def frcp (a : F32) : F32 :=
  match Num.of32 a with
  | .nan => canonNaN
  | .inf s => (Num.fin s 0 0).to32
  | .fin s m e =>
    if m = 0 then (Num.inf s).to32
    else
      let q := 2 ^ 80 / m
      let r := 2 ^ 80 % m
      (Num.fin s (2 * q + (if r = 0 then 0 else 1)) (-81 - e)).to32

/-- Integer square root by bits, from bit k down. -/
def sqrtBits : Nat → Nat → Nat → Nat
  | 0, _, r => r
  | k + 1, n, r =>
    let c := r + 2 ^ k
    sqrtBits k n (if c * c ≤ n then c else r)

/-- RSQRT (R53): 1/√a rounded once. -/
def frsqrt (a : F32) : F32 :=
  match Num.of32 a with
  | .nan => canonNaN
  | .inf true => canonNaN
  | .inf false => 0#32
  | .fin s m e =>
    if m = 0 then (Num.inf s).to32
    else if s then canonNaN
    else
      -- an even exponent: m · 2^e = m' · 2^(2h)
      let h := e / 2
      let m' := if e % 2 = 0 then m else 2 * m
      let n := 2 ^ 160 / m'
      let r := sqrtBits 81 n 0
      (Num.fin false (2 * r + (if r * r * m' = 2 ^ 160 then 0 else 1)) (-81 - h)).to32

/-- SCORR (R53): EXP(RNE(a − b)), with SCORR(−∞, −∞) = +0. -/
def fscorr (a b : F32) : F32 :=
  if a = 0xFF800000#32 ∧ b = 0xFF800000#32 then 0#32 else fexp (fsub a b)

/-- One level of a fixed tree: adjacent pairs (R50, R54). -/
def treeLevel (f : F32 → F32 → F32) : List F32 → List F32
  | a :: b :: r => f a b :: treeLevel f r
  | r => r

/-- A fixed binary tree of k levels. -/
def treeReduce (f : F32 → F32 → F32) : Nat → List F32 → List F32
  | 0, l => l
  | k + 1, l => treeReduce f k (treeLevel f l)

/-- The root of a tree of k levels. -/
def treeRoot (f : F32 → F32 → F32) (k : Nat) (l : List F32) : F32 := (treeReduce f k l).headD 0#32

/-- RSUM (R54): the sum of 64 lanes, in every lane. -/
def rsumLanes (a : List F32) : List F32 := List.replicate 64 (treeRoot fadd 6 a)

/-- RMAX (R54). -/
def rmaxLanes (a : List F32) : List F32 := List.replicate 64 (treeRoot fmax 6 a)

/-! ## Storage formats and expansion (R66 to R70) -/

/-- Two's complement of a w-bit code. -/
def toSigned (w q : Nat) : Int := if q % 2 ^ w ≥ 2 ^ (w - 1) then (q % 2 ^ w : Nat) - (2 ^ w : Nat) else (q % 2 ^ w : Nat)

/-- The exact value of a code of STREAM_FMT / LOAD_FMT (0 BF16, 1 E4M3, 2 E5M2, 3 INT8, 4 INT4), with zero point z
for the integers. -/
def codeValue (fmt q : Nat) (z : Int) : Num :=
  match fmt with
  | 0 => fmtBF16.decode q
  | 1 => fmtE4M3.decode q
  | 2 => fmtE5M2.decode q
  | 3 => .ofInt (toSigned 8 q + z) 0
  | _ => .ofInt (toSigned 4 q + z) 0

/-- Expansion (R67, R68, R70): a zero group is +0, otherwise v · 2^e exactly. -/
def expandCode (fmt q : Nat) (e z : Int) : Num :=
  if fmt = 0 then codeValue 0 q 0
  else if e = -128 then .fin false 0 0
  else (codeValue fmt q z).scale e

/-- The valid scale codes and zero points of Table 4-2 (R69). A stream scale entry has no mark that a zero point is used:
the column with zero point applies where Z is not 0, in an MSE operation with ZP 1 too (DESIGN CHOICE, log entry 141). -/
def scaleValid (fmt : Nat) (e z : Int) : Bool :=
  match fmt with
  | 0 => true
  | 1 => z = 0 && (e = -128 || (-124 ≤ e && e ≤ 119))
  | 2 => z = 0 && (e = -128 || (-117 ≤ e && e ≤ 112))
  | 3 => (-128 ≤ z && z ≤ 127) && (e = -128 || (-127 ≤ e && e ≤ (if z = 0 then 120 else 119)))
  | _ => (-8 ≤ z && z ≤ 7) && (e = -128 || (-127 ≤ e && e ≤ (if z = 0 then 124 else 123)))

/-- Range of scale codes an encoder may choose, without or with zero point (Table 4-2). -/
def scaleRange (fmt : Nat) (zp : Bool) : Int × Int :=
  match fmt with
  | 1 => (-124, 119)
  | 2 => (-117, 112)
  | 3 => (-127, if zp then 119 else 120)
  | _ => (-127, if zp then 123 else 124)

/-- Width in bits of a stored element of STREAM_FMT. -/
def fmtBits (fmt : Nat) : Nat := match fmt with | 0 => 16 | 4 => 4 | _ => 8

/-- Element i of a packed word (R66). -/
def elemAt (fmt raw i : Nat) : Nat := raw / 2 ^ (fmtBits fmt * i) % 2 ^ fmtBits fmt

/-- Sum of 32 exact products: level 1 rounds the exact sum of two products, each later node rounds once (R50). -/
def pairSums : List Num → List F32
  | a :: b :: r => (a.add b).to32 :: pairSums r
  | [a] => [a.to32]
  | [] => []

/-- t_n for one column: Σ a_k · w_(k,n) (R50, R73). -/
def dotColumn (a w : List Num) : F32 := treeRoot fadd 4 (pairSums (List.zipWith Num.mul a w))

/-! ## Conversions (R77 to R80) -/

/-- The floating format of V_FMT (0 BF16, 1 FP16, 2 E4M3, 3 E5M2), none for the integers. -/
def vfmtFloat (f : Nat) : Option Fmt :=
  match f with
  | 0 => some fmtBF16 | 1 => some fmtF16 | 2 => some fmtE4M3 | 3 => some fmtE5M2 | _ => none

/-- Bits of an element of V_FMT. -/
def vfmtBits (f : Nat) : Nat := match f with | 0 => 16 | 1 => 16 | 5 => 4 | _ => 8

/-- Round a value to an integer under the mode; the boolean says that it lay outside −2^(w−1) … 2^(w−1) − 1. -/
def toIntSat (w : Nat) (v : Num) (r : Rnd) : Int × Bool :=
  let hi : Int := (2 ^ (w - 1) : Nat) - 1
  let lo : Int := - (2 ^ (w - 1) : Nat)
  match v with
  | .nan => (0, false)
  | .inf s => (if s then lo else hi, false)
  | .fin s m e =>
    let mag : Nat :=
      if m = 0 then 0
      else if (Nat.log2 m : Int) + e > 64 then 2 ^ 65
      else if e ≥ 0 then m * 2 ^ e.toNat
      else if (-e).toNat > Nat.log2 m + 80 then 0
      else roundShift m (-e).toNat r
    let x : Int := if s then -(mag : Int) else mag
    if x > hi then (hi, true) else if x < lo then (lo, true) else (x, false)

/-- The code of one conversion (Table 4-3). -/
def convertCode (f : Nat) (x : F32) (r : Rnd) : Nat :=
  match vfmtFloat f with
  | some g => g.encode (.of32 x) r
  | none => ((toIntSat (vfmtBits f) (.of32 x) r).1 % (2 ^ vfmtBits f : Nat)).toNat

/-- The FP32 value of a code of V_FMT (Table 4-3, first row; exact). -/
def codeTo32 (f code : Nat) : F32 :=
  match vfmtFloat f with
  | some g => (g.decode code).to32
  | none => (Num.ofInt (toSigned (vfmtBits f) code) 0).to32

/-- One Philox round on four 32-bit words (R80). -/
def philoxRound (c : Nat × Nat × Nat × Nat) (k0 k1 : Nat) : Nat × Nat × Nat × Nat :=
  let p0 := 0xD2511F53 * c.1
  let p1 := 0xCD9E8D57 * c.2.2.1
  ((p1 / 2 ^ 32 ^^^ c.2.1) ^^^ k0, p1 % 2 ^ 32, (p0 / 2 ^ 32 ^^^ c.2.2.2) ^^^ k1, p0 % 2 ^ 32)

/-- n further rounds, the key raised before each (R80). -/
def philoxRounds : Nat → Nat × Nat × Nat × Nat → Nat → Nat → Nat × Nat × Nat × Nat
  | 0, c, _, _ => c
  | n + 1, c, k0, k1 =>
    let k0' := (k0 + 0x9E3779B9) % 2 ^ 32
    let k1' := (k1 + 0xBB67AE85) % 2 ^ 32
    philoxRounds n (philoxRound c k0' k1') k0' k1'

/-- Philox 4×32 with 10 rounds (R80): counter words and key words. -/
def philox (c0 c1 c2 c3 k0 k1 : Nat) : Nat × Nat × Nat × Nat :=
  philoxRounds 9 (philoxRound (c0, c1, c2, c3) k0 k1) k0 k1

/-- Output word i of a Philox block. -/
def philoxWord (o : Nat × Nat × Nat × Nat) (i : Nat) : Nat :=
  match i with | 0 => o.1 | 1 => o.2.1 | 2 => o.2.2.1 | _ => o.2.2.2

/-- The draw of lane j of a stochastic conversion (R80). -/
def laneDraw (seed step imm j : Nat) : Nat :=
  let o := philox ((8 * (imm % 2 ^ 20) + j / 8) % 2 ^ 32) (imm / 2 ^ 20 % 2 ^ 12) step 0 (seed % 2 ^ 32) (seed / 2 ^ 32)
  let w := philoxWord o (j % 8 / 2)
  if j % 2 = 0 then w % 2 ^ 16 else w / 2 ^ 16

/-- V_RND of lane j. -/
def rndOf (rnd seed step imm j : Nat) : Rnd :=
  match rnd with
  | 0 => .nearest
  | 1 => .zero
  | _ => .stochastic (laneDraw seed step imm j)

/-- The codes of a vector's 64 conversions. -/
def convertLanes (f rnd seed step imm : Nat) (a : List F32) : List Nat :=
  a.mapIdx (fun j x => convertCode f x (rndOf rnd seed step imm j))

/-- Pack codes of w bits, element 0 lowest (R66). -/
def packCodes (w : Nat) : List Nat → Nat
  | [] => 0
  | c :: r => c % 2 ^ w + 2 ^ w * packCodes w r

/-! ## Scale choice and the MSE operation (R74 to R76, R83, R84) -/

/-- The largest code magnitude Q of V_FMT (R74). -/
def quantQ (f : Nat) : Nat := match f with | 2 => 448 | 3 => 57344 | 4 => 127 | _ => 7

/-- STREAM_FMT code of V_FMT 2 to 5. -/
def vfmtStream (f : Nat) : Nat := match f with | 2 => 1 | 3 => 2 | 4 => 3 | _ => 4

/-- Smallest d ≥ −32 + k with m ≤ Q · 2^d. -/
def leastShift (m q : Nat) : Nat → Int → Int
  | 0, d => d
  | fuel + 1, d => if m * 2 ^ 32 ≤ q * 2 ^ (d + 32).toNat then d else leastShift m q fuel (d + 1)

/-- The smallest integer e with v ≤ Q · 2^e, for v > 0 (R74). -/
def leastScale (v : Num) (q : Nat) : Int :=
  match v with
  | .fin _ m e => leastShift m q 400 (-32) + e
  | _ => 0

def clampInt (lo hi x : Int) : Int := max lo (min hi x)

/-- Scale code and zero point of a group (R74, R75), from its largest magnitude and its smallest and largest finite
elements. −128 marks a zero group. -/
def chooseScale (f : Nat) (zp : Bool) (a lo hi : Num) : Int × Int :=
  let r := scaleRange (vfmtStream f) zp
  if zp then
    if lo.isZero && hi.isZero then (-128, 0)
    else
      let mid := (lo.add hi).scale (-1)
      let half := (hi.add lo.neg).scale (-1)
      let absMid := match mid with | .fin _ m e => Num.fin false m e | w => w
      let big := if absMid.le half then half else absMid
      let e := clampInt r.1 r.2 (leastScale big (quantQ f))
      (e, (toIntSat (vfmtBits f) (mid.scale (-e)) .nearest).1)
  else
    if a.isZero then (-128, 0)
    else (clampInt r.1 r.2 (leastScale a (quantQ f)), 0)

/-- The expansion X of an element's nearest-even code, and whether it saturated (R74, R75, R84). -/
def quantElem (f : Nat) (x : Num) (e z : Int) : Num × Bool :=
  if e = -128 then (.fin false 0 0, false)
  else
    match vfmtFloat f with
    | some g => ((g.decode (g.encode (x.scale (-e)) .nearest)).scale e, g.overflows (x.scale (-e)) .nearest)
    | none =>
      let w := vfmtBits f
      let n := (toIntSat 40 (x.scale (-e)) .nearest).1 - z
      let hi : Int := (2 ^ (w - 1) : Nat) - 1
      let lo : Int := - (2 ^ (w - 1) : Nat)
      let q := clampInt lo hi n
      ((Num.ofInt (q + z) 0).scale e, q ≠ n)

/-- Is this value finite? -/
def Num.isFin : Num → Bool
  | .fin _ _ _ => true
  | _ => false

def Num.abs : Num → Num
  | .fin _ m e => .fin false m e
  | .inf _ => .inf false
  | .nan => .nan

/-- FP32 code of a small integer. -/
def f32OfInt (v : Int) : F32 := (Num.ofInt v 0).to32

/-- Integer held in an FP32 lane (counts, scale codes, zero points). -/
def intOf32 (w : F32) : Int := (toIntSat 40 (.of32 w) .zero).1

/-- Lane i of a register. -/
def lane (l : List F32) (i : Nat) : F32 := l.getD i 0#32

/-- Largest and smallest of a list of values, by R52's order. -/
def numMax (d : Num) (l : List Num) : Num := l.foldl (fun a b => if a.le b then b else a) d
def numMin (d : Num) (l : List Num) : Num := l.foldl (fun a b => if b.le a then b else a) d

/-- The options of an MSE operation in V_IMM (R83). -/
structure MseOpt where
  split : Bool
  first : Bool
  zp    : Bool
  slot  : Nat
  deriving DecidableEq, Repr

/-- The 16 result lanes of one segment in range mode (Table 4-6), its lanes of VB being vb. -/
def mseRangeSeg (f : Nat) (o : MseOpt) (seg vb : List F32) : List F32 :=
  let vals := seg.map Num.of32
  let fins := vals.filter Num.isFin
  let prev := if o.first then [] else [lane vb 0, lane vb 1, lane vb 2].map Num.of32
  let zero := Num.fin false 0 0
  let maxAbs := numMax (prev.getD 0 zero) (fins.map Num.abs)
  let mn := match fins with
    | [] => prev.getD 1 zero
    | x :: r => numMin (prev.getD 1 x) (x :: r)
  let mx := match fins with
    | [] => prev.getD 2 zero
    | x :: r => numMax (prev.getD 2 x) (x :: r)
  let nonf : Int := (vals.length - fins.length : Nat) + (if o.first then 0 else intOf32 (lane vb 3))
  let ez := chooseScale f o.zp maxAbs mn mx
  [maxAbs.to32, mn.to32, mx.to32, f32OfInt nonf, f32OfInt ez.1, f32OfInt ez.2,
   0#32, 0#32, 0#32, 0#32, 0#32, 0#32, 0#32, 0#32, 0#32, f32OfInt o.slot]

/-- The 16 result lanes of one segment of 2^k lanes in error mode (Table 4-6). With FIRST the previous counts are 0
(DESIGN CHOICE, log entry 147). -/
def mseErrorSeg (f k : Nat) (o : MseOpt) (seg vb : List F32) : List F32 :=
  let e := intOf32 (lane vb 4)
  let z := if o.zp then intOf32 (lane vb 5) else 0
  let errs := seg.map (fun x =>
    let v := Num.of32 x
    if v.isFin then
      let d := (v.add (quantElem f v e z).1.neg).to32
      fmul d d
    else 0#32)
  let sqs := seg.map (fun x => if (Num.of32 x).isFin then fmul x x else 0#32)
  let sats : Int := ((seg.filter (fun x => (Num.of32 x).isFin && (quantElem f (.of32 x) e z).2)).length : Nat)
  let base (i : Nat) : F32 := if o.first then 0#32 else lane vb i
  let cnt (i : Nat) : Int := if o.first then 0 else intOf32 (lane vb i)
  [lane vb 0, lane vb 1, lane vb 2, lane vb 3, lane vb 4, lane vb 5,
   fadd (treeRoot fadd k errs) (base 6), fadd (treeRoot fadd k sqs) (base 7),
   f32OfInt (cnt 8 + sats),
   f32OfInt (cnt 9 + (if o.first then 1 else 0)),
   f32OfInt (cnt 10 + (if o.first && e = -128 then 1 else 0)),
   0#32, 0#32, 0#32, 0#32, f32OfInt o.slot]

/-- Does a lane hold an integer? A scale or zero-point lane that holds none is outside Table 4-2. -/
def isInt32 (w : F32) : Bool := f32OfInt (intOf32 w) = w || w = 0x80000000#32

/-- Are the scale and zero-point lanes that error mode reads valid (R72)? -/
def mseScaleOk (f : Nat) (o : MseOpt) (vb : List F32) : Bool :=
  isInt32 (lane vb 4) && (!o.zp || isInt32 (lane vb 5)) &&
    scaleValid (vfmtStream f) (intOf32 (lane vb 4)) (if o.zp then intOf32 (lane vb 5) else 0)

/-- Both segments' results in their lanes of VD (R83). -/
def mseLanes (seg : Nat → List F32 → List F32 → List F32) (o : MseOpt) (a vb : List F32) : List F32 :=
  if o.split then
    seg 5 (a.take 32) (vb.take 32) ++ List.replicate 16 0#32 ++
    seg 5 (a.drop 32) (vb.drop 32) ++ List.replicate 16 0#32
  else seg 6 a vb ++ List.replicate 48 0#32

/-! ## Pooling (R55, R202) -/

/-- POOL_MAX over one channel's values in row-major order. -/
def poolMaxLane : List F32 → F32
  | [] => 0#32
  | x :: r => r.foldl fmax x

/-- RNE of v / n for an FP32 code and a positive integer. -/
def fdivNat (v : F32) (n : Nat) : F32 :=
  match Num.of32 v with
  | .fin s m e =>
    let q := m * 2 ^ 64 / n
    let r := m * 2 ^ 64 % n
    (Num.fin s (2 * q + (if r = 0 then 0 else 1)) (e - 65)).to32
  | w => w.to32

/-- POOL_AVG: each addition rounded, then one division (R55). -/
def poolAvgLane : List F32 → F32
  | [] => 0#32
  | x :: r => fdivNat (r.foldl fadd x) (r.length + 1)

end Sys2Proof.Machine
end

