-- ==== Sys2Proof/Config.lean ====
section
/-! DEFINITION. What no rule of the manual fixes: the free values, which have no body, and the constants of one
part (fuses, flash as delivered). -/

namespace Sys2Proof

/-- The n-th value that the manual leaves open (log entry 3). Nothing is known of it. -/
opaque Config.freeValue : Nat → Val

/-- Positions that the encoder plates give one crop, by its class, width and height: the image part of PREFIX_LEN
(Table 11-4). The manual leaves it to the plate set (log entry 23). -/
opaque Config.imagePositions : Nat → Nat → Nat → Nat

/-- Adapter weight i of a plate set's own adapter, version 0 (R278), by SET_ID and element: the manual gives it no place
in the container (log entry 25). -/
opaque Config.adapterWeight : Nat → Nat → F32

/-- Elements of the adapter of a plate set, by SET_ID: the plate set's own affair (log entry 25). -/
opaque Config.adapterElements : Nat → Nat

/-- Length of the input dimension of a plate set's adapter, by SET_ID: groups of 32 run along it (R82); the plate set's own
affair (log entry 25). -/
opaque Config.adapterInput : Nat → Nat

/-- Tensor identifier and place within its tensor of an adapter element, as the rounding counter takes them (R80): by SET_ID,
tensor of Table 4-5 (0 weights, 1 gradients, 2 first moment, 3 second moment) and element. The builder chooses the
identifiers (log entry 27). -/
opaque Config.adapterPlace : Nat → Nat → Nat → Nat × Nat

/-- What a container's bytes spell (R397): the manifest's fields with the results of digests and of the signature, published
standards of the bytes and the key alone; none where they are no container. Commands that carry bytes without it use this
function (log entry 156). -/
opaque Config.containerOf : List Byte → Option ContainerIn

/-- The Ed25519 signature, 512 bits, that the holder of a public key's private half makes over a message: a published
standard (R396). -/
opaque Config.signatureOf : (key message : List Byte) → BitVec 512

/-- Its 64 bytes. -/
def Config.signature (key message : List Byte) : List Byte :=
  (List.range 64).map (fun i => (Config.signatureOf key message).extractLsb' (8 * i) 8)

/-- Which other byte strings the standard's verification accepts as signatures of a message under a key. -/
opaque Config.alsoSigned : (key message signature : List Byte) → Bool

/-- Does an Ed25519 signature under a key hold over a message (R407)? The one that the key's holder makes does. -/
def Config.signedBy (key message signature : List Byte) : Bool :=
  decide (signature = Config.signature key message) || Config.alsoSigned key message signature

/-- The fuses of the serial number, as far as no rule forms it. -/
opaque Config.serialFuses : Val

/-- Serial number of the part, from its fuses (R406, R437, 4404h:01): any value but 0. -/
def Config.serial : Val := if Config.serialFuses = 0 then 1 else Config.serialFuses

/-- The Plovant public key of a KEY_ID 0 to 3, fixed in the boot ROM. -/
opaque Config.plovantKey : Nat → List Byte

/-- The identity public key, 32 bytes, from fuses (4404h:02). -/
opaque Config.identityPublic : List Byte

/-- A device certificate over a serial number and a public key: the manual gives its contents, and no layout. -/
opaque Config.certificate : (serial : Val) → (key : List Byte) → List Byte

/-- The identity certificate, from flash (4404h:03): it carries the serial number, the public key and Plovant's signature over
them (R437). -/
def Config.identityCert : List Byte := Config.certificate Config.serial Config.identityPublic

/-- A signature by the identity key over a message (R406). -/
def Config.sign (message : List Byte) : List Byte := Config.signature Config.identityPublic message

/-- SHA-512 (FIPS 180-4), a published standard that the manual refers to (R406). -/
opaque Config.sha512 : List Byte → List Byte

/-- The text of 100Ah:00 for a firmware version: the manual gives it no form (log entry 3). -/
opaque Config.versionText : Nat → List Byte

/-- What an SPD image of JEDEC's rules says of its module (R363, 4102h:01): GiB, ranks, width and density of its devices, and
whether it is an LRDIMM or a 3DS stack. -/
opaque Config.spdOf : List Byte → Nat × Nat × Nat × Nat × Bool

/-- Byte i that host memory gives to the n-th read of a data engine: what lies outside the device (R45, log entry 159). -/
opaque Config.hostByte : Nat → Nat → Byte

end Sys2Proof
end

