-- ==== Sys2Proof/Machine/Table.lean ====
section
/-! DEFINITION. The object dictionary's entries (R321): one row per entry or run of equal entries, transcribed from
the entry tables of the chapters (Tables 3-9, 4-8, 5-8, 6-11, 7-9, 8-3, 9-8, 11-9, 12-9, 13-5, 14-14, 14-15, 15-5,
16-9, 16-14, 17-7, 18-2, 19-9, 20-9, 21-8). -/

namespace Sys2Proof.Machine

/-- A run of dictionary entries: first index, number of copies and their distance in indices, sub-indices, CiA type
index, size in bytes (largest length of a domain), flags (1 RW, 2 PAIRED, 4 COMMAND, 8 PER_PATH), stages in which it
is writable (1 Chase, 2 Proof, 4 Press, 8 recovery), default (of a paired entry its 32-bit value), and its range: lo
to hi, or one of the listed values. -/
structure EntryRow where
  index  : Nat
  copies : Nat
  stride : Nat
  subLo  : Nat
  subHi  : Nat
  ty     : Nat
  size   : Nat
  flags  : Nat
  stages : Nat
  dflt   : Nat
  lo     : Nat
  hi     : Nat
  also   : List Nat
  deriving DecidableEq, Repr

def EntryRow.rw (r : EntryRow) : Bool := r.flags.testBit 0
def EntryRow.paired (r : EntryRow) : Bool := r.flags.testBit 1
def EntryRow.command (r : EntryRow) : Bool := r.flags.testBit 2
def EntryRow.perPath (r : EntryRow) : Bool := r.flags.testBit 3

/-- Entries from 0x1000. -/
def entries0 : List EntryRow := [
  ⟨0x1000, 1, 1, 0, 0, 7, 4, 0, 0, 0, 0, 4294967295, []⟩, -- DEVICE_TYPE
  ⟨0x1001, 1, 1, 0, 0, 5, 1, 0, 0, 0, 0, 255, []⟩, -- ERROR_REGISTER
  ⟨0x1003, 1, 1, 0, 0, 5, 1, 5, 7, 0, 0, 255, []⟩, -- ERROR_COUNT (write 0 only)
  ⟨0x1003, 1, 1, 1, 16, 7, 4, 0, 0, 0, 0, 4294967295, []⟩, -- ERROR_n
  ⟨0x1005, 1, 1, 0, 0, 7, 4, 1, 7, 128, 0, 4294967295, []⟩, -- COB_ID_SYNC
  ⟨0x1008, 1, 1, 0, 0, 9, 64, 0, 0, 0, 0, 0, []⟩, -- DEVICE_NAME
  ⟨0x1009, 1, 1, 0, 0, 9, 64, 0, 0, 0, 0, 0, []⟩, -- HW_VERSION
  ⟨0x100A, 1, 1, 0, 0, 9, 64, 0, 0, 0, 0, 0, []⟩, -- SW_VERSION
  ⟨0x1010, 1, 1, 1, 4, 7, 4, 5, 7, 1, 0, 4294967295, []⟩, -- STORE,Table 16-8
  ⟨0x1011, 1, 1, 1, 4, 7, 4, 5, 7, 1, 0, 4294967295, []⟩, -- RESTORE,Table 16-8
  ⟨0x1014, 1, 1, 0, 0, 7, 4, 1, 7, 255, 0, 4294967295, []⟩, -- COB_ID_EMCY
  ⟨0x1015, 1, 1, 0, 0, 6, 2, 1, 7, 0, 0, 65535, []⟩, -- INHIBIT_EMCY (100 µs units)
  ⟨0x1017, 1, 1, 0, 0, 6, 2, 1, 7, 0, 0, 65535, []⟩, -- HEARTBEAT_MS (0 off)
  ⟨0x1018, 1, 1, 1, 1, 7, 4, 0, 0, 2685, 0, 4294967295, []⟩, -- VENDOR_ID
  ⟨0x1018, 1, 1, 2, 2, 7, 4, 0, 0, 2144, 0, 4294967295, []⟩, -- PRODUCT_CODE
  ⟨0x1018, 1, 1, 3, 3, 7, 4, 0, 0, 176, 0, 4294967295, []⟩, -- REVISION
  ⟨0x1018, 1, 1, 4, 4, 7, 4, 0, 0, 0, 0, 4294967295, []⟩, -- SERIAL
  ⟨0x1400, 1, 1, 1, 1, 7, 4, 1, 7, 639, 0, 4294967295, []⟩, -- RPDO COB-ID
  ⟨0x1400, 1, 1, 2, 2, 5, 1, 1, 7, 255, 0, 255, []⟩, -- RPDO transmission type
  ⟨0x1600, 1, 1, 0, 0, 5, 1, 1, 7, 0, 0, 64, []⟩, -- RPDO mapping count
  ⟨0x1600, 1, 1, 1, 64, 7, 4, 1, 7, 0, 0, 4294967295, []⟩, -- RPDO mapping
  ⟨0x1800, 1, 1, 1, 1, 7, 4, 1, 7, 511, 0, 4294967295, []⟩, -- TPDO 0 COB-ID
  ⟨0x1800, 8, 1, 2, 2, 5, 1, 1, 7, 254, 0, 240, [254]⟩, -- TPDO transmission type
  ⟨0x1800, 8, 1, 3, 3, 6, 2, 1, 7, 0, 0, 65535, []⟩, -- TPDO inhibit
  ⟨0x1800, 8, 1, 5, 5, 6, 2, 1, 7, 0, 0, 65535, []⟩, -- TPDO event timer
  ⟨0x1801, 7, 1, 1, 1, 7, 4, 1, 7, 2147483648, 0, 4294967295, []⟩, -- TPDO COB-ID, disabled
  ⟨0x1A00, 8, 1, 0, 0, 5, 1, 1, 7, 0, 0, 64, []⟩, -- TPDO mapping count
  ⟨0x1A00, 8, 1, 1, 64, 7, 4, 1, 7, 0, 0, 4294967295, []⟩, -- TPDO mapping
  ⟨0x1C00, 1, 1, 1, 1, 5, 1, 0, 0, 1, 0, 255, []⟩, -- sync manager type
  ⟨0x1C00, 1, 1, 2, 2, 5, 1, 0, 0, 2, 0, 255, []⟩, -- sync manager type
  ⟨0x1C00, 1, 1, 3, 3, 5, 1, 0, 0, 3, 0, 255, []⟩, -- sync manager type
  ⟨0x1C00, 1, 1, 4, 4, 5, 1, 0, 0, 4, 0, 255, []⟩, -- sync manager type
  ⟨0x1C12, 1, 1, 0, 0, 5, 1, 1, 7, 0, 0, 1, []⟩, -- RxPDO assignment count
  ⟨0x1C12, 1, 1, 1, 1, 6, 2, 1, 7, 0, 0, 65535, []⟩, -- RxPDO assignment
  ⟨0x1C13, 1, 1, 0, 0, 5, 1, 1, 7, 0, 0, 8, []⟩, -- TxPDO assignment count
  ⟨0x1C13, 1, 1, 1, 8, 6, 2, 1, 7, 0, 0, 65535, []⟩, -- TxPDO assignment
  ⟨0x1C32, 2, 1, 1, 1, 6, 2, 1, 7, 0, 0, 2, [0x22]⟩, -- sync type (free run)
  ⟨0x1C32, 2, 1, 2, 2, 7, 4, 1, 7, 1000000, 125000, 100000000, []⟩, -- cycle time in ns
  ⟨0x1C32, 2, 1, 4, 4, 6, 2, 0, 0, 7, 0, 65535, []⟩, -- sync types supported
  ⟨0x1C32, 2, 1, 5, 5, 7, 4, 0, 0, 125000, 0, 4294967295, []⟩, -- minimum cycle time in ns
  ⟨0x2000, 1, 1, 1, 1, 5, 1, 0, 0, 1, 0, 255, []⟩, -- STAGE
  ⟨0x2000, 1, 1, 2, 2, 5, 1, 1, 7, 3, 1, 0, [2, 3]⟩, -- TARGET_STAGE (2,3)
  ⟨0x2000, 1, 1, 3, 3, 6, 2, 0, 0, 848, 0, 65535, []⟩] -- START_STATUS

/-- Entries from 0x2000. -/
def entries1 : List EntryRow := [
  ⟨0x2000, 1, 1, 4, 4, 5, 1, 1, 3, 0, 0, 255, []⟩, -- REQUIRED_FOUNTS (bit k,slot k)
  ⟨0x2000, 1, 1, 5, 5, 7, 4, 1, 3, 0, 0, 4294967295, []⟩, -- REQUIRED_GRAMMARS (bit g,slot g)
  ⟨0x2000, 1, 1, 6, 6, 1, 1, 0, 0, 0, 0, 1, []⟩, -- LEAVE_PENDING
  ⟨0x2000, 1, 1, 7, 7, 5, 1, 1, 3, 1, 0, 2, []⟩, -- MEM_TEST (0–2)
  ⟨0x2000, 1, 1, 8, 8, 5, 1, 5, 7, 0, 0, 255, []⟩, -- RESET_REQUEST
  ⟨0x2000, 1, 1, 9, 9, 27, 8, 0, 0, 0, 0, 18446744073709551615, []⟩, -- PRESS_ENTRY_TIME
  ⟨0x2000, 1, 1, 10, 10, 7, 4, 0, 0, 0, 0, 4294967295, []⟩, -- PRESS_ENTRIES
  ⟨0x2000, 1, 1, 11, 11, 7, 4, 0, 0, 0, 0, 4294967295, []⟩, -- STORED_REFUSED
  ⟨0x2001, 1, 1, 1, 1, 27, 8, 0, 0, 1, 0, 18446744073709551615, []⟩, -- READY
  ⟨0x2001, 1, 1, 2, 2, 27, 8, 0, 0, 0, 0, 18446744073709551615, []⟩, -- FAILED
  ⟨0x2002, 1, 1, 1, 1, 5, 1, 0, 0, 0, 0, 255, []⟩, -- RESET_CAUSE
  ⟨0x2002, 1, 1, 2, 2, 7, 4, 0, 0, 0, 0, 4294967295, []⟩, -- CHASE_TIME_US
  ⟨0x2002, 1, 1, 3, 3, 7, 4, 0, 0, 0, 0, 4294967295, []⟩, -- PROOF_TIME_US
  ⟨0x2002, 1, 1, 4, 4, 7, 4, 0, 0, 0, 0, 4294967295, []⟩, -- JOINS
  ⟨0x2100, 1, 1, 1, 1, 5, 1, 1, 7, 3, 1, 15, []⟩, -- ATTEMPT_LIMIT (1–15)
  ⟨0x2100, 1, 1, 2, 2, 27, 8, 0, 0, 0, 0, 18446744073709551615, []⟩, -- FORMES_ADMITTED
  ⟨0x2100, 1, 1, 3, 3, 27, 8, 0, 0, 0, 0, 18446744073709551615, []⟩, -- FORMES_COMMITTED
  ⟨0x2100, 1, 1, 4, 4, 27, 8, 0, 0, 0, 0, 18446744073709551615, []⟩, -- FORME_RESTARTS
  ⟨0x2100, 1, 1, 5, 5, 27, 8, 0, 0, 0, 0, 18446744073709551615, []⟩, -- FORMES_ABANDONED
  ⟨0x2100, 1, 1, 6, 6, 27, 8, 0, 0, 0, 0, 18446744073709551615, []⟩, -- ADMISSION_WAITS
  ⟨0x2100, 1, 1, 7, 7, 27, 8, 0, 0, 0, 0, 18446744073709551615, []⟩, -- BARE_GROUPS
  ⟨0x2100, 1, 1, 8, 8, 7, 4, 0, 0, 0, 0, 4294967295, []⟩, -- READING_STOPS
  ⟨0x2100, 1, 1, 9, 9, 7, 4, 0, 0, 0, 0, 4294967295, []⟩, -- ENTRIES_RESTORED
  ⟨0x2101, 1, 1, 1, 12, 6, 2, 0, 0, 0, 0, 65535, []⟩, -- QUEUE_DEPTH_KIND_k (sub k + 1)
  ⟨0x2110, 5, 1, 1, 1, 5, 1, 1, 7, 3, 1, 255, []⟩, -- THRESHOLD (1–255)
  ⟨0x2110, 5, 1, 2, 2, 7, 4, 1, 7, 10000, 100, 3600000, []⟩, -- WINDOW_MS (100–3,600,000)
  ⟨0x2110, 5, 1, 3, 3, 27, 8, 0, 0, 0, 0, 18446744073709551615, []⟩, -- EVENTS
  ⟨0x2110, 5, 1, 4, 4, 7, 4, 0, 0, 0, 0, 4294967295, []⟩, -- LASTING_MASK
  ⟨0x2110, 5, 1, 5, 5, 6, 2, 0, 0, 0, 0, 65535, []⟩, -- LAST_SOURCE
  ⟨0x2120, 1, 1, 1, 1, 6, 2, 0, 0, 0, 0, 65535, []⟩, -- LAST_FAULT_STATUS
  ⟨0x2120, 1, 1, 2, 2, 5, 1, 0, 0, 0, 0, 255, []⟩, -- LAST_FAULT_CLASS
  ⟨0x2120, 1, 1, 3, 3, 6, 2, 0, 0, 0, 0, 65535, []⟩, -- LAST_FAULT_SOURCE
  ⟨0x2120, 1, 1, 4, 4, 27, 8, 0, 0, 0, 0, 18446744073709551615, []⟩, -- LAST_FAULT_TIME
  ⟨0x2120, 1, 1, 5, 5, 7, 4, 0, 0, 0, 0, 4294967295, []⟩, -- LAST_FORME_ID
  ⟨0x2200, 1, 1, 1, 1, 5, 1, 1, 7, 6, 1, 6, []⟩, -- STRETCH_ENV (1–6)
  ⟨0x2201, 1, 1, 1, 1, 5, 1, 1, 7, 0, 0, 2, []⟩, -- FREQ_REQUEST (0–2)
  ⟨0x2201, 1, 1, 2, 2, 5, 1, 0, 0, 0, 0, 255, []⟩, -- FREQ_POINT
  ⟨0x2201, 1, 1, 3, 3, 5, 1, 0, 0, 0, 0, 255, []⟩, -- LOOP_POINT
  ⟨0x2201, 1, 1, 4, 4, 5, 1, 1, 7, 2, 0, 2, []⟩, -- FLOOR_POINT (0–2)
  ⟨0x2201, 1, 1, 5, 5, 27, 8, 0, 0, 0, 0, 18446744073709551615, []⟩] -- FREQ_CHANGES

/-- Entries from 0x2202. -/
def entries2 : List EntryRow := [
  ⟨0x2202, 1, 1, 1, 1, 5, 1, 1, 7, 100, 70, 105, []⟩, -- TJ_STEP_C (70–105)
  ⟨0x2202, 1, 1, 2, 2, 5, 1, 1, 7, 5, 2, 20, []⟩, -- TJ_HYST_C (2–20)
  ⟨0x2202, 1, 1, 3, 3, 3, 2, 0, 0, 0, 0, 65535, []⟩, -- TJ_MAX
  ⟨0x2203, 1, 1, 1, 8, 3, 2, 0, 0, 0, 0, 65535, []⟩, -- TJ_DIE
  ⟨0x2204, 1, 1, 1, 1, 6, 2, 1, 7, 0, 60, 175, [0]⟩, -- POWER_CAP_W (0,60–175)
  ⟨0x2204, 1, 1, 2, 2, 7, 4, 0, 0, 0, 0, 4294967295, []⟩, -- POWER_MW
  ⟨0x2205, 1, 1, 1, 1, 27, 8, 0, 0, 0, 0, 18446744073709551615, []⟩, -- STRETCH_ENV_EVENTS
  ⟨0x2205, 1, 1, 2, 2, 27, 8, 0, 0, 0, 0, 18446744073709551615, []⟩, -- FLOOR_EVENTS
  ⟨0x2205, 1, 1, 3, 3, 27, 8, 0, 0, 0, 0, 18446744073709551615, []⟩, -- POWER_CAP_EVENTS
  ⟨0x2210, 1, 1, 1, 1, 27, 8, 0, 0, 0, 0, 18446744073709551615, []⟩, -- OVERRIDES
  ⟨0x2210, 1, 1, 2, 2, 6, 2, 0, 0, 0, 0, 65535, []⟩, -- LAST_OVERRIDE_STATUS
  ⟨0x2210, 1, 1, 3, 3, 27, 8, 0, 0, 0, 0, 18446744073709551615, []⟩, -- LAST_OVERRIDE_TIME
  ⟨0x2210, 1, 1, 4, 4, 5, 1, 0, 0, 0, 0, 255, []⟩, -- LAST_OVERRIDE_SOURCE
  ⟨0x2300, 1, 1, 1, 1, 5, 1, 0, 0, 0, 0, 255, []⟩, -- VIEW
  ⟨0x2301, 1, 1, 1, 1, 6, 2, 1, 7, 16, 0, 1024, []⟩, -- SCRUB_WORDS
  ⟨0x2301, 1, 1, 2, 2, 27, 8, 0, 0, 0, 0, 18446744073709551615, []⟩, -- SCRUB_PASSES
  ⟨0x2301, 1, 1, 3, 3, 27, 8, 0, 0, 0, 0, 18446744073709551615, []⟩, -- SCRUB_DETECTIONS
  ⟨0x2302, 1, 1, 1, 1, 1, 1, 1, 7, 1, 0, 1, []⟩, -- GATE_IDLE_ENABLE
  ⟨0x2302, 1, 1, 2, 2, 6, 2, 1, 7, 16, 1, 65535, []⟩, -- GATE_IDLE_FRAMES
  ⟨0x2303, 1, 1, 1, 6, 6, 2, 0, 0, 0, 0, 65535, []⟩, -- GATED_BANKS_CDn (sub n + 1 for CDn)
  ⟨0x2304, 1, 1, 1, 6, 27, 8, 0, 0, 0, 0, 18446744073709551615, []⟩, -- DETECTIONS_CDn (sub n + 1 for CDn)
  ⟨0x2305, 1, 1, 1, 1, 5, 1, 0, 0, 0, 0, 255, []⟩, -- LAST_DET_DIE
  ⟨0x2305, 1, 1, 2, 2, 6, 2, 0, 0, 0, 0, 65535, []⟩, -- LAST_DET_BANK
  ⟨0x2305, 1, 1, 3, 3, 6, 2, 0, 0, 0, 0, 65535, []⟩, -- LAST_DET_ROW
  ⟨0x2305, 1, 1, 4, 4, 5, 1, 0, 0, 0, 0, 255, []⟩, -- LAST_DET_SOURCE
  ⟨0x2305, 1, 1, 5, 5, 27, 8, 0, 0, 0, 0, 18446744073709551615, []⟩, -- LAST_DET_TIME
  ⟨0x2306, 1, 1, 1, 1, 27, 8, 0, 0, 0, 0, 18446744073709551615, []⟩, -- REFUSED_GATED
  ⟨0x2306, 1, 1, 2, 2, 27, 8, 0, 0, 0, 0, 18446744073709551615, []⟩, -- REFUSED_WINDOW_CLOSED
  ⟨0x2306, 1, 1, 3, 3, 27, 8, 0, 0, 0, 0, 18446744073709551615, []⟩, -- REFUSED_WINDOW_RANGE
  ⟨0x2306, 1, 1, 4, 4, 27, 8, 0, 0, 0, 0, 18446744073709551615, []⟩, -- POISONED_WORDS
  ⟨0x2306, 1, 1, 5, 5, 27, 8, 0, 0, 0, 0, 18446744073709551615, []⟩, -- RESTORED_WORDS
  ⟨0x2400, 1, 1, 1, 1, 27, 8, 0, 0, 0, 0, 18446744073709551615, []⟩, -- CORE_PRESENT_LO
  ⟨0x2400, 1, 1, 2, 2, 7, 4, 0, 0, 0, 0, 4294967295, []⟩, -- CORE_PRESENT_HI
  ⟨0x2401, 1, 1, 1, 96, 7, 4, 0, 0, 0, 0, 4294967295, []⟩, -- VIOLATIONS_CORE_n (sub n + 1 for core n)
  ⟨0x2402, 1, 1, 1, 1, 6, 2, 0, 0, 0, 0, 65535, []⟩, -- LAST_STATUS
  ⟨0x2402, 1, 1, 2, 2, 5, 1, 0, 0, 0, 0, 255, []⟩, -- LAST_CORE
  ⟨0x2402, 1, 1, 3, 3, 7, 4, 0, 0, 0, 0, 4294967295, []⟩, -- LAST_PLATE
  ⟨0x2402, 1, 1, 4, 4, 7, 4, 0, 0, 0, 0, 4294967295, []⟩, -- LAST_BUNDLE
  ⟨0x2402, 1, 1, 5, 5, 27, 8, 0, 0, 0, 0, 18446744073709551615, []⟩, -- LAST_TIME
  ⟨0x2402, 1, 1, 6, 6, 6, 2, 0, 0, 0, 0, 65535, []⟩] -- LAST_SLOT

/-- Entries from 0x2402. -/
def entries3 : List EntryRow := [
  ⟨0x2402, 1, 1, 7, 7, 1, 1, 0, 0, 0, 0, 1, []⟩, -- LAST_SLOT_VALID
  ⟨0x2403, 1, 1, 1, 1, 27, 8, 5, 7, 0, 0, 18446744073709551615, []⟩, -- NAN_PRODUCED
  ⟨0x2403, 1, 1, 2, 2, 27, 8, 5, 7, 0, 0, 18446744073709551615, []⟩, -- INF_PRODUCED
  ⟨0x2404, 1, 1, 1, 1, 27, 8, 0, 0, 0, 0, 18446744073709551615, []⟩, -- REPLAYS
  ⟨0x2404, 1, 1, 2, 2, 27, 8, 0, 0, 0, 0, 18446744073709551615, []⟩, -- REPLAY_RESTARTS
  ⟨0x2440, 1, 1, 1, 1, 27, 8, 0, 0, 0, 0, 18446744073709551615, []⟩, -- SCALE_FAULTS
  ⟨0x2440, 1, 1, 2, 2, 7, 4, 0, 0, 0, 0, 4294967295, []⟩, -- WEIGHT_SCALE_REFUSALS
  ⟨0x2440, 1, 1, 3, 3, 27, 8, 0, 0, 0, 0, 18446744073709551615, []⟩, -- STOCHASTIC_CONVERSIONS
  ⟨0x2440, 1, 1, 4, 4, 27, 8, 0, 0, 0, 0, 18446744073709551615, []⟩, -- SEGMENTS_FOLDED
  ⟨0x2440, 1, 1, 5, 5, 27, 8, 0, 0, 0, 0, 18446744073709551615, []⟩, -- SEGMENTS_DISCARDED
  ⟨0x2441, 63, 1, 1, 1, 27, 8, 0, 0, 0, 0, 18446744073709551615, []⟩, -- GROUPS
  ⟨0x2441, 63, 1, 2, 2, 27, 8, 0, 0, 0, 0, 18446744073709551615, []⟩, -- ZERO_GROUPS
  ⟨0x2441, 63, 1, 3, 3, 27, 8, 0, 0, 0, 0, 18446744073709551615, []⟩, -- SATURATED
  ⟨0x2441, 63, 1, 4, 4, 27, 8, 0, 0, 0, 0, 18446744073709551615, []⟩, -- NONFINITE
  ⟨0x2441, 63, 1, 5, 5, 17, 8, 0, 0, 0, 0, 18446744073709551615, []⟩, -- SSE
  ⟨0x2441, 63, 1, 6, 6, 17, 8, 0, 0, 0, 0, 18446744073709551615, []⟩, -- SUMSQ
  ⟨0x2441, 63, 1, 7, 7, 8, 4, 0, 0, 0, 0, 4294967295, []⟩, -- MAXABS
  ⟨0x2441, 63, 1, 8, 8, 2, 1, 0, 0, 127, 0, 255, []⟩, -- MIN_SCALE
  ⟨0x2441, 63, 1, 9, 9, 2, 1, 0, 0, 129, 0, 255, []⟩, -- MAX_SCALE
  ⟨0x2441, 63, 1, 10, 10, 5, 1, 5, 7, 0, 0, 255, []⟩, -- CLEAR
  ⟨0x2500, 1, 1, 1, 1, 7, 4, 0, 0, 0, 0, 4294967295, []⟩, -- ACTIVE_SET_ID
  ⟨0x2500, 1, 1, 2, 2, 5, 1, 0, 0, 0, 0, 255, []⟩, -- ACTIVE_AREA
  ⟨0x2500, 1, 1, 3, 3, 5, 1, 0, 0, 1, 0, 255, []⟩, -- CONTRACT_MAJOR
  ⟨0x2500, 1, 1, 4, 4, 5, 1, 0, 0, 0, 0, 255, []⟩, -- CONTRACT_MINOR
  ⟨0x2501, 1, 1, 1, 1, 7, 4, 0, 0, 0, 0, 4294967295, []⟩, -- AREA0_SET_ID
  ⟨0x2501, 1, 1, 2, 2, 5, 1, 0, 0, 0, 0, 255, []⟩, -- AREA0_STATE
  ⟨0x2501, 1, 1, 3, 3, 6, 2, 0, 0, 0, 0, 65535, []⟩, -- AREA0_STATUS
  ⟨0x2502, 1, 1, 1, 1, 7, 4, 0, 0, 0, 0, 4294967295, []⟩, -- AREA1_SET_ID
  ⟨0x2502, 1, 1, 2, 2, 5, 1, 0, 0, 0, 0, 255, []⟩, -- AREA1_STATE
  ⟨0x2502, 1, 1, 3, 3, 6, 2, 0, 0, 0, 0, 65535, []⟩, -- AREA1_STATUS
  ⟨0x2503, 1, 1, 1, 1, 5, 1, 5, 6, 0, 0, 255, []⟩, -- ACTIVATE_AREA
  ⟨0x2503, 1, 1, 2, 2, 1, 1, 0, 0, 0, 0, 1, []⟩, -- ACTIVATION_PENDING
  ⟨0x2504, 1, 1, 1, 1, 5, 1, 0, 0, 0, 0, 255, []⟩, -- IMPOSITION_ID
  ⟨0x2504, 1, 1, 2, 2, 5, 1, 0, 0, 0, 0, 255, []⟩, -- LEFT_OUT_DIE
  ⟨0x2504, 1, 1, 3, 3, 27, 8, 2, 0, 1000000, 0, 4294967295, []⟩, -- FRAME_NS
  ⟨0x2504, 1, 1, 4, 4, 7, 4, 0, 0, 0, 0, 4294967295, []⟩, -- PAGE_BUDGET
  ⟨0x2504, 1, 1, 5, 5, 27, 8, 0, 0, 0, 0, 18446744073709551615, []⟩, -- IMPOSITION_SWITCHES
  ⟨0x2504, 1, 1, 6, 6, 27, 8, 0, 0, 0, 0, 18446744073709551615, []⟩, -- FRAME_COUNT
  ⟨0x2505, 1, 1, 1, 1, 1, 1, 0, 0, 0, 0, 1, []⟩, -- CONTRACT_SUSPECT
  ⟨0x2505, 1, 1, 2, 2, 6, 2, 0, 0, 0, 0, 65535, []⟩] -- SUSPECT_PLATE

/-- Entries from 0x2505. -/
def entries4 : List EntryRow := [
  ⟨0x2505, 1, 1, 3, 3, 7, 4, 0, 0, 0, 0, 4294967295, []⟩, -- PLATE_LASTING_DECISIONS
  ⟨0x2505, 1, 1, 4, 4, 5, 1, 5, 6, 0, 0, 255, []⟩, -- CLEAR_SUSPECT
  ⟨0x2506, 1, 1, 1, 1, 27, 8, 0, 0, 0, 0, 18446744073709551615, []⟩, -- EMPTY_SLOTS
  ⟨0x2506, 1, 1, 2, 2, 27, 8, 0, 0, 0, 0, 18446744073709551615, []⟩, -- OPERAND_REFUSALS
  ⟨0x3000, 4, 256, 1, 1, 5, 1, 1, 3, 0, 0, 2, []⟩, -- IF_MODE (0–2)
  ⟨0x3000, 4, 256, 2, 2, 5, 1, 1, 3, 1, 1, 0, [1, 2, 4, 8]⟩, -- SEGMENTS (1,2,4,8)
  ⟨0x3000, 4, 256, 3, 3, 5, 1, 1, 3, 0, 0, 255, []⟩, -- SEGMENT_REVERSE
  ⟨0x3000, 4, 256, 4, 4, 5, 1, 1, 3, 16, 8, 16, []⟩, -- SAMPLE_BITS (8–16)
  ⟨0x3000, 4, 256, 5, 5, 5, 1, 1, 3, 1, 1, 0, [1, 3]⟩, -- PLANES (1,3)
  ⟨0x3000, 4, 256, 6, 6, 5, 1, 1, 3, 0, 1, 0, [0, 1]⟩, -- PLANE_ORDER (0,1)
  ⟨0x3000, 4, 256, 7, 7, 6, 2, 1, 3, 0, 0, 16384, []⟩, -- PIXELS (0–16,384)
  ⟨0x3000, 4, 256, 8, 8, 6, 2, 1, 3, 200, 20, 10000, []⟩, -- LT_WIDTH_NS (20–10,000)
  ⟨0x3000, 4, 256, 9, 9, 1, 1, 1, 6, 0, 0, 1, []⟩, -- ENABLE
  ⟨0x3001, 4, 256, 1, 1, 6, 2, 1, 7, 32, 16, 256, []⟩, -- BLACK_LINES (16–256)
  ⟨0x3001, 4, 256, 2, 2, 6, 2, 1, 7, 32, 16, 256, []⟩, -- GREY_LINES (16–256)
  ⟨0x3001, 4, 256, 3, 3, 6, 2, 1, 7, 8, 0, 255, []⟩, -- SETTLE_LINES (0–255)
  ⟨0x3001, 4, 256, 4, 4, 1, 1, 1, 7, 1, 0, 1, []⟩, -- TRIM
  ⟨0x3001, 4, 256, 5, 5, 6, 2, 1, 7, 2048, 0, 65535, []⟩, -- SPREAD_LIMIT
  ⟨0x3001, 4, 256, 6, 6, 7, 4, 1, 7, 4096, 0, 4294967295, []⟩, -- DUST_LIMIT (1/16 LSB)
  ⟨0x3001, 4, 256, 7, 7, 6, 2, 1, 7, 29789, 16384, 65535, []⟩, -- STRIP_GAIN (16,384–65,535)
  ⟨0x3001, 4, 256, 8, 8, 6, 2, 1, 7, 61440, 1, 65535, []⟩, -- WHITE_TARGET (1–65,535)
  ⟨0x3001, 4, 256, 9, 9, 7, 4, 1, 7, 256, 16, 1048560, []⟩, -- MIN_SPAN (16–1,048,560)
  ⟨0x3001, 4, 256, 10, 10, 6, 2, 1, 7, 1, 0, 65535, []⟩, -- MAKEREADY_INTERVAL
  ⟨0x3001, 4, 256, 11, 11, 6, 2, 1, 7, 16, 0, 65535, []⟩, -- MAX_REF_AGE
  ⟨0x3001, 4, 256, 12, 12, 6, 2, 1, 7, 65535, 0, 65535, []⟩, -- LAMP_DUTY (value / 65,535)
  ⟨0x3001, 4, 256, 13, 13, 7, 4, 1, 3, 20000, 1000, 100000, []⟩, -- LAMP_PWM_HZ (1,000–100,000)
  ⟨0x3002, 4, 256, 1, 1, 5, 1, 1, 3, 1, 1, 4, []⟩, -- AVG_FACTOR (1–4)
  ⟨0x3002, 4, 256, 2, 2, 5, 1, 1, 3, 8, 1, 0, [8, 16]⟩, -- OUT_BITS (8,16)
  ⟨0x3002, 4, 256, 3, 3, 5, 1, 1, 3, 0, 1, 0, [0, 1]⟩, -- PASS_MODE (0,1)
  ⟨0x3002, 4, 256, 4, 4, 7, 4, 1, 3, 42333, 1, 4294967295, []⟩, -- PIXEL_PITCH_NM (native; 1 or more)
  ⟨0x3002, 4, 256, 5, 5, 7, 4, 1, 3, 84667, 1, 4294967295, []⟩, -- LINE_PITCH_NM (1 or more)
  ⟨0x3002, 4, 256, 6, 6, 27, 8, 3, 3, 7200, 0, 4294967295, []⟩, -- MAX_PAGE_LINES
  ⟨0x3003, 4, 256, 1, 1, 5, 1, 1, 3, 0, 0, 2, []⟩, -- EDGE_PLANE (0–2; compared with PLANES at ENABLE,R160)
  ⟨0x3003, 4, 256, 2, 2, 6, 2, 1, 3, 16384, 0, 65535, []⟩, -- EDGE_LO
  ⟨0x3003, 4, 256, 3, 3, 6, 2, 1, 3, 45056, 0, 65535, []⟩, -- EDGE_HI
  ⟨0x3003, 4, 256, 4, 4, 6, 2, 1, 3, 8, 1, 16384, []⟩, -- EDGE_MIN_RUN (1–16,384)
  ⟨0x3003, 4, 256, 5, 5, 5, 1, 1, 3, 4, 1, 15, []⟩, -- EDGE_CONFIRM (1–15)
  ⟨0x3003, 4, 256, 6, 6, 6, 2, 1, 3, 32, 0, 65535, []⟩, -- SKEW_MARGIN
  ⟨0x3003, 4, 256, 7, 7, 6, 2, 1, 3, 8, 1, 65535, []⟩, -- SKEW_STEP (1–65,535)
  ⟨0x3003, 4, 256, 8, 8, 6, 2, 1, 3, 16, 2, 65535, []⟩] -- SKEW_MIN_POINTS (2–65,535)

/-- Entries from 0x3004. -/
def entries5 : List EntryRow := [
  ⟨0x3004, 4, 256, 1, 1, 6, 2, 1, 3, 0, 0, 65535, []⟩, -- MON_FIRST
  ⟨0x3004, 4, 256, 2, 2, 6, 2, 1, 3, 0, 0, 65535, []⟩, -- MON_COUNT
  ⟨0x3004, 4, 256, 3, 3, 6, 2, 1, 7, 655, 0, 3277, []⟩, -- DRIFT_ENV (0–3,277)
  ⟨0x3004, 4, 256, 4, 4, 6, 2, 0, 0, 32768, 0, 65535, []⟩, -- DRIFT_FACTOR
  ⟨0x3004, 4, 256, 5, 5, 27, 8, 0, 0, 0, 0, 18446744073709551615, []⟩, -- DRIFT_ENV_EVENTS
  ⟨0x3005, 4, 256, 1, 1, 27, 8, 3, 3, 0, 0, 4294967295, []⟩, -- BAND_RING_ADDR
  ⟨0x3005, 4, 256, 2, 2, 27, 8, 3, 3, 0, 0, 4294967295, []⟩, -- BAND_RING_BYTES
  ⟨0x3005, 4, 256, 3, 3, 6, 2, 1, 3, 64, 0, 4096, []⟩, -- BAND_LINES (0–4,096)
  ⟨0x3006, 4, 256, 1, 1, 27, 8, 0, 0, 0, 0, 18446744073709551615, []⟩, -- LINES
  ⟨0x3006, 4, 256, 2, 2, 27, 8, 0, 0, 0, 0, 18446744073709551615, []⟩, -- PAGES
  ⟨0x3006, 4, 256, 3, 3, 27, 8, 0, 0, 0, 0, 18446744073709551615, []⟩, -- LINE_ERRORS
  ⟨0x3006, 4, 256, 4, 4, 27, 8, 0, 0, 0, 0, 18446744073709551615, []⟩, -- LINE_CRC_ERRORS
  ⟨0x3006, 4, 256, 5, 5, 27, 8, 0, 0, 0, 0, 18446744073709551615, []⟩, -- LINES_REPAIRED
  ⟨0x3006, 4, 256, 6, 6, 27, 8, 0, 0, 0, 0, 18446744073709551615, []⟩, -- MAKEREADIES
  ⟨0x3006, 4, 256, 7, 7, 27, 8, 0, 0, 0, 0, 18446744073709551615, []⟩, -- MAKEREADY_SKIPPED
  ⟨0x3006, 4, 256, 8, 8, 7, 4, 0, 0, 0, 0, 4294967295, []⟩, -- DEFECT_PIXELS
  ⟨0x3006, 4, 256, 9, 9, 7, 4, 0, 0, 0, 0, 4294967295, []⟩, -- NOISY_PIXELS
  ⟨0x3006, 4, 256, 10, 10, 7, 4, 0, 0, 0, 0, 4294967295, []⟩, -- DUST_PIXELS
  ⟨0x3006, 4, 256, 11, 11, 27, 8, 0, 0, 0, 0, 18446744073709551615, []⟩, -- PAGES_TRUNCATED
  ⟨0x3006, 4, 256, 12, 12, 27, 8, 0, 0, 0, 0, 18446744073709551615, []⟩, -- BAND_FALLBACKS
  ⟨0x3006, 4, 256, 13, 13, 6, 2, 0, 0, 0, 0, 65535, []⟩, -- LAST_STATUS
  ⟨0x3006, 4, 256, 14, 14, 7, 4, 0, 0, 0, 0, 4294967295, []⟩, -- LAST_PAGE_SEQ
  ⟨0x3007, 4, 256, 1, 1, 5, 1, 0, 0, 0, 0, 255, []⟩, -- REF_SOURCE
  ⟨0x3007, 4, 256, 2, 2, 5, 1, 5, 6, 0, 0, 255, []⟩, -- REF_STORE
  ⟨0x3007, 4, 256, 3, 3, 6, 2, 0, 0, 0, 0, 65535, []⟩, -- REF_AGE
  ⟨0x3400, 4, 256, 1, 1, 5, 1, 1, 3, 0, 0, 2, []⟩, -- MODE (0 off,1 line-coupled,2 free)
  ⟨0x3400, 4, 256, 2, 2, 5, 1, 1, 3, 0, 0, 15, []⟩, -- COUPLED_CHANNELS (bits 0–3)
  ⟨0x3400, 4, 256, 3, 3, 5, 1, 1, 3, 0, 0, 15, []⟩, -- SIDE_MASK (bits 0–3)
  ⟨0x3400, 4, 256, 4, 4, 5, 1, 1, 3, 4, 1, 16, []⟩, -- PULSES_PER_LINE (1–16)
  ⟨0x3400, 4, 256, 5, 5, 6, 2, 1, 3, 200, 100, 10000, []⟩, -- STEP_HIGH_NS (100–10,000)
  ⟨0x3400, 4, 256, 6, 6, 7, 4, 1, 3, 1000, 0, 100000, []⟩, -- DIR_SETUP_NS (0–100,000)
  ⟨0x3400, 4, 256, 7, 7, 5, 1, 1, 3, 1, 1, 0, [0, 1]⟩, -- DIR_FORWARD_LEVEL (0,1)
  ⟨0x3400, 4, 256, 8, 8, 5, 1, 1, 3, 1, 1, 0, [0, 1]⟩, -- EN_ACTIVE_LEVEL (0,1)
  ⟨0x3400, 4, 256, 9, 9, 5, 1, 1, 3, 0, 1, 0, [0, 1]⟩, -- FI_OUTPUT (0,1)
  ⟨0x3400, 4, 256, 10, 10, 5, 1, 1, 3, 255, 0, 7, [255]⟩, -- SENSOR (0–7,FFh none)
  ⟨0x3400, 4, 256, 11, 11, 7, 4, 1, 3, 0, 0, 4294967295, []⟩, -- SENSOR_DIST (line steps)
  ⟨0x3400, 4, 256, 12, 12, 5, 1, 1, 3, 0, 0, 255, []⟩, -- SENSOR_INVERT (bits 0–7)
  ⟨0x3400, 4, 256, 13, 13, 6, 2, 1, 3, 50, 1, 1000, []⟩, -- DS_FILTER_US (1–1,000)
  ⟨0x3400, 4, 256, 14, 14, 5, 1, 1, 3, 0, 0, 15, []⟩, -- RING (0–15)
  ⟨0x3400, 4, 256, 15, 15, 1, 1, 1, 6, 0, 0, 1, []⟩] -- ENABLE

/-- Entries from 0x3401. -/
def entries6 : List EntryRow := [
  ⟨0x3401, 4, 256, 1, 1, 5, 1, 1, 3, 1, 1, 255, []⟩, -- RAMP_LEN (1–255)
  ⟨0x3401, 4, 256, 2, 2, 5, 1, 1, 3, 2, 2, 255, []⟩, -- STOP_MARGIN (2–255)
  ⟨0x3401, 4, 256, 3, 3, 6, 2, 1, 3, 128, 1, 65535, []⟩, -- RESUME_LINES (1–65,535)
  ⟨0x3402, 4, 256, 1, 1, 27, 8, 3, 3, 200000, 0, 4294967295, []⟩, -- MAX_PULSE_RATE_HZ
  ⟨0x3402, 4, 256, 2, 2, 27, 8, 3, 3, 64, 0, 4294967295, []⟩, -- JAM_TOL (line steps)
  ⟨0x3402, 4, 256, 3, 3, 27, 8, 3, 3, 1200, 0, 4294967295, []⟩, -- LONG_DOC_LINES
  ⟨0x3402, 4, 256, 4, 4, 27, 8, 3, 7, 1000, 0, 4294967295, []⟩, -- STALL_EVENT_MS
  ⟨0x3402, 4, 256, 5, 5, 27, 8, 3, 3, 0, 0, 4294967295, []⟩, -- FIELD_TIMEOUT_MS
  ⟨0x3402, 4, 256, 6, 6, 27, 8, 3, 3, 2147483648, 0, 4294967295, []⟩, -- SOFT_MIN
  ⟨0x3402, 4, 256, 7, 7, 27, 8, 3, 3, 2147483647, 0, 4294967295, []⟩, -- SOFT_MAX
  ⟨0x3403, 4, 256, 1, 1, 27, 8, 3, 6, 0, 0, 4294967295, []⟩, -- TARGET
  ⟨0x3403, 4, 256, 2, 2, 5, 1, 5, 6, 0, 0, 255, []⟩, -- GO
  ⟨0x3403, 4, 256, 3, 3, 27, 8, 2, 0, 0, 0, 4294967295, []⟩, -- POSITION
  ⟨0x3404, 4, 256, 1, 1, 1, 1, 1, 7, 0, 0, 1, []⟩, -- FI_FORCE
  ⟨0x3404, 4, 256, 2, 2, 5, 1, 5, 7, 0, 0, 255, []⟩, -- CLEAR_SAFE
  ⟨0x3405, 4, 256, 1, 1, 5, 1, 0, 0, 6, 0, 255, []⟩, -- STATE
  ⟨0x3405, 4, 256, 2, 2, 27, 8, 0, 0, 0, 0, 18446744073709551615, []⟩, -- LINE_STEPS
  ⟨0x3405, 4, 256, 3, 3, 27, 8, 0, 0, 0, 0, 18446744073709551615, []⟩, -- STALLS
  ⟨0x3405, 4, 256, 4, 4, 27, 8, 0, 0, 0, 0, 18446744073709551615, []⟩, -- ABRUPT_STOPS
  ⟨0x3405, 4, 256, 5, 5, 27, 8, 0, 0, 0, 0, 18446744073709551615, []⟩, -- JAMS
  ⟨0x3405, 4, 256, 6, 6, 27, 8, 0, 0, 0, 0, 18446744073709551615, []⟩, -- FI_ASSERTIONS
  ⟨0x3405, 4, 256, 7, 7, 6, 2, 0, 0, 0, 0, 65535, []⟩, -- LAST_STATUS
  ⟨0x3410, 4, 256, 1, 255, 7, 4, 1, 3, 5000, 0, 4294967295, []⟩, -- RAMP_ENTRY_k (sub k + 1),10 ns units
  ⟨0x3800, 1, 1, 1, 1, 1, 1, 1, 7, 1, 0, 1, []⟩, -- DESKEW
  ⟨0x3800, 1, 1, 2, 2, 6, 2, 1, 7, 65535, 0, 65535, []⟩, -- FILL_VALUE
  ⟨0x3801, 1, 1, 1, 1, 27, 8, 0, 0, 0, 0, 18446744073709551615, []⟩, -- FORMES_GU0
  ⟨0x3801, 1, 1, 2, 2, 27, 8, 0, 0, 0, 0, 18446744073709551615, []⟩, -- FORMES_GU1
  ⟨0x3801, 1, 1, 3, 3, 27, 8, 0, 0, 0, 0, 18446744073709551615, []⟩, -- CROPS
  ⟨0x3801, 1, 1, 4, 4, 27, 8, 0, 0, 0, 0, 18446744073709551615, []⟩, -- BOXES_NOT_READ
  ⟨0x3801, 1, 1, 5, 5, 27, 8, 0, 0, 0, 0, 18446744073709551615, []⟩, -- LINES_SUBSTITUTED
  ⟨0x3801, 1, 1, 6, 6, 27, 8, 0, 0, 0, 0, 18446744073709551615, []⟩, -- OUTPUT_SAMPLES
  ⟨0x3801, 1, 1, 7, 7, 6, 2, 0, 0, 0, 0, 65535, []⟩, -- LAST_STATUS
  ⟨0x3801, 1, 1, 8, 8, 7, 4, 0, 0, 0, 0, 4294967295, []⟩, -- LAST_PAGE_SEQ
  ⟨0x3810, 4, 1, 1, 1, 15, 65540, 1, 7, 0, 0, 0, []⟩, -- ALONG_TABLE_SC0
  ⟨0x3810, 4, 1, 2, 2, 6, 2, 0, 0, 0, 0, 65535, []⟩, -- ALONG_ENTRIES_SC0 (E)
  ⟨0x3810, 4, 1, 3, 3, 1, 1, 1, 7, 0, 0, 1, []⟩, -- ALONG_ENABLE_SC0
  ⟨0x3820, 8, 1, 1, 1, 4, 4, 1, 7, 0, 0, 4294967295, []⟩, -- CX (Q16.16)
  ⟨0x3820, 8, 1, 2, 2, 4, 4, 1, 7, 0, 0, 4294967295, []⟩, -- CY (Q16.16)
  ⟨0x3820, 8, 1, 3, 3, 7, 4, 1, 7, 0, 0, 4294967295, []⟩, -- FX (Q16.16)
  ⟨0x3820, 8, 1, 4, 4, 7, 4, 1, 7, 0, 0, 4294967295, []⟩] -- FY (Q16.16)

/-- Entries from 0x3820. -/
def entries7 : List EntryRow := [
  ⟨0x3820, 8, 1, 5, 9, 4, 4, 1, 7, 0, 0, 4294967295, []⟩, -- K1,K2,K3,P1,P2 (Q2.30)
  ⟨0x3820, 8, 1, 10, 10, 1, 1, 1, 7, 0, 0, 1, []⟩, -- VALID
  ⟨0x3A00, 1, 1, 1, 1, 5, 1, 0, 0, 0, 0, 255, []⟩, -- FOUNTS_RESIDENT (bit k,slot k)
  ⟨0x3A00, 1, 1, 2, 2, 7, 4, 0, 0, 0, 0, 4294967295, []⟩, -- GRAMMARS_RESIDENT (bit g,slot g)
  ⟨0x3A00, 1, 1, 3, 3, 27, 8, 0, 0, 0, 0, 18446744073709551615, []⟩, -- FRISKET_HITS
  ⟨0x3A00, 1, 1, 4, 4, 27, 8, 0, 0, 0, 0, 18446744073709551615, []⟩, -- FRISKET_MISSES
  ⟨0x3A00, 1, 1, 5, 5, 27, 8, 0, 0, 0, 0, 18446744073709551615, []⟩, -- HELD_STEPS
  ⟨0x3A00, 1, 1, 6, 6, 27, 8, 0, 0, 0, 0, 18446744073709551615, []⟩, -- OUTPUT_REPLACED
  ⟨0x3A00, 1, 1, 7, 7, 27, 8, 0, 0, 0, 0, 18446744073709551615, []⟩, -- INPUT_REPLACED
  ⟨0x3A00, 1, 1, 8, 8, 27, 8, 0, 0, 0, 0, 18446744073709551615, []⟩, -- STOP_CUTS
  ⟨0x3A00, 1, 1, 9, 9, 27, 8, 0, 0, 0, 0, 18446744073709551615, []⟩, -- CANDIDATE_FAULTS
  ⟨0x3A00, 1, 1, 10, 10, 27, 8, 0, 0, 0, 0, 18446744073709551615, []⟩, -- TOKENS_EMITTED
  ⟨0x3A00, 1, 1, 11, 11, 27, 8, 0, 0, 0, 0, 18446744073709551615, []⟩, -- TOKENS_TOKENISED
  ⟨0x3A00, 1, 1, 12, 12, 6, 2, 0, 0, 0, 0, 65535, []⟩, -- LAST_STATUS
  ⟨0x3A00, 1, 1, 13, 13, 6, 2, 0, 0, 0, 0, 65535, []⟩, -- LAST_SEQUENCE
  ⟨0x3A01, 1, 1, 1, 1, 5, 1, 5, 7, 0, 0, 255, []⟩, -- CLEAR_COUNTERS
  ⟨0x3A10, 8, 1, 1, 1, 5, 1, 0, 0, 0, 0, 255, []⟩, -- STATE
  ⟨0x3A10, 8, 1, 2, 2, 7, 4, 0, 0, 0, 0, 4294967295, []⟩, -- FOUNT_ID
  ⟨0x3A10, 8, 1, 3, 3, 7, 4, 0, 0, 0, 0, 4294967295, []⟩, -- TOKENS
  ⟨0x3A10, 8, 1, 4, 4, 5, 1, 0, 0, 0, 0, 255, []⟩, -- MAX_TOKEN_BYTES
  ⟨0x3A10, 8, 1, 5, 5, 6, 2, 0, 0, 0, 0, 65535, []⟩, -- NORM_COUNT
  ⟨0x3A10, 8, 1, 6, 6, 7, 4, 0, 0, 0, 0, 4294967295, []⟩, -- EOS
  ⟨0x3A10, 8, 1, 7, 7, 5, 1, 5, 6, 0, 0, 255, []⟩, -- UNLOAD
  ⟨0x3A10, 8, 1, 8, 8, 6, 2, 0, 0, 0, 0, 65535, []⟩, -- STATUS
  ⟨0x3A20, 32, 1, 1, 1, 5, 1, 0, 0, 0, 0, 255, []⟩, -- STATE
  ⟨0x3A20, 32, 1, 2, 2, 7, 4, 0, 0, 0, 0, 4294967295, []⟩, -- GRAMMAR_ID
  ⟨0x3A20, 32, 1, 3, 3, 7, 4, 0, 0, 0, 0, 4294967295, []⟩, -- FOUNT_ID
  ⟨0x3A20, 32, 1, 4, 4, 7, 4, 0, 0, 0, 0, 4294967295, []⟩, -- STATES
  ⟨0x3A20, 32, 1, 5, 5, 7, 4, 0, 0, 0, 0, 4294967295, []⟩, -- FRISKETS
  ⟨0x3A20, 32, 1, 6, 6, 5, 1, 0, 0, 0, 0, 255, []⟩, -- CAPTURES
  ⟨0x3A20, 32, 1, 7, 7, 5, 1, 5, 6, 0, 0, 255, []⟩, -- UNLOAD
  ⟨0x3A20, 32, 1, 8, 8, 6, 2, 0, 0, 0, 0, 65535, []⟩, -- STATUS
  ⟨0x3C00, 1, 1, 1, 1, 7, 4, 0, 0, 0, 0, 4294967295, []⟩, -- SLUGS_LIVE
  ⟨0x3C00, 1, 1, 2, 2, 7, 4, 0, 0, 0, 0, 4294967295, []⟩, -- SLUGS_QUARANTINED
  ⟨0x3C00, 1, 1, 3, 3, 7, 4, 0, 0, 0, 0, 4294967295, []⟩, -- FREE_OPEN
  ⟨0x3C00, 1, 1, 4, 4, 7, 4, 0, 0, 0, 0, 4294967295, []⟩, -- FREE_SEALED_GALLEY
  ⟨0x3C00, 1, 1, 5, 5, 7, 4, 0, 0, 0, 0, 4294967295, []⟩, -- FREE_SEALED_DDR
  ⟨0x3C00, 1, 1, 6, 6, 6, 2, 0, 0, 0, 0, 65535, []⟩, -- SEQUENCES_LIVE
  ⟨0x3C00, 1, 1, 7, 7, 6, 2, 0, 0, 0, 0, 65535, []⟩, -- BATCH_ROWS_VALID
  ⟨0x3C01, 1, 1, 1, 6, 7, 4, 1, 3, 0, 0, 4294967295, []⟩] -- GALLEY_POOL_CDn (sub n + 1),R212

/-- Entries from 0x3C01. -/
def entries8 : List EntryRow := [
  ⟨0x3C01, 1, 1, 7, 7, 7, 4, 0, 0, 0, 0, 4294967295, []⟩, -- OPEN_SLOT_BYTES
  ⟨0x3C01, 1, 1, 8, 8, 7, 4, 0, 0, 0, 0, 4294967295, []⟩, -- SEALED_SLOT_BYTES
  ⟨0x3C01, 1, 1, 9, 9, 7, 4, 0, 0, 0, 0, 4294967295, []⟩, -- DDR_POOL_SLOTS
  ⟨0x3C02, 1, 1, 1, 1, 27, 8, 0, 0, 0, 0, 18446744073709551615, []⟩, -- ALLOCATIONS
  ⟨0x3C02, 1, 1, 2, 2, 27, 8, 0, 0, 0, 0, 18446744073709551615, []⟩, -- COPIES_ON_WRITE
  ⟨0x3C02, 1, 1, 3, 3, 27, 8, 0, 0, 0, 0, 18446744073709551615, []⟩, -- SEALS
  ⟨0x3C02, 1, 1, 4, 4, 27, 8, 0, 0, 0, 0, 18446744073709551615, []⟩, -- MIGRATIONS
  ⟨0x3C02, 1, 1, 5, 5, 27, 8, 0, 0, 0, 0, 18446744073709551615, []⟩, -- EVICTIONS
  ⟨0x3C02, 1, 1, 6, 6, 27, 8, 0, 0, 0, 0, 18446744073709551615, []⟩, -- RECOMPUTES
  ⟨0x3C02, 1, 1, 7, 7, 27, 8, 0, 0, 0, 0, 18446744073709551615, []⟩, -- SUSPENSIONS
  ⟨0x3C02, 1, 1, 8, 8, 27, 8, 0, 0, 0, 0, 18446744073709551615, []⟩, -- SLUG_HOLDS
  ⟨0x3C02, 1, 1, 9, 9, 27, 8, 0, 0, 0, 0, 18446744073709551615, []⟩, -- DESCRIPTOR_FAULTS
  ⟨0x3C02, 1, 1, 10, 10, 27, 8, 0, 0, 0, 0, 18446744073709551615, []⟩, -- IMPORTS
  ⟨0x3C02, 1, 1, 11, 11, 27, 8, 0, 0, 0, 0, 18446744073709551615, []⟩, -- TEMPLATE_REBUILDS
  ⟨0x3C02, 1, 1, 12, 12, 6, 2, 0, 0, 0, 0, 65535, []⟩, -- LAST_STATUS
  ⟨0x3C02, 1, 1, 13, 13, 6, 2, 0, 0, 0, 0, 65535, []⟩, -- LAST_SEQUENCE
  ⟨0x3C10, 8, 1, 1, 1, 5, 1, 1, 3, 64, 1, 0, [16, 32, 64]⟩, -- TOKENS (16,32,64)
  ⟨0x3C10, 8, 1, 2, 2, 5, 1, 1, 3, 1, 1, 64, []⟩, -- HEADS (1–64)
  ⟨0x3C10, 8, 1, 3, 3, 6, 2, 1, 3, 64, 1, 0, [64, 128, 192, 256, 320, 384, 448, 512]⟩, -- HEAD_DIM (64–512,multiple of 64)
  ⟨0x3C10, 8, 1, 4, 4, 5, 1, 1, 3, 0, 0, 4, []⟩, -- FORMAT (0–4)
  ⟨0x3C10, 8, 1, 5, 5, 5, 1, 1, 3, 1, 1, 255, []⟩, -- LAYERS (1–255)
  ⟨0x3C10, 8, 1, 6, 6, 1, 1, 1, 3, 0, 0, 1, []⟩, -- VALID
  ⟨0x3C10, 8, 1, 7, 7, 6, 2, 0, 0, 0, 0, 65535, []⟩, -- CLASS_SLICE_LIMIT
  ⟨0x3E00, 1, 1, 1, 1, 5, 1, 0, 0, 0, 0, 255, []⟩, -- QUEUE_DEPTH
  ⟨0x3E00, 1, 1, 2, 2, 5, 1, 1, 7, 4, 0, 64, []⟩, -- LOW_WATER (0–64)
  ⟨0x3E00, 1, 1, 3, 3, 27, 8, 0, 0, 0, 0, 18446744073709551615, []⟩, -- LOW_WATER_EVENTS
  ⟨0x3E00, 1, 1, 4, 4, 6, 2, 1, 7, 32, 1, 256, []⟩, -- READ_BATCH (1–256)
  ⟨0x3E00, 1, 1, 5, 5, 5, 1, 1, 7, 8, 0, 16, []⟩, -- ADAPT_QUEUE_MAX (0–16)
  ⟨0x3E01, 1, 1, 1, 1, 27, 8, 0, 0, 0, 0, 18446744073709551615, []⟩, -- DECODES
  ⟨0x3E01, 1, 1, 2, 2, 27, 8, 0, 0, 0, 0, 18446744073709551615, []⟩, -- DEFERRED
  ⟨0x3E01, 1, 1, 3, 3, 27, 8, 0, 0, 0, 0, 18446744073709551615, []⟩, -- ABANDONED
  ⟨0x3E01, 1, 1, 4, 4, 27, 8, 0, 0, 0, 0, 18446744073709551615, []⟩, -- CORRUPT_IMAGES
  ⟨0x3E01, 1, 1, 5, 5, 7, 4, 0, 0, 0, 0, 4294967295, []⟩, -- MEAN_US
  ⟨0x3E01, 1, 1, 6, 6, 27, 8, 3, 7, 1000, 2, 60000, []⟩, -- DECODE_LIMIT_MS (2–60,000)
  ⟨0x3E01, 1, 1, 7, 7, 27, 8, 0, 0, 0, 0, 18446744073709551615, []⟩, -- CROPS_SKIPPED
  ⟨0x3E01, 1, 1, 8, 8, 6, 2, 0, 0, 0, 0, 65535, []⟩, -- LAST_STATUS
  ⟨0x3E01, 1, 1, 9, 9, 7, 4, 0, 0, 0, 0, 4294967295, []⟩, -- LAST_PAGE_SEQ
  ⟨0x3E10, 1, 1, 1, 1, 27, 8, 3, 7, 0, 0, 65536, []⟩, -- SAMPLE_COUNT (0–65,536)
  ⟨0x3E10, 1, 1, 2, 2, 6, 2, 1, 7, 16, 1, 256, []⟩, -- BATCH_SIZE (1–256)
  ⟨0x3E10, 1, 1, 3, 3, 27, 8, 3, 7, 1000, 0, 4294967295, []⟩] -- STEPS

/-- Entries from 0x3E10. -/
def entries9 : List EntryRow := [
  ⟨0x3E10, 1, 1, 4, 4, 27, 8, 1, 7, 0, 0, 18446744073709551615, []⟩, -- SEED
  ⟨0x3E10, 1, 1, 5, 5, 8, 4, 1, 7, 953267991, 0, 4294967295, []⟩, -- LR
  ⟨0x3E10, 1, 1, 6, 6, 8, 4, 1, 7, 1063675494, 0, 4294967295, []⟩, -- BETA1
  ⟨0x3E10, 1, 1, 7, 7, 8, 4, 1, 7, 1065336439, 0, 4294967295, []⟩, -- BETA2
  ⟨0x3E10, 1, 1, 8, 8, 8, 4, 1, 7, 897581056, 0, 4294967295, []⟩, -- EPS
  ⟨0x3E10, 1, 1, 9, 9, 1, 1, 1, 7, 1, 0, 1, []⟩, -- AUTO_PUBLISH
  ⟨0x3E11, 1, 1, 1, 1, 5, 1, 1, 7, 2, 0, 15, []⟩, -- SHIFT_MAX (0–15)
  ⟨0x3E11, 1, 1, 2, 2, 6, 2, 1, 7, 1638, 0, 8192, []⟩, -- GAIN_SPAN (0–8,192)
  ⟨0x3E11, 1, 1, 3, 3, 5, 1, 1, 7, 8, 0, 64, []⟩, -- OFFSET_MAX (0–64)
  ⟨0x3E11, 1, 1, 4, 4, 5, 1, 1, 7, 4, 0, 32, []⟩, -- NOISE_MAX (0–32)
  ⟨0x3E12, 1, 1, 1, 1, 5, 1, 5, 4, 0, 1, 0, [0, 1]⟩, -- RUN (0,1)
  ⟨0x3E12, 1, 1, 2, 2, 5, 1, 0, 0, 0, 0, 255, []⟩, -- RUN_STATE
  ⟨0x3E12, 1, 1, 3, 3, 27, 8, 0, 0, 0, 0, 18446744073709551615, []⟩, -- STEP_DONE
  ⟨0x3E12, 1, 1, 4, 4, 5, 1, 5, 4, 0, 0, 255, []⟩, -- PUBLISH
  ⟨0x3E12, 1, 1, 5, 5, 7, 4, 0, 0, 0, 0, 4294967295, []⟩, -- ADAPTER_VERSION
  ⟨0x3E12, 1, 1, 6, 6, 1, 1, 0, 0, 0, 0, 1, []⟩, -- PUBLISH_PENDING
  ⟨0x3E12, 1, 1, 7, 7, 8, 4, 0, 0, 0, 0, 4294967295, []⟩, -- LAST_LOSS
  ⟨0x3E13, 1, 1, 1, 1, 27, 8, 0, 0, 0, 0, 18446744073709551615, []⟩, -- SAMPLES_CORRUPT
  ⟨0x3E13, 1, 1, 2, 2, 27, 8, 0, 0, 0, 0, 18446744073709551615, []⟩, -- SAMPLES_SLOW
  ⟨0x3E13, 1, 1, 3, 3, 27, 8, 0, 0, 0, 0, 18446744073709551615, []⟩, -- STEPS_SKIPPED
  ⟨0x3E13, 1, 1, 4, 4, 7, 4, 0, 0, 0, 0, 4294967295, []⟩, -- SAMPLE_MEAN_US
  ⟨0x3E13, 1, 1, 5, 5, 6, 2, 0, 0, 0, 0, 65535, []⟩, -- LAST_STATUS
  ⟨0x4000, 1, 1, 1, 1, 6, 2, 1, 7, 10, 2, 1000, []⟩, -- POLL_US (2–1,000)
  ⟨0x4000, 1, 1, 2, 2, 5, 1, 0, 0, 0, 0, 255, []⟩, -- LINK_GEN (1–5)
  ⟨0x4000, 1, 1, 3, 3, 5, 1, 0, 0, 0, 0, 255, []⟩, -- LINK_WIDTH (1,2,4,8)
  ⟨0x4000, 1, 1, 4, 4, 1, 1, 0, 0, 0, 0, 1, []⟩, -- BUS_MASTER
  ⟨0x4000, 1, 1, 5, 5, 27, 8, 0, 0, 268435456, 0, 18446744073709551615, []⟩, -- BAR2_BYTES
  ⟨0x4000, 1, 1, 6, 6, 5, 1, 1, 7, 0, 0, 63, []⟩, -- EVENT_VECTOR (0–63)
  ⟨0x4000, 1, 1, 7, 7, 1, 1, 1, 7, 0, 0, 1, []⟩, -- EVENT_MSIX
  ⟨0x4000, 1, 1, 8, 8, 27, 8, 0, 0, 0, 0, 18446744073709551615, []⟩, -- HOST_READ_RETRIES
  ⟨0x4000, 1, 1, 9, 9, 27, 8, 0, 0, 0, 0, 18446744073709551615, []⟩, -- HOST_READ_FAILURES
  ⟨0x4000, 1, 1, 10, 10, 27, 8, 0, 0, 0, 0, 18446744073709551615, []⟩, -- BAD_HOST_WORDS
  ⟨0x4000, 1, 1, 11, 11, 27, 8, 0, 0, 0, 0, 18446744073709551615, []⟩, -- BAR2_WRITES
  ⟨0x4000, 1, 1, 12, 12, 7, 4, 0, 0, 0, 0, 4294967295, []⟩, -- PCIE_RESETS
  ⟨0x4000, 1, 1, 13, 13, 6, 2, 0, 0, 0, 0, 65535, []⟩, -- LAST_STATUS
  ⟨0x4010, 16, 1, 1, 1, 27, 8, 3, 7, 256, 1, 65536, []⟩, -- ENTRIES (1–65,536)
  ⟨0x4010, 16, 1, 2, 3, 27, 8, 3, 7, 0, 0, 4294967295, []⟩, -- BASE_LO,BASE_HI
  ⟨0x4010, 16, 1, 4, 5, 27, 8, 3, 7, 0, 0, 4294967295, []⟩, -- PROD_LO,PROD_HI (host word address)
  ⟨0x4010, 16, 1, 6, 7, 27, 8, 3, 7, 0, 0, 4294967295, []⟩, -- CONS_LO,CONS_HI (host word address)
  ⟨0x4010, 16, 1, 8, 8, 5, 1, 1, 7, 0, 0, 15, []⟩] -- RING (0–15)

/-- Entries from 0x4010. -/
def entries10 : List EntryRow := [
  ⟨0x4010, 16, 1, 9, 9, 5, 1, 1, 7, 0, 0, 63, []⟩, -- VECTOR (0–63)
  ⟨0x4010, 16, 1, 10, 10, 6, 2, 1, 7, 0, 0, 10000, []⟩, -- HOLDOFF_US (0–10,000)
  ⟨0x4010, 16, 1, 11, 11, 1, 1, 1, 7, 0, 0, 1, []⟩, -- ENABLE
  ⟨0x4010, 16, 1, 12, 12, 7, 4, 0, 0, 0, 0, 4294967295, []⟩, -- FETCHED
  ⟨0x4010, 16, 1, 13, 13, 27, 8, 0, 0, 0, 0, 18446744073709551615, []⟩, -- REFUSED
  ⟨0x4030, 16, 1, 1, 1, 27, 8, 3, 7, 1048576, 65536, 1073741824, []⟩, -- SIZE (65,536–1,073,741,824)
  ⟨0x4030, 16, 1, 2, 7, 27, 8, 3, 7, 0, 0, 4294967295, []⟩, -- BASE,PRODUCED and CONSUMED addresses,as 4010h:02–07
  ⟨0x4030, 16, 1, 8, 8, 5, 1, 1, 7, 255, 0, 15, [255]⟩, -- REQ_SLOT (0–15; FFh none,R353)
  ⟨0x4030, 16, 1, 9, 9, 5, 1, 1, 7, 0, 0, 63, []⟩, -- VECTOR (0–63)
  ⟨0x4030, 16, 1, 10, 10, 6, 2, 1, 7, 0, 0, 10000, []⟩, -- HOLDOFF_US (0–10,000)
  ⟨0x4030, 16, 1, 11, 11, 1, 1, 1, 7, 0, 0, 1, []⟩, -- ENABLE
  ⟨0x4030, 16, 1, 12, 12, 7, 4, 0, 0, 0, 0, 4294967295, []⟩, -- FREE_BYTES
  ⟨0x4030, 16, 1, 13, 13, 27, 8, 0, 0, 0, 0, 18446744073709551615, []⟩, -- GROUPS
  ⟨0x4050, 4, 1, 1, 1, 27, 8, 3, 7, 1048576, 65536, 1073741824, []⟩, -- PASS SIZE
  ⟨0x4050, 4, 1, 2, 7, 27, 8, 3, 7, 0, 0, 4294967295, []⟩, -- PASS addresses
  ⟨0x4050, 4, 1, 9, 9, 5, 1, 1, 7, 0, 0, 63, []⟩, -- PASS VECTOR
  ⟨0x4050, 4, 1, 10, 10, 6, 2, 1, 7, 100, 0, 10000, []⟩, -- PASS HOLDOFF_US
  ⟨0x4050, 4, 1, 11, 11, 1, 1, 1, 7, 0, 0, 1, []⟩, -- PASS ENABLE
  ⟨0x4050, 4, 1, 13, 13, 27, 8, 0, 0, 0, 0, 18446744073709551615, []⟩, -- RECORDS
  ⟨0x4060, 1, 1, 1, 4, 7, 4, 1, 7, 0, 0, 4294967295, []⟩, -- PAGE_TAG_AXn (sub n + 1)
  ⟨0x4070, 1, 1, 1, 16, 6, 2, 0, 0, 0, 0, 65535, []⟩, -- REQ_SLOT_ENTRIES_s (sub s + 1)
  ⟨0x4071, 1, 1, 1, 16, 1, 1, 0, 0, 0, 0, 1, []⟩, -- REQ_SLOT_LOADED_s (sub s + 1)
  ⟨0x4100, 1, 1, 1, 1, 6, 2, 1, 3, 6400, 1, 0, [4800, 5600, 6400]⟩, -- DDR_RATE (4800,5600,6400)
  ⟨0x4100, 1, 1, 2, 2, 5, 1, 0, 0, 0, 0, 255, []⟩, -- POPULATED (bit x,Mx)
  ⟨0x4100, 1, 1, 3, 3, 6, 2, 0, 0, 0, 0, 65535, []⟩, -- CHANNEL_GIB
  ⟨0x4100, 1, 1, 4, 4, 5, 1, 0, 0, 0, 0, 255, []⟩, -- RANKS
  ⟨0x4101, 1, 1, 1, 1, 27, 8, 3, 3, 1024, 0, 65536, []⟩, -- SPILL_MIB (0–65,536)
  ⟨0x4101, 1, 1, 2, 2, 27, 8, 3, 3, 4096, 256, 65536, []⟩, -- PLATE_AREA_MIB (256–65,536)
  ⟨0x4101, 1, 1, 3, 3, 27, 8, 3, 3, 64, 32, 256, []⟩, -- FOUNT_SLOT_MIB (32–256)
  ⟨0x4101, 1, 1, 4, 4, 27, 8, 3, 3, 64, 1, 1088, []⟩, -- GRAMMAR_SLOT_MIB (1–1,088)
  ⟨0x4101, 1, 1, 5, 5, 27, 8, 3, 3, 512, 64, 65536, []⟩, -- TEXT_POOL_MIB (64–65,536)
  ⟨0x4101, 1, 1, 6, 6, 27, 8, 3, 3, 1024, 0, 65536, []⟩, -- ADAPT_MIB (0–65,536)
  ⟨0x4101, 1, 1, 7, 7, 27, 8, 3, 3, 8192, 0, 262144, []⟩, -- SLUG_POOL_MIB (0–262,144)
  ⟨0x4101, 1, 1, 8, 8, 27, 8, 2, 0, 0, 0, 4294967295, []⟩, -- RAW_POOL_MIB
  ⟨0x4101, 1, 1, 9, 9, 6, 2, 0, 0, 0, 0, 65535, []⟩, -- LAYOUT_STATUS
  ⟨0x4102, 1, 1, 1, 1, 15, 1024, 1, 3, 0, 0, 0, []⟩, -- SPD_IMAGE
  ⟨0x4103, 1, 1, 1, 1, 5, 1, 1, 7, 2, 1, 0, [1, 2]⟩, -- REFRESH_ENV (1,2)
  ⟨0x4103, 1, 1, 2, 2, 5, 1, 1, 7, 85, 70, 85, []⟩, -- REFRESH_SWITCH_C (70–85)
  ⟨0x4103, 1, 1, 3, 3, 5, 1, 0, 0, 0, 0, 255, []⟩, -- REFRESH_RATE (bit x,Mx at 2×)
  ⟨0x4103, 1, 1, 4, 4, 3, 2, 0, 0, 0, 0, 65535, []⟩] -- DRAM_TEMP (0.1 °C)

/-- Entries from 0x4103. -/
def entries11 : List EntryRow := [
  ⟨0x4103, 1, 1, 5, 5, 27, 8, 0, 0, 0, 0, 18446744073709551615, []⟩, -- REFRESH_ENV_EVENTS
  ⟨0x4104, 1, 1, 1, 1, 6, 2, 1, 7, 4096, 0, 8192, []⟩, -- PATROL_WORDS (0–8,192)
  ⟨0x4104, 1, 1, 2, 2, 27, 8, 0, 0, 0, 0, 18446744073709551615, []⟩, -- PATROL_PASSES
  ⟨0x4104, 1, 1, 3, 3, 27, 8, 0, 0, 0, 0, 18446744073709551615, []⟩, -- PATROL_CORRECTED
  ⟨0x4105, 1, 1, 1, 8, 27, 8, 0, 0, 0, 0, 18446744073709551615, []⟩, -- CORRECTED_Mx (sub x + 1)
  ⟨0x4106, 1, 1, 1, 8, 27, 8, 0, 0, 0, 0, 18446744073709551615, []⟩, -- UNCORRECTABLE_Mx (sub x + 1)
  ⟨0x4107, 1, 1, 1, 1, 5, 1, 0, 0, 0, 0, 255, []⟩, -- LAST_ERR_CHANNEL
  ⟨0x4107, 1, 1, 2, 2, 27, 8, 0, 0, 0, 0, 18446744073709551615, []⟩, -- LAST_ERR_ADDR
  ⟨0x4107, 1, 1, 3, 3, 27, 8, 0, 0, 0, 0, 18446744073709551615, []⟩, -- LAST_ERR_TIME
  ⟨0x4107, 1, 1, 4, 4, 5, 1, 0, 0, 0, 0, 255, []⟩, -- LAST_ERR_KIND
  ⟨0x4107, 1, 1, 5, 5, 27, 8, 0, 0, 0, 0, 18446744073709551615, []⟩, -- POISON_READS
  ⟨0x4200, 1, 1, 1, 1, 5, 1, 1, 3, 0, 0, 255, []⟩, -- DEVICE_ADDR (0–255)
  ⟨0x4200, 1, 1, 2, 2, 5, 1, 1, 3, 1, 1, 16, []⟩, -- SYSTEM_X (1–16)
  ⟨0x4200, 1, 1, 3, 3, 5, 1, 1, 3, 1, 1, 16, []⟩, -- SYSTEM_Y (1–16)
  ⟨0x4200, 1, 1, 4, 4, 1, 1, 1, 3, 0, 0, 1, []⟩, -- FABRIC_ENABLE
  ⟨0x4201, 1, 1, 1, 1, 5, 1, 1, 3, 0, 0, 15, []⟩, -- PORT_MASK (bits 0–3)
  ⟨0x4201, 1, 1, 2, 2, 5, 1, 1, 3, 0, 0, 255, []⟩, -- MEDIUM_MASK (bit n: 1 CR4,0 KR4)
  ⟨0x4201, 1, 1, 3, 3, 5, 1, 1, 3, 0, 0, 15, []⟩, -- LANE_REVERSE (bits 0–3)
  ⟨0x4201, 1, 1, 4, 4, 6, 2, 1, 3, 0, 0, 65535, []⟩, -- POLARITY (bit 4n + lane)
  ⟨0x4202, 1, 1, 1, 1, 5, 1, 1, 7, 16, 1, 255, []⟩, -- RETRY_LIMIT (1–255)
  ⟨0x4202, 1, 1, 2, 2, 6, 2, 1, 7, 1000, 100, 60000, []⟩, -- RETRAIN_MS (100–60,000)
  ⟨0x4202, 1, 1, 3, 3, 27, 8, 3, 7, 10000, 100, 1000000, []⟩, -- RESP_TIMEOUT_US (100–1,000,000)
  ⟨0x4203, 1, 1, 1, 1, 27, 8, 3, 7, 50, 1, 60000, []⟩, -- WINDOW_DEADLINE_MS (1–60,000)
  ⟨0x4203, 1, 1, 2, 2, 5, 1, 1, 7, 3, 1, 15, []⟩, -- GRANT_LIMIT (1–15)
  ⟨0x4210, 1, 1, 1, 1, 6, 2, 0, 0, 0, 0, 65535, []⟩, -- WINDOWS_OPEN
  ⟨0x4210, 1, 1, 2, 2, 27, 8, 0, 0, 0, 0, 18446744073709551615, []⟩, -- GRANTS_SENT
  ⟨0x4210, 1, 1, 3, 3, 27, 8, 0, 0, 0, 0, 18446744073709551615, []⟩, -- GRANTS_RECEIVED
  ⟨0x4210, 1, 1, 4, 4, 27, 8, 0, 0, 0, 0, 18446744073709551615, []⟩, -- REVOCATIONS
  ⟨0x4210, 1, 1, 5, 5, 27, 8, 0, 0, 0, 0, 18446744073709551615, []⟩, -- RESP_TIMEOUTS
  ⟨0x4210, 1, 1, 6, 6, 27, 8, 0, 0, 0, 0, 18446744073709551615, []⟩, -- WRITES_SUPPRESSED
  ⟨0x4210, 1, 1, 7, 7, 27, 8, 0, 0, 0, 0, 18446744073709551615, []⟩, -- BAD_PACKETS
  ⟨0x4210, 1, 1, 8, 8, 6, 2, 0, 0, 0, 0, 65535, []⟩, -- LAST_STATUS
  ⟨0x4211, 1, 1, 1, 1, 5, 1, 5, 4, 0, 0, 255, []⟩, -- ADAPTER_IMPORT_FROM (0–255)
  ⟨0x4211, 1, 1, 2, 2, 5, 1, 0, 0, 0, 0, 255, []⟩, -- ADAPTER_IMPORT_STATE
  ⟨0x4220, 4, 1, 1, 1, 5, 1, 0, 0, 0, 0, 255, []⟩, -- STATE
  ⟨0x4220, 4, 1, 2, 2, 5, 1, 0, 0, 0, 0, 255, []⟩, -- NEIGHBOUR
  ⟨0x4220, 4, 1, 3, 3, 27, 8, 0, 0, 0, 0, 18446744073709551615, []⟩, -- FEC_CORRECTED
  ⟨0x4220, 4, 1, 4, 4, 27, 8, 0, 0, 0, 0, 18446744073709551615, []⟩, -- FEC_UNCORRECTED
  ⟨0x4220, 4, 1, 5, 5, 27, 8, 0, 0, 0, 0, 18446744073709551615, []⟩, -- CRC_ERRORS
  ⟨0x4220, 4, 1, 6, 6, 27, 8, 0, 0, 0, 0, 18446744073709551615, []⟩] -- REPLAYS

/-- Entries from 0x4220. -/
def entries12 : List EntryRow := [
  ⟨0x4220, 4, 1, 7, 7, 7, 4, 0, 0, 0, 0, 4294967295, []⟩, -- DOWN_EVENTS
  ⟨0x4220, 4, 1, 8, 8, 27, 8, 0, 0, 0, 0, 18446744073709551615, []⟩, -- TX_PACKETS
  ⟨0x4220, 4, 1, 9, 9, 27, 8, 0, 0, 0, 0, 18446744073709551615, []⟩, -- RX_PACKETS
  ⟨0x4400, 1, 1, 1, 1, 5, 1, 0, 0, 0, 0, 255, []⟩, -- RUNNING_SLOT
  ⟨0x4400, 1, 1, 2, 2, 7, 4, 0, 0, 0, 0, 4294967295, []⟩, -- FW_VERSION
  ⟨0x4400, 1, 1, 3, 3, 15, 64, 0, 0, 0, 0, 0, []⟩, -- FW_DIGEST (64 bytes)
  ⟨0x4400, 1, 1, 4, 4, 5, 1, 0, 0, 0, 0, 255, []⟩, -- SECURITY_VERSION
  ⟨0x4400, 1, 1, 5, 5, 5, 1, 0, 0, 0, 0, 255, []⟩, -- FUSED_MIN_SV
  ⟨0x4400, 1, 1, 6, 6, 6, 2, 0, 0, 0, 0, 65535, []⟩, -- BOOT_STATUS
  ⟨0x4401, 1, 1, 1, 2, 5, 1, 0, 0, 0, 0, 255, []⟩, -- SLOTn_STATE (sub n + 1)
  ⟨0x4401, 1, 1, 3, 4, 7, 4, 0, 0, 0, 0, 4294967295, []⟩, -- SLOTn_VERSION (sub n + 3)
  ⟨0x4402, 1, 1, 1, 1, 5, 1, 9, 6, 0, 1, 0, [0, 1]⟩, -- FW_ACTIVATE (0,1)
  ⟨0x4402, 1, 1, 2, 2, 5, 1, 9, 6, 0, 1, 1, []⟩, -- CONFIRM (1)
  ⟨0x4402, 1, 1, 3, 3, 5, 1, 1, 3, 0, 1, 0, [0, 1]⟩, -- CONFIRM_MODE (0,1)
  ⟨0x4402, 1, 1, 4, 4, 1, 1, 0, 0, 0, 0, 1, []⟩, -- TRIAL
  ⟨0x4402, 1, 1, 5, 5, 5, 1, 0, 0, 0, 0, 255, []⟩, -- TRIES
  ⟨0x4403, 1, 1, 1, 1, 5, 1, 9, 7, 0, 0, 255, []⟩, -- LOAD_TARGET
  ⟨0x4403, 1, 1, 2, 2, 15, 67108864, 9, 7, 0, 0, 0, []⟩, -- LOAD_DOMAIN (to 64 MiB)
  ⟨0x4403, 1, 1, 3, 3, 5, 1, 8, 0, 0, 0, 255, []⟩, -- LOAD_STATE
  ⟨0x4403, 1, 1, 4, 4, 6, 2, 8, 0, 0, 0, 65535, []⟩, -- LOAD_STATUS
  ⟨0x4404, 1, 1, 1, 1, 27, 8, 0, 0, 0, 0, 18446744073709551615, []⟩, -- SERIAL
  ⟨0x4404, 1, 1, 2, 2, 15, 32, 0, 0, 0, 0, 0, []⟩, -- IDENTITY_PUBLIC (32 bytes)
  ⟨0x4404, 1, 1, 3, 3, 15, 65536, 0, 0, 0, 0, 0, []⟩, -- IDENTITY_CERT
  ⟨0x4405, 1, 1, 1, 1, 15, 32, 9, 7, 0, 0, 0, []⟩, -- NONCE (32 bytes)
  ⟨0x4405, 1, 1, 2, 2, 5, 1, 9, 7, 0, 1, 1, []⟩, -- ATTEST_REQUEST (1)
  ⟨0x4405, 1, 1, 3, 3, 15, 384, 8, 0, 0, 0, 0, []⟩, -- ATTEST_REPORT (384 bytes)
  ⟨0x4405, 1, 1, 4, 4, 7, 4, 0, 0, 0, 0, 4294967295, []⟩, -- REPORT_COUNT
  ⟨0x4406, 1, 1, 1, 1, 15, 32, 0, 0, 0, 0, 0, []⟩, -- CHALLENGE (32 bytes)
  ⟨0x4406, 1, 1, 2, 2, 15, 128, 9, 15, 0, 0, 0, []⟩, -- TOKEN (128 bytes)
  ⟨0x4406, 1, 1, 3, 3, 5, 1, 0, 0, 0, 0, 255, []⟩, -- DEBUG_STATE
  ⟨0x4406, 1, 1, 4, 4, 7, 4, 0, 0, 0, 0, 4294967295, []⟩, -- GRANT_REMAINING_S
  ⟨0x4406, 1, 1, 5, 5, 5, 1, 9, 15, 0, 1, 1, []⟩, -- DEBUG_LOCK (1)
  ⟨0x4407, 1, 1, 1, 8, 15, 32, 0, 0, 0, 0, 0, []⟩, -- OWNER_KEY_k (sub k + 1,32 bytes)
  ⟨0x4407, 1, 1, 9, 9, 15, 33, 9, 3, 0, 0, 0, []⟩, -- OWNER_KEY_PROGRAM (33 bytes)
  ⟨0x4407, 1, 1, 10, 10, 5, 1, 9, 3, 0, 0, 7, []⟩, -- OWNER_KEY_REVOKE (0–7)
  ⟨0x4407, 1, 1, 11, 11, 5, 1, 0, 0, 0, 0, 255, []⟩, -- OWNER_REVOKED (bit k)
  ⟨0x4408, 1, 1, 1, 1, 5, 1, 0, 0, 0, 0, 255, []⟩, -- PLOVANT_REVOKED (bits 0–3)
  ⟨0x4409, 1, 1, 1, 2, 15, 64, 0, 0, 0, 0, 0, []⟩, -- AREAn_DIGEST (sub n + 1,64 bytes)
  ⟨0x4409, 1, 1, 3, 3, 15, 64, 0, 0, 0, 0, 0, []⟩, -- TEXT_DIGEST (64 bytes)
  ⟨0x4410, 1, 1, 1, 1, 15, 24117248, 1, 8, 0, 0, 0, []⟩] -- RECOVERY_IMAGE (to 23 MiB)

/-- Entries from 0x4410. -/
def entries13 : List EntryRow := [
  ⟨0x4410, 1, 1, 2, 2, 5, 1, 0, 0, 0, 0, 255, []⟩, -- RECOVERY_STATE
  ⟨0x4410, 1, 1, 3, 3, 6, 2, 0, 0, 0, 0, 65535, []⟩, -- RECOVERY_STATUS
  ⟨0x4600, 1, 1, 1, 1, 5, 1, 9, 7, 0, 0, 63, []⟩, -- GALLEY_TEST_REQUEST (bits 0–5)
  ⟨0x4600, 1, 1, 2, 2, 7, 4, 0, 0, 0, 0, 4294967295, []⟩, -- GALLEY_TESTS_RUN
  ⟨0x4601, 1, 1, 1, 6, 5, 1, 0, 0, 0, 0, 255, []⟩, -- GALLEY_RESULT_CDn (sub n + 1)
  ⟨0x4602, 1, 1, 1, 1, 5, 1, 0, 0, 0, 0, 255, []⟩, -- FAIL_DIE
  ⟨0x4602, 1, 1, 2, 2, 6, 2, 0, 0, 0, 0, 65535, []⟩, -- FAIL_BANK
  ⟨0x4602, 1, 1, 3, 3, 6, 2, 0, 0, 0, 0, 65535, []⟩, -- FAIL_ROW
  ⟨0x4602, 1, 1, 4, 4, 5, 1, 0, 0, 0, 0, 255, []⟩, -- FAIL_ELEMENT (0–5,6 check-bit test)
  ⟨0x4602, 1, 1, 5, 5, 5, 1, 0, 0, 0, 0, 255, []⟩, -- FAIL_BACKGROUND (0–3)
  ⟨0x4602, 1, 1, 6, 6, 5, 1, 0, 0, 255, 0, 255, []⟩, -- FAIL_LINK
  ⟨0x4610, 4, 1, 1, 1, 5, 1, 1, 7, 0, 0, 255, []⟩, -- LB_TARGET (Table 21-2)
  ⟨0x4610, 4, 1, 2, 2, 5, 1, 1, 7, 1, 1, 4, []⟩, -- LB_DEPTH (1–4)
  ⟨0x4610, 4, 1, 3, 3, 5, 1, 1, 7, 3, 0, 4, []⟩, -- LB_PATTERN (0–4)
  ⟨0x4610, 4, 1, 4, 4, 7, 4, 1, 7, 1, 0, 4294967295, []⟩, -- LB_SEED
  ⟨0x4610, 4, 1, 5, 5, 27, 8, 3, 7, 1000, 1, 3600000, []⟩, -- LB_DURATION_MS (1–3,600,000)
  ⟨0x4610, 4, 1, 6, 6, 5, 1, 9, 7, 0, 1, 0, [0, 1]⟩, -- LB_RUN (0,1)
  ⟨0x4610, 4, 1, 7, 7, 5, 1, 0, 0, 0, 0, 255, []⟩, -- LB_STATE
  ⟨0x4610, 4, 1, 8, 8, 27, 8, 0, 0, 0, 0, 18446744073709551615, []⟩, -- LB_BITS
  ⟨0x4610, 4, 1, 9, 9, 27, 8, 0, 0, 0, 0, 18446744073709551615, []⟩, -- LB_ERRORS
  ⟨0x4610, 4, 1, 10, 10, 27, 8, 0, 0, 0, 0, 18446744073709551615, []⟩, -- LB_FIRST_ERROR_TIME
  ⟨0x4610, 4, 1, 11, 11, 6, 2, 0, 0, 0, 0, 65535, []⟩, -- LB_STATUS
  ⟨0x4620, 1, 1, 1, 1, 7, 4, 0, 0, 277219963, 0, 4294967295, []⟩, -- JTAG_IDCODE
  ⟨0x4800, 1, 1, 1, 1, 27, 8, 0, 0, 0, 0, 18446744073709551615, []⟩, -- SNAPSHOT_TIME
  ⟨0x4800, 1, 1, 2, 2, 7, 4, 0, 0, 0, 0, 4294967295, []⟩, -- POWER_MW (mirror of 2204h:02)
  ⟨0x4800, 1, 1, 3, 3, 3, 2, 0, 0, 0, 0, 65535, []⟩, -- TJ_MAX (mirror of 2202h:03)
  ⟨0x4801, 1, 1, 1, 1, 27, 8, 0, 0, 0, 0, 18446744073709551615, []⟩, -- SDO_ABORTS
  ⟨0x4801, 1, 1, 2, 2, 27, 8, 0, 0, 0, 0, 18446744073709551615, []⟩, -- MAILBOX_REQUESTS
  ⟨0x4801, 1, 1, 3, 3, 27, 8, 0, 0, 0, 0, 18446744073709551615, []⟩, -- EMCY_SENT
  ⟨0x4801, 1, 1, 4, 4, 27, 8, 0, 0, 0, 0, 18446744073709551615, []⟩, -- EMCY_DROPPED
  ⟨0x4801, 1, 1, 5, 5, 27, 8, 0, 0, 0, 0, 18446744073709551615, []⟩, -- RXPDO_REFUSED
  ⟨0x4801, 1, 1, 6, 6, 7, 4, 0, 0, 0, 0, 4294967295, []⟩, -- LAST_ABORT
  ⟨0x4801, 1, 1, 7, 7, 7, 4, 0, 0, 0, 0, 4294967295, []⟩, -- LAST_ABORT_ENTRY (index · 256 + sub)
  ⟨0x4801, 1, 1, 8, 8, 6, 2, 1, 7, 0, 0, 65535, []⟩, -- MASTER_TICK
  ⟨0x4801, 1, 1, 9, 9, 27, 8, 0, 0, 0, 0, 18446744073709551615, []⟩, -- LAST_ACCESS_TIME
  ⟨0x4810, 1, 1, 1, 1, 5, 1, 1, 7, 127, 1, 127, []⟩, -- CAN_NODE_ID (1–127)
  ⟨0x4810, 1, 1, 2, 2, 5, 1, 1, 7, 1, 0, 2, []⟩, -- CAN_MODE (0 off,1 classic,2 FD)
  ⟨0x4810, 1, 1, 3, 3, 6, 2, 1, 7, 500, 1, 0, [125, 250, 500, 1000]⟩, -- CAN_BITRATE_KBIT (125,250,500,1,000)
  ⟨0x4810, 1, 1, 4, 4, 6, 2, 1, 7, 2000, 1, 0, [2000, 5000, 8000]⟩, -- CAN_FD_DATA_KBIT (2,000,5,000,8,000)
  ⟨0x4811, 1, 1, 1, 1, 5, 1, 0, 0, 0, 0, 255, []⟩] -- STORE_STATE

/-- Entries from 0x4811. -/
def entries14 : List EntryRow := [
  ⟨0x4811, 1, 1, 2, 2, 7, 4, 0, 0, 0, 0, 4294967295, []⟩, -- STORE_GENERATION
  ⟨0x4811, 1, 1, 3, 3, 7, 4, 0, 0, 0, 0, 4294967295, []⟩, -- STORE_BYTES
  ⟨0x4811, 1, 1, 4, 4, 7, 4, 0, 0, 0, 0, 4294967295, []⟩, -- SECTOR_ERASES_MAX
  ⟨0x4811, 1, 1, 5, 5, 5, 1, 5, 7, 0, 0, 255, []⟩, -- COMPACT
  ⟨0x4812, 1, 1, 1, 1, 7, 4, 13, 15, 0, 0, 4294967295, []⟩, -- DESCRIBE_SELECT
  ⟨0x4812, 1, 1, 2, 2, 15, 32, 8, 0, 0, 0, 0, []⟩] -- DESCRIPTION

/-- Every entry of the dictionary but the sub-indices 00h that give the highest sub-index (R321). -/
def entryTable : List EntryRow :=
  entries0 ++ entries1 ++ entries2 ++ entries3 ++ entries4 ++ entries5 ++ entries6 ++ entries7 ++ entries8 ++ entries9 ++ entries10 ++ entries11 ++ entries12 ++ entries13 ++ entries14

/-- Does the row hold this index? -/
def EntryRow.hasIndex (r : EntryRow) (index : Nat) : Bool :=
  r.index ≤ index && (index - r.index) % r.stride == 0 && (index - r.index) / r.stride < r.copies

/-- Does the row hold this entry? -/
def EntryRow.has (r : EntryRow) (index sub : Nat) : Bool :=
  r.hasIndex index && r.subLo ≤ sub && sub ≤ r.subHi

/-- The row of an entry; sub-index 00h of an index without a row of its own holds the highest sub-index as
UNSIGNED8 RO (R321). -/
def findEntry (index sub : Nat) : Option EntryRow :=
  match entryTable.find? (fun r => r.has index sub) with
  | some r => some r
  | none =>
    if sub = 0 then
      match entryTable.filter (fun r => r.hasIndex index) with
      | [] => none
      | rs => some ⟨index, 1, 1, 0, 0, 5, 1, 0, 0, (rs.map (fun r => r.subHi)).foldl max 0, 0, 255, []⟩
    else none

/-- Does any row hold this index? -/
def indexExists (index : Nat) : Bool := entryTable.any (fun r => r.hasIndex index)

/-- A 32-bit value as its paired word: the complement in the upper half (R3). -/
def pairOf (v : Nat) : Nat := v % 2 ^ 32 + 2 ^ 32 * (2 ^ 32 - 1 - v % 2 ^ 32)

/-- Is a 64-bit word a well-formed paired word (R3)? -/
def pairOk (w : Nat) : Bool := w == pairOf w

/-- The dictionary key of an entry. -/
def dkey (index sub : Nat) : Nat := index * 256 + sub

/-- Default value of an entry, by key. -/
def entryDefault (key : Nat) : Nat :=
  match findEntry (key / 256) (key % 256) with
  | some r => if r.paired then pairOf r.dflt else r.dflt
  | none => 0

end Sys2Proof.Machine
end

