-- ==== Sys2Proof/Machine/State.lean ====
section
/-! DEFINITION. The state of the OR-8: everything the manual gives the part, as plain data, and the state right after
reset. Grouped by the unit that holds it. -/

namespace Sys2Proof.Machine

/-- What the part sends out: writes to host memory, messages and signals on its interfaces, oldest first. -/
inductive Out where
  /-- a write to host memory (R344, R355) -/
  | hostWrite (addr : Nat) (bytes : List Byte)
  /-- an MSI-X message (R359) -/
  | msix (vector : Nat)
  /-- an emergency: error register, status, class, source, on CANopen and CoE (R337) -/
  | emergency (reg status cls source : Nat)
  /-- the CANopen boot-up message (R331) -/
  | bootUp (node : Nat)
  /-- a heartbeat with the NMT state (R339) -/
  | heartbeat (node state : Nat)
  /-- TxPDO n with its mapped bytes (R334) -/
  | txpdo (n : Nat) (bytes : List Byte)
  /-- an SDO or USDO abort on a field bus (Table 16-5) -/
  | sdoAbort (path : Path) (key code : Nat)
  /-- an EtherCAT AL status reply (R330) -/
  | alStatus (state : AlState) (code : Nat)
  /-- an FoE error (R330, R400) -/
  | foeError (code : Nat)
  /-- a mailbox response (R332) -/
  | mailbox (header : Nat) (bytes : List Byte)
  /-- line trigger of a scan channel (R162) -/
  | lineTrigger (ch : Nat)
  /-- a STEP pulse of an axis (R162, R166) -/
  | stepPulse (ax : Nat)
  /-- the neighbour exchange of port n: device address, SYSTEM_X and SYSTEM_Y (R377) -/
  | exchange (port addr sizeX sizeY : Nat)
  /-- the generator of a loopback starts on its target: LB_PATTERN, and the register of each lane (R413) -/
  | generator (target pattern : Nat) (lanes : List Nat)
  /-- a fabric packet given to port n: header and payload words (Table 19-2) -/
  | packet (port : Nat) (header : Nat) (payload : List Nat)
  /-- a PCIe completion of a BAR2 read: the bytes, or Unsupported Request (R342) -/
  | bar2Data (bytes : List Byte)
  | unsupportedRequest
  /-- the JTAG data register's answer (R418) -/
  | jtag (value : Nat)
  /-- a debug port was reached (R408) -/
  | debugAccess (port : DebugPort)
  deriving DecidableEq, Repr

/-- Where the part is between power and service: held in reset, running the boot ROM before Chase, or answering
(STAGE says which stage; 4 is recovery). -/
inductive Run where
  | held | booting | on
  deriving DecidableEq, Repr

/-- An emergency message (R337). -/
structure Emcy where
  status : Nat
  cls    : Nat
  source : Nat
  deriving DecidableEq, Repr

/-- What a core still has in flight (Table 3-3): the destination and the data of one result or landing. -/
inductive CoreAct where
  /-- a vector register result -/
  | vreg (r : Nat) (lanes : List F32)
  /-- the 64 sums of a landed streamed row, added into (init: written to) an accumulator row (R50) -/
  | acc (row : Nat) (init : Bool) (t : List F32)
  /-- a tile word landing in the shadow (R68) -/
  | tileWord (fmt w raw : Nat)
  /-- a column scale word landing with the shadow tile (R67) -/
  | tileScale (raw : Nat)
  /-- a streamed row landing at the array (R50, R199): format, stream scale entry, data word -/
  | mulRow (row : Nat) (init : Bool) (fmt sidx raw : Nat)
  /-- SWAP at the end of its cycle (R49) -/
  | swap
  /-- SHIFT of the active window (R201) -/
  | shift (h w s : Nat)
  /-- a line word landing in a window position (R198) -/
  | winWord (y x raw : Nat)
  deriving DecidableEq, Repr

/-- A result in flight, its cycle, and its place within that cycle: 0 register results at the start, 1 tile landings,
2 multiplier use, 3 SWAP, 4 SHIFT, 5 window landings (R49, R200). -/
structure CoreEv where
  cycle : Nat
  phase : Nat
  /-- bundle that issued it (R62, R72) -/
  bundle : Nat
  act   : CoreAct
  deriving DecidableEq, Repr

/-- A stationary tile buffer: the format of its words, the words as landed, its column scale word (R66, R67). -/
structure Tile where
  fmt   : Nat
  words : Kv Nat
  scale : Nat
  deriving DecidableEq, Repr

/-- A loop counter: passes left and the bundle at which the body begins (R59). -/
structure LoopCtr where
  left  : Nat
  start : Nat
  deriving DecidableEq, Repr

/-- A scoreboard entry (R62 to R64). -/
structure SbEntry where
  /-- fill epoch published to this core -/
  fill : Nat
  /-- epoch that reads must find, until RELEASE -/
  expectFill : Option Nat
  /-- epoch that every consumer must have drained before a write -/
  expectDrain : Option Nat
  /-- last epoch each consumer core has drained -/
  drained : Kv Nat
  deriving DecidableEq, Repr

/-- A transfer on a completion tag (R56, R57). -/
structure Xfer where
  op : Nat
  desc : Nat
  publish : Bool
  pubSlot : Nat
  pubEpoch : Nat
  forme : Nat
  plate : Nat
  /-- the slot had ended before the transfer completed -/
  outlived : Bool
  /-- the first poisoned DDR5 word that it has read, by its address (R366) -/
  poison : Option Nat
  deriving DecidableEq, Repr

/-- A transfer whose words have not moved (Table 3-3): the slot cycle in which what comes next of it happens, whether its
descriptor has landed, where it was issued, its descriptor's address, word and check, its D_OP with the mode of a walk, its
tag, the destination words of it that a link has dropped (R30), the word of a table load once it has been read, with its check,
and the publications that wait until its words are written: slot, epoch (R63). -/
structure Launch where
  due : Nat
  moving : Bool
  bundle : Nat
  desc : Nat
  word : Nat
  bad : Bool
  op : Nat
  mode : Nat
  tag : Nat
  dropped : List Nat
  table : Option (Nat × Bool)
  fills : List (Nat × Nat)
  deriving DecidableEq, Repr

/-- A vector LOAD whose words are not all read (R47): the register and the cycle in which it is written, its first byte, the
cycle in which its first word is read, and the words read so far. -/
structure VLoad where
  reg : Nat
  due : Nat
  addr : Nat
  start : Nat
  done : Nat
  deriving DecidableEq, Repr

/-- One compute core (Table 3-1). -/
structure CoreSt where
  /-- issuing bundles of the plate of its slot -/
  running : Bool
  /-- status that stopped it in this slot, 0 none -/
  stopped : Nat
  /-- frozen by a detection, waiting for STEP_REPLAY (R61) -/
  frozen  : Bool
  /-- a detection has been met since the last replay point -/
  detected : Bool
  /-- the replay point at which a replay begins is to be issued again (R61) -/
  replaying : Bool
  /-- END has issued: nothing more issues in this slot, and what is in flight still lands (R60) -/
  ended : Bool
  forme  : Nat
  plate  : Nat
  slot   : Nat
  seed   : Nat
  step   : Nat
  cycle  : Nat
  bundle : Nat
  loops  : Kv LoopCtr
  replayLoops : Kv LoopCtr
  replayBundle : Nat
  vregs  : Kv (List F32)
  acc    : Kv (List F32)
  active : Tile
  shadow : Tile
  window : Kv Nat
  streamTable : Nat
  sb     : Kv SbEntry
  tags   : Kv Xfer
  inFlight : List CoreEv
  /-- vector LOADs that still read words -/
  loads : List VLoad
  /-- the slot of the core's list whose occupancy header is to be read again by a replay (R290) -/
  header : Option Nat
  /-- transfers launched whose words have not moved, oldest first -/
  launches : List Launch
  /-- registers stored into a statistics area by formes not yet committed: forme, first byte (R85) -/
  blocks : List (Nat × Nat)
  deriving DecidableEq, Repr

/-- A region of a page side, as its record and its reading need it (R20). -/
structure Region where
  index : Nat
  x : Nat
  y : Nat
  w : Nat
  h : Nat
  confidence : Nat
  parent : Nat
  readOrder : Nat
  cls : Nat
  /-- READ of the box: it is to be read -/
  read : Bool
  status : Nat
  deriving DecidableEq, Repr

/-- What a sequence leaves for its region's field record (R21, R258). -/
structure FieldRec where
  region : Nat
  nameId : Nat
  tokens : Nat
  confidence : Nat
  status : Nat
  fount : Nat
  grammar : Nat
  stopCut : Bool
  deadlineCut : Bool
  /-- offsets in the text of the U+FFFD that replacement inserted (R22, R239) -/
  inserted : List Nat
  recomputed : Bool
  held : Bool
  text : List Byte
  deriving DecidableEq, Repr

/-- A crop of a region (R193): where its slot begins. -/
structure Crop where
  region : Nat
  readOrder : Nat
  addr : Nat
  substituted : Bool
  deriving DecidableEq, Repr

/-- One page side from the moment it is given a PAGE_SEQ to the release of its group (R9 to R25). -/
structure PageSide where
  ring : Nat
  seq : Nat
  image : Bool
  channel : Nat
  side : Nat
  jobTag : Nat
  /-- request slot it is bound to, FFh none (R348, R353) -/
  reqSlot : Nat
  entryTime : Nat
  edgeTime : Option Nat
  startPoint : Option Nat
  lineCount : Nat
  width : Nat
  skew : Int
  stalled : Bool
  stallLine : Nat
  stallCount : Nat
  reduced : Bool
  deferred : Bool
  /-- its structuring forme has waited for ring space (R25) -/
  waited : Bool
  /-- a sequence of it skipped a step; a U+FFFD was inserted in a text of it (Table 1-5) -/
  seqHeld : Bool
  seqReplaced : Bool
  /-- its group has been released before its trailing edge, which its followers' start points await (R12) -/
  released : Bool
  late : Bool
  restarts : Nat
  /-- ring bytes it holds reserved (R356) -/
  reserve : Nat
  /-- raw page buffer in the pool and its size (R170, R267) -/
  rawAddr : Nat
  rawBytes : Nat
  linePitch : Nat
  /-- bands reported complete, committed, and in all once the last is known (R152) -/
  bandsReported : Nat
  bandsCommitted : Nat
  bandsTotal : Option Nat
  /-- bands that lie in the pool, not the ring (R153) -/
  poolBands : List Nat
  lastBandLines : Nat
  layoutDone : Bool
  geometryDone : Bool
  structuringQueued : Bool
  regions : List Region
  fields : List FieldRec
  /-- status of a bare group, or of a page record alone (R268, R292) -/
  bare : Option Nat
  /-- the committed group, not yet released (R24) -/
  group : Option (List Byte)
  /-- job list and entry of an image-fed page side -/
  job : Option (Nat × Nat)
  lens : Nat
  mesh : List Byte
  /-- ALONG_ENABLE at leading-edge detection (R189) -/
  along : Bool
  /-- the box list that the layout finish forme left (Tables 9-1, 9-2) -/
  boxList : List Byte
  /-- layout output area and box list buffer that it holds (Table 14-3) -/
  layoutArea : Option Nat
  boxArea : Option Nat
  /-- crops in the order of R181 -/
  crops : List Crop
  /-- decoder engine of an image-fed page side -/
  engine : Option Nat
  /-- regions cut or to be cut whose sequence has not ended, by REGION_INDEX -/
  reading : List Nat
  /-- regions whose crop has been found corrupt once (R264) -/
  cropFaults : List Nat
  /-- bytes of the text pool that its sequences reserved (R246), held until its records commit -/
  textHeld : Nat
  deriving DecidableEq, Repr

/-- A forme from its queue to its commit (Tables 1-1, 14-1). -/
structure Forme where
  id : Nat
  kind : Nat
  attempt : Nat
  /-- attempts that ended in a fault (R292) -/
  faults : Nat
  pages : List (Nat × Nat)
  seqs : List Nat
  items : Nat
  band : Nat
  seed : Nat
  step : Nat
  entryTime : Nat
  /-- order of its fault among restarted formes, which come first in their queue (R283) -/
  retry : Option Nat
  admitted : Bool
  /-- the slot group it holds, while placed -/
  group : Option Nat
  framesLeft : Nat
  /-- status of the fault recorded against it in this attempt, 0 none (R291) -/
  fault : Nat
  /-- ADMISSION_WAITS has counted it -/
  waited : Bool
  /-- Geometry Unit it is assigned to (R443), DESKEW and FILL_VALUE at its admission (R196), and whether the unit has run
  it in this attempt -/
  unit : Nat
  deskew : Bool
  fill : Nat
  ran : Bool
  /-- what it works on: batch, template or window number -/
  ref : Nat
  /-- the one region that a second cut serves (R264) -/
  only : Option Nat
  /-- READ_BATCH at a geometry forme's admission (R261, R262) -/
  readBatch : Nat
  /-- crop slots it has reserved, by address, or the encoder output area (Table 14-3) -/
  slots : List Nat
  area : Option Nat
  deriving DecidableEq, Repr

/-- A result ring or pass-through ring while it runs (R355): bytes written, bytes the host has finished with. -/
structure RingRt where
  produced : Nat
  consumed : Nat
  /-- page counter (R11) -/
  counter : Nat
  /-- the latest start point of the page sides that are gone (R12) -/
  start : Nat
  deriving DecidableEq, Repr

/-- Where a fetched job entry stands. -/
inductive EntrySt where
  | fetched | working | done
  deriving DecidableEq, Repr

/-- A fetched job entry (R345, R346): its number, its 1024-bit descriptor, and how far its work is. -/
structure JobEntry where
  k : Nat
  desc : Nat
  st : EntrySt
  /-- status and count of a completion not yet written to host memory -/
  result : Option (Nat × Nat)
  /-- its place in the order of all fetches (R440) -/
  order : Nat
  deriving DecidableEq, Repr

/-- A job list while it runs (R345): fetch count, CONS as last written, the entries not yet passed by CONS. -/
structure ListRt where
  fetched : Nat
  cons : Nat
  entries : List JobEntry
  deriving DecidableEq, Repr

/-- A host read in its retries (R360). -/
structure HostRead where
  what : HostReadOf
  tries : Nat
  due : Nat
  deriving DecidableEq, Repr

/-- The host side of the part (R341 to R360). -/
structure HostSt where
  perst : Bool
  linkUp : Bool
  rings : Kv RingRt
  pass : Kv RingRt
  lists : Kv ListRt
  /-- entries fetched so far, over all lists -/
  fetches : Nat
  /-- stored request tables: entry count and bytes (R352) -/
  requests : Kv (List Byte)
  reads : List HostRead
  /-- MSI-X vectors whose mask bit is clear, the pending bit array (R359) -/
  unmasked : List Nat
  msixPending : List Nat
  /-- template entries that wait for their template's STATE 2: template, list, entry, the status they end with
  (Table 17-4) -/
  templateJobs : List (Nat × Nat × Nat × Nat)
  /-- writes to host memory that wait for bus mastering (R343) -/
  owed : List Out
  /-- time of each source's last message, and the sources a message of which waits for a holdoff -/
  lastMsg : Kv Nat
  heldMsgs : List MsixSrc
  /-- the mailbox: request accepted last; request header and data as the host left them, response header and data
  (R332, Tables 16-10 and 16-11) -/
  lastReq : Nat
  request : Nat
  requestData : List Byte
  response : Nat
  responseData : List Byte
  deriving DecidableEq, Repr

/-- What a snapshot of the dictionary holds (R334): the values kept, those that each path sees for itself, and those that
follow the state of other units. -/
structure Snapshot where
  od : Kv Val
  perPath : Kv Val
  shown : Kv Nat
  deriving DecidableEq, Repr

/-- Process data and the field buses (R330 to R339). -/
structure NetSt where
  al : AlState
  /-- AL status code of the last request -/
  alCode : Nat
  nmt : Nat
  /-- CAN node-ID, mode and bit rates in kbit/s in effect (R331) -/
  node : Nat
  canMode : Nat
  bitRate : Nat
  dataRate : Nat
  emcyQueue : List Emcy
  lastEmcy : Nat
  /-- RxPDO entries whose refusal has been reported, by key (R335) -/
  rxRefused : List Nat
  /-- the dictionary snapshot for TxPDOs (R334) -/
  snapshot : Snapshot
  /-- SDO domain transfers in progress: path, key, bytes so far -/
  staging : List (Path × Nat × List Byte)
  /-- time of the last abort sent, for bit 4 of 1001h -/
  lastAbort : Option Nat
  /-- SYNC messages received, and the time of the last TxPDO n -/
  syncs : Nat
  sent : Kv Nat
  /-- bytes of the last TxPDO n -/
  carried : Kv (List Byte)
  deriving DecidableEq, Repr

/-- Frame, imposition and plate sets (R109 to R129). -/
structure PlateSt where
  /-- the contents of the two areas -/
  areas : Kv PlateSetIn
  /-- their slot group tables, as the load reads them (R280) -/
  groups : Kv (List (List GroupEntry))
  /-- area whose activation is pending -/
  pendingArea : Option Nat
  /-- readmission test result of a pending activation -/
  pendingTest : Bool
  /-- frequency point requested and pending; die whose reduced imposition is pending -/
  pendingDie : Option Nat
  pendingJoin : Bool
  frameStart : Nat
  frameLen : Nat
  /-- compute dies in the unified view (R89) -/
  unified : List Nat
  /-- last frame in which a slot named each group, key 64·die + group (R102) -/
  groupUsed : Kv Nat
  /-- gated banks, key 512·die + bank -/
  gated : List Nat
  /-- statistics blocks of committed formes that are still to be folded: forme, first byte (R85) -/
  folds : List (Nat × Nat)
  /-- SCRUB_WORDS, GATE_IDLE_ENABLE and GATE_IDLE_FRAMES as taken at the last frame start (R108); empty: as they stand -/
  latched : List Nat
  /-- the load time by which the slots of this frame start later (R127) -/
  slip : Nat
  /-- START of the slot that each core is in, of the frame under way (R98) -/
  slotsNow : Kv Nat
  /-- dies whose scrub window of this frame has begun, and whether its patrol has (R98, R374) -/
  scrubbed : List Nat
  patrolled : Bool
  deriving DecidableEq, Repr

/-- What the slug manager keeps beside its tables in hub SRAM (R226, R229, R230). -/
structure SlugSt where
  /-- slots vacated by migrations: pool, location, QFRAME -/
  vacated : List (Nat × Nat × Nat)
  /-- migrations copied and waiting for the lead-in: slug, new pool, new location -/
  moves : List (Nat × Nat × Nat)
  /-- new-block slugs waiting for the lead-in: list entry address, slug -/
  installs : List (Nat × Nat)
  /-- page lists to release at the lead-in: address, words -/
  releases : List (Nat × Nat)
  /-- page lists in the page list area: address, bytes -/
  lists : List (Nat × Nat)
  /-- templates whose prefix forme has committed: they are ready after the next lead-in (R226) -/
  built : List Nat
  /-- dies whose galley slug region is used (R212) -/
  regions : List Nat
  deriving DecidableEq, Repr

/-- One byte of a sequence's output text (R258): its capture, and whether a U+FFFD that replacement inserted begins with
it (R22, R239). -/
structure TextByte where
  byte : Byte
  cap : Nat
  inserted : Bool
  deriving DecidableEq, Repr

/-- Text Unit's state of one sequence (R259) and what its admission reserved. -/
structure SeqSt where
  ring : Nat
  page : Nat
  region : Nat
  /-- its 1,152-byte request table entry (R352) -/
  request : List Byte
  /-- output bytes with their captures (R258) -/
  text : List TextByte
  /-- decoder bytes pending, with the capture of each one's token -/
  pendingBytes : List (Byte × Nat)
  gstate : Nat
  /-- token log entries (Table 12-12) -/
  log : List Nat
  /-- the stream's replacement count (R239) -/
  replaced : Nat
  /-- capture of the last token taken (R258) -/
  lastCap : Nat
  stopCut : Bool
  deadlineCut : Bool
  held : Bool
  /-- adapter version it is bound to (R278) -/
  version : Nat
  /-- its step has committed and its row waits for the Text Unit (R248) -/
  due : Bool
  /-- the blocks of that step have been checked (R249) -/
  checked : Bool
  /-- its frisket is in the row frisket area (R248, R253) -/
  ready : Bool
  /-- the decode cut-off has passed (R15, R257) -/
  cut : Bool
  deriving DecidableEq, Repr

/-- The Text Unit (R237 to R260): founts and grammars in their slots, the frisket cache, most recently used first, each
entry its key and its place. -/
structure TextSt where
  founts : Kv FountIn
  grammars : Kv GrammarIn
  cache : List (Nat × Nat)
  /-- decode formes whose committed step the Text Unit has not finished, with its LAST_STEP; one that it has rejected (R249) -/
  steps : List (Nat × Forme)
  rejected : List Forme
  deriving DecidableEq, Repr

/-- A batch of the prepared batch queue (R261, R262). -/
structure Batch where
  id : Nat
  /-- READ_BATCH under which it was opened -/
  size : Nat
  /-- crops: ring, PAGE_SEQ, REGION_INDEX -/
  members : List (Nat × Nat × Nat)
  closed : Bool
  /-- an adaptation batch -/
  adapt : Bool
  /-- adaptation: step t, first stream position, members (sample, position, replacement), skips (sample, reason) -/
  step : Nat
  firstPos : Nat
  samples : List (Nat × Nat × Bool)
  skips : List (Nat × Nat)
  /-- augmented planes of its members: width and pixels -/
  planes : List (Nat × List Nat)
  /-- its batch descriptor with member and skip words (Tables 13-3, 13-4), once finished, and its offset in the adaptation
  area (Table 18-1) -/
  desc : List Byte
  descAt : Nat
  deriving DecidableEq, Repr

/-- A stored training sample (R350, Table 13-2): its image as its standard decodes it, its target tokens, its table
entry's places in the adaptation area, template and STATE. -/
structure Sample where
  img : ImageIn
  /-- WIDTH and HEIGHT of its entry, for a raw image -/
  width : Nat
  height : Nat
  targets : List Nat
  imgOff : Nat
  imgLen : Nat
  tgtOff : Nat
  template : Nat
  state : Nat
  deriving DecidableEq, Repr

/-- An image decode in an engine (R267 to R269). -/
structure Decode where
  engine : Nat
  ring : Nat
  seq : Nat
  img : ImageIn
  start : Nat
  /-- its budget in ns, fixed at its start (R269) -/
  budget : Nat
  deferred : Bool
  /-- it waits for pool space -/
  waits : Bool
  /-- job list and entry -/
  job : Option (Nat × Nat)
  deriving DecidableEq, Repr

/-- Adapter weights in their copies (R276, R278). -/
structure Adapter where
  version : Nat
  weights : List F32
  deriving DecidableEq, Repr

/-- The batch preparation unit and the adaptation run (R261 to R279). -/
structure BatchSt where
  queue : List Batch
  nextBatch : Nat
  /-- entries reserved and not opened, by forme identifier -/
  reserved : Kv Nat
  /-- image jobs waiting for an engine, in fetch order: ring, PAGE_SEQ -/
  images : List (Nat × Nat)
  decodes : List Decode
  /-- times of the last 64 reading decodes within budget, in ns, newest first -/
  times : List Nat
  /-- the same of sample decodes (R271) -/
  sampleTimes : List Nat
  /-- low-water alarm raised -/
  lowWater : Bool
  /-- samples in the sample table, by index -/
  samples : Kv Sample
  /-- next stream position of the run; step t -/
  pos : Nat
  step : Nat
  /-- consecutive skips -/
  skips : Nat
  /-- working moments m and q as FP32 values, by parity; weights by parity -/
  mom : Kv (List F32 × List F32)
  working : Kv (List F32)
  lastParity : Nat
  /-- the weights that the last step which committed an update wrote, or that an import brought (R278, R393) -/
  done : Option (List F32)
  current : Adapter
  previous : Adapter
  /-- an encoder slot of the frame before ran empty while a page side waited for its crops (R263) -/
  encoderEmpty : Bool
  deriving DecidableEq, Repr

/-- Thermal, power and frequency loops (R297 to R300). -/
structure PowerSt where
  /-- frequency point from software, thermal point, power point, protective point -/
  thermal : Nat
  power : Nat
  protective : Bool
  shutdown : Bool
  /-- cores whose droop loop stands at its envelope (R297); thermal and power loops at theirs -/
  atDroop : List Nat
  atThermal : Bool
  atPower : Bool
  /-- PMBus limits in force, for bit 2 of 1001h -/
  railLimit : Bool
  tempOverride : Bool
  /-- POWER_CAP_W as the last PMBus reading took it (R302) -/
  cap : Nat
  calibrating : Option Nat
  /-- input power of the last 100 PMBus readings in mW, newest first; reads in a row that each rail has missed -/
  polls : List Nat
  misses : Kv Nat
  /-- DDR5 refresh (R372, R373): the rate of the next refresh shadow is 2×; the loop stands at REFRESH_ENV; 2× is held by
  the protective limit -/
  refreshTwice : Bool
  atRefresh : Bool
  refreshHeld : Bool
  deriving DecidableEq, Repr

/-- A set of shading references of a channel (R140 to R143), plane by plane, pixel by pixel. Empty lists stand for the
default reference: B16 0, K 2^20, no defect. -/
structure Reference where
  /-- REF_SOURCE: 0 default, 1 stored, 2 makeready -/
  source : Nat
  b16 : List Nat
  g16 : List Nat
  k : List Nat
  defect : List Bool
  /-- REF_SUM over the monitor zone (R145) -/
  sum : Nat
  defects : Nat
  noisy : Nat
  dust : Nat
  deriving DecidableEq, Repr

/-- Sum, minimum and maximum of one pixel over a makeready phase (R140). -/
structure PixStat where
  sum : Nat
  min : Nat
  max : Nat
  deriving DecidableEq, Repr

/-- A makeready in progress (Table 7-3): phase 1 to 4, lines left in it, sums of the two measuring phases. -/
structure Makeready where
  phase : Nat
  left : Nat
  black : List PixStat
  grey : List PixStat
  deriving DecidableEq, Repr

/-- A shaded line and its classification (R146, R147). -/
structure ShadedLine where
  bytes : List Byte
  crc : Nat
  /-- the aligned samples as 16-bit values, held only with PASS_MODE 1 (R156) -/
  raw : List Byte
  /-- left and right edge of a paper line -/
  paper : Option (Nat × Nat)
  repaired : Bool
  stall : Bool
  /-- stops for line space between the line before and this one (R176) -/
  stops : Nat
  status : Nat
  /-- device time at which the line was complete -/
  time : Nat
  deriving DecidableEq, Repr

/-- A line trigger whose line has not completed: was another one issued before it (R134), does it begin with a line step after a
resume, and how many stops for line space came before it (R176)? -/
structure Trig where
  late : Bool
  stall : Bool
  stops : Nat
  deriving DecidableEq, Repr

/-- One skew sample of a page side: line offset, left point, right point (R150). -/
structure SkewPt where
  u : Nat
  left : Option Nat
  right : Option Nat
  deriving DecidableEq, Repr

/-- One scan channel (R130 to R158, R441). -/
structure ChanSt where
  /-- lines since ENABLE -/
  lineNo : Nat
  /-- it writes lines for reading, not pass-through records (R157) -/
  reading : Bool
  fifo : List (List Byte)
  /-- line triggers whose line has not completed, oldest first -/
  trigs : List Trig
  /-- the line trigger of the line at which the present page side's leading edge was detected (R11) -/
  detected : Option Nat
  /-- device time of the page side's last stored line (R149) -/
  lastTime : Nat
  lastGood : Option ShadedLine
  /-- consecutive lines of the class that could end the present state, held until they are decided (R148) -/
  held : List ShadedLine
  /-- a non-paper line has been seen since the last page -/
  clear : Bool
  inPage : Bool
  /-- after a truncation: lines are counted, not stored, until a trailing edge (R149) -/
  skipping : Bool
  page : Option (Nat × Nat)
  /-- lines of the page side stored so far -/
  stored : Nat
  leadTime : Nat
  points : List SkewPt
  leftMin : Nat
  rightMax : Nat
  repairs : Nat
  scanStatus : Nat
  truncated : Bool
  refOld : Bool
  /-- the drift loop stands at the edge of its envelope (R297); 0208h has been raised on this page side (R145) -/
  driftRaised : Bool
  driftPage : Bool
  /-- stops for line space since the last line trigger (R176) -/
  stops : Nat
  /-- 3001h:01-0D and DRIFT_ENV as they stood at the last gap (R159); empty: as they stand -/
  cfg : List Nat
  /-- sheets past the sensor that have no reservation, fed before Press (R157) -/
  unres : Nat
  /-- line steps since a truncation without a trailing edge (R169) -/
  longSteps : Option Nat
  ref : Reference
  nextRef : Option Reference
  storedRef : Option Reference
  makeready : Option Makeready
  /-- the gap qualifies for makeready and none has begun in it (R139) -/
  wantMakeready : Bool
  /-- the next gap qualifies whatever the count -/
  firstGap : Bool
  pagesSince : Nat
  /-- the band ring has been checked since the imposition last changed, and passed (R153) -/
  ringChecked : Bool
  ringOk : Bool
  /-- band slots in use: slot, ring, PAGE_SEQ, band -/
  slots : List (Nat × Nat × Nat × Nat)
  /-- where the current band goes: a slot, or the pool -/
  bandSlot : Option Nat
  deriving DecidableEq, Repr

/-- One axis and its transport (R161 to R179, R442). -/
structure AxisSt where
  rest : Bool
  /-- ramp index of the last step -/
  index : Nat
  decel : Bool
  /-- why it decelerates or stands: 0 none, 1 line space, 2 reservation, 3 into the safe state -/
  reason : Nat
  stopTime : Nat
  stallRaised : Bool
  /-- AXn_FLT_N is low -/
  fltLow : Bool
  faultLatched : Bool
  jamLatched : Bool
  timeoutLatched : Bool
  /-- stamps of the pending sensor edges (R168), earliest first -/
  edges : List Nat
  /-- the last filtered edge of the transport's sensor: its stamp, and whether it was a leading edge (R167) -/
  lastEdge : Option (Nat × Bool)
  /-- line triggers issued since reset -/
  triggers : Nat
  /-- a page gap at the sensor (R169) -/
  gap : Bool
  /-- FIx asserted for this transport -/
  inhibit : Bool
  /-- sheet reservations not yet taken over by page sides: channel, address, bytes -/
  sheets : List (List (Nat × Nat × Nat))
  /-- sheets that wait for their reservation (R172, R175) -/
  need : Nat
  /-- the next line step is the first after a stop for line space (R176) -/
  resumed : Bool
  /-- TARGET of the move in progress (R166) -/
  goal : Nat
  /-- the direction of the present move, true forward, and the level that DIR took when it began -/
  forward : Bool
  dir : Bool
  deriving DecidableEq, Repr

/-! ## The fabric (R376 to R394) -/

/-- A fabric port and its link while it runs (R382, R383). -/
structure PortSt where
  /-- LINK_SEQ of the next packet it sends, and the last one received in order -/
  nextSeq : Nat
  lastRx : Nat
  /-- the replay buffer, oldest first: LINK_SEQ, packet -/
  sent : List (Nat × PacketIn)
  /-- packets that wait for a credit, oldest first, each with the input buffer it stands in: 0 none, else
  1 + 8 · port + 2 · VC + dateline class -/
  waiting : List (PacketIn × Nat)
  /-- buffer slots of the next hop that are taken, by 2 · VC + dateline class -/
  used : Kv Nat
  /-- times of the last replays, newest first -/
  replays : List Nat
  /-- packets are discarded until the replay it asked for arrives -/
  dropping : Bool
  deriving DecidableEq, Repr

/-- An entry of the outstanding table (R382, R386): the packet it waits for an answer to. -/
structure Outstanding where
  tag : Nat
  ty : Nat
  dest : Nat
  window : Nat
  offset : Nat
  words : Nat
  era : Nat
  /-- core and completion tag of the transfer, and its forme -/
  core : Nat
  ctag : Nat
  forme : Nat
  due : Nat
  /-- a WRITE: the place of its first word among those issued to its instance (R389) -/
  place : Nat
  deriving DecidableEq, Repr

/-- A galley window (Table 5-5) with its owner's side of an era (R387 to R391; the manual's INSTANCE). -/
structure Window where
  base : Nat
  size : Nat
  quoin : Nat
  source : Nat
  anySource : Bool
  isOpen : Bool
  era : Nat
  /-- the grant word last sent (Table 19-5), how often it has been granted, and the time of the last grant -/
  grant : Nat
  grants : Nat
  granted : Nat
  /-- template, pool and slots that the import reserves: locations of the run -/
  template : Nat
  pool : Nat
  locs : List Nat
  deriving DecidableEq, Repr

/-- A grant that the producer holds (R388, R389). -/
structure Grant where
  owner : Nat
  window : Nat
  word : Nat
  acked : Nat
  /-- packets acknowledged beyond them: place of the first word, and words -/
  ahead : List (Nat × Nat)
  /-- words issued to it in this attempt of its forme -/
  issued : Nat
  /-- after a timeout nothing more is sent to it -/
  dead : Bool
  deriving DecidableEq, Repr

/-- The producer's side of a template export: all grants of one owner for one template (R390, R392). -/
structure Span where
  owner : Nat
  template : Nat
  /-- ATTEMPT of its forme as last queued -/
  attempt : Nat
  /-- a grant was revoked: the next one queues the forme afresh -/
  again : Bool
  /-- slugs whose count its admissions raised, once for each time -/
  held : List Nat
  deriving DecidableEq, Repr

/-- A template import held until its slots can be reserved, or under way (R235, R391). -/
structure Import where
  template : Nat
  source : Nat
  prefixLen : Nat
  cls : Nat
  /-- its windows have been opened -/
  opened : Bool
  deriving DecidableEq, Repr

/-- The fabric's state. -/
structure FabricSt where
  ports : Kv PortSt
  windows : Kv Window
  outstanding : List Outstanding
  nextTag : Nat
  /-- packets that wait for an entry of the outstanding table, with the entry each will take -/
  backlog : List (Outstanding × PacketIn)
  /-- packets of the backlog that found no way out and are answered here (R381) -/
  unreached : List Outstanding
  grants : List Grant
  spans : List Span
  imports : List Import
  /-- words of an adapter import received so far; answered packets of an adapter it sends -/
  adapterIn : List Nat
  /-- its first word has come: SET_ID and ADAPTER_VERSION -/
  adapterHead : Option (Nat × Nat)
  /-- the series is under way: the entry by which its next packet times out -/
  adapterTag : Option Nat
  deriving DecidableEq, Repr

/-! ## Firmware and identity (R395 to R410) -/

/-- A boot record (Table 20-5). -/
structure BootRec where
  gen : Nat
  active : Nat
  trial : Bool
  tries : Nat
  previousValid : Bool
  rejected : Bool
  deriving DecidableEq, Repr

/-- A firmware slot in flash: SLOTn_STATE's lasting part, and the container it holds. -/
structure FwSlot where
  state : Nat
  image : Option FwImage
  deriving DecidableEq, Repr

/-- One generation of the parameter store: values and strings by key. -/
structure StoreGen where
  generation : Nat
  values : Kv Val
  strings : Kv (List Byte)
  /-- stored shading references by channel (R141) -/
  refs : Kv Reference
  /-- its size (4811h:03) -/
  bytes : Nat
  ok : Bool
  deriving DecidableEq, Repr

/-- What flash and fuses hold: it outlasts every reset (R397, R404, R409, R327). -/
structure Nv where
  boot0 : Option BootRec
  boot1 : Option BootRec
  slot0 : FwSlot
  slot1 : FwSlot
  minSv : Nat
  plovantRevoked : Nat
  ownerKeys : Kv (List Byte)
  ownerRevoked : Nat
  /-- generations of the parameter store, newest first -/
  store : List StoreGen
  /-- the sectors of the store that hold records, in the order in which they took them: generation, sector (R328) -/
  sectors : List (Nat × Nat)
  /-- erase counts of the sectors -/
  erases : Kv Nat
  /-- groups marked for a return to defaults (R329) -/
  marks : List Nat
  deriving DecidableEq, Repr

/-- A load under way (R400): its target, the path or job it comes by, the target's state before it. -/
structure Load where
  target : Nat
  path : Option Path
  job : Option (Nat × Nat)
  /-- it came as an FoE file -/
  foe : Bool
  before : Nat
  /-- its container, once checks 1 to 4 have passed -/
  manifest : Option ContainerIn
  /-- what the target held, until the first byte of a segment (R400): its set and its digest -/
  kept : Option (PlateSetIn × List Byte)
  deriving DecidableEq, Repr

/-- A store of the parameter store in progress (R327): where it was asked for, what it writes. -/
structure Saving where
  path : Path
  sub : Nat
  gen : StoreGen
  deriving DecidableEq, Repr

/-- The management controller's firmware and identity state. -/
structure FwSt where
  running : Nat
  selfTest : Bool
  trialRaised : Bool
  loads : List Load
  /-- the firmware package being written to the inactive slot, with what it builds -/
  building : Option (Load × ContainerIn)
  /-- grants of accepted tokens: SCOPE (Table 20-11), end -/
  grants : List (Nat × Nat)
  challenge : Nat
  /-- place of the next piece of a recovery image, and the bytes written so far (R405) -/
  recoveryNext : Nat
  recoveryBytes : List Byte
  /-- manifest digests of verified targets, by target number (Table 20-6) -/
  digests : Kv (List Byte)
  saving : Option Saving
  compacting : Bool
  deriving DecidableEq, Repr

/-- A loopback that runs (R412 to R415). -/
structure Loop where
  target : Nat
  depth : Nat
  locked : Bool
  /-- LB_PATTERN, and the generator's register of each lane (R413) -/
  pattern : Nat
  lanes : List Nat
  /-- readiness bits of its target before, to be put back -/
  before : Nat
  deriving DecidableEq, Repr

/-- Loopbacks and galley tests under way; how often PCIe loopback was entered; the boundary scan port. -/
structure TestSt where
  loops : Kv Loop
  dies : List Nat
  pcieEntries : Nat
  /-- the instruction register of the test access port (R418) -/
  ir : Nat
  deriving DecidableEq, Repr

/-- Staged start: values of the store that wait for their entry to become writable (R307), times of stage entries. -/
structure StartSt where
  later : Kv Val
  laterDom : Kv (List Byte)
  tmode : Nat
  fnsStarted : List Nat
  stageTime : Nat
  /-- DDR_RATE as taken at the last Proof entry, 0 before it (R364) -/
  ddrRate : Nat
  /-- sizes in MiB of the DDR5 regions once the layout is fixed, none before (R369) -/
  layout : List Nat
  deriving DecidableEq, Repr

/-- The device: every register, memory, buffer and unit of the part but what flash and fuses hold. -/
structure Dev where
  now : Nat
  run : Run
  /-- dictionary values that differ from their defaults, by index · 256 + sub-index -/
  od : Kv Val
  /-- strings and domains of the dictionary, by the same key -/
  dom : Kv (List Byte)
  /-- values and domains that each path sees for itself, by path number · 2^24 + key -/
  perVal : Kv Val
  perDom : Kv (List Byte)
  /-- local space: galley, hub SRAM, DDR5 (Table 2-6) -/
  mem : List Host.Cell
  /-- words whose check bits or ECC fail, by address / 64 (R90, R93) -/
  poisoned : List Nat
  /-- words whose detection has been counted (R96) -/
  counted : List Nat
  cores : Kv CoreSt
  formes : List Forme
  nextForme : Nat
  nextRetry : Nat
  pages : List PageSide
  chans : Kv ChanSt
  axes : Kv AxisSt
  host : HostSt
  net : NetSt
  plate : PlateSt
  slug : SlugSt
  seqs : Kv SeqSt
  text : TextSt
  batch : BatchSt
  power : PowerSt
  fabric : FabricSt
  fw : FwSt
  test : TestSt
  start : StartSt
  nv : Nv
  /-- event times of each fault source, newest first, by class · 65536 + source (R287) -/
  faults : Kv (List Nat)
  /-- dies on which a plate's recorded events arose, newest first, by plate (R125) -/
  plateDies : Kv (List (Nat × Nat))
  /-- sources with a lasting decision, by class · 65536 + source -/
  lasting : List Nat
  /-- DDR5 channels whose memory test has passed; the layout is fixed and fits (R369) -/
  ddrPassed : List Nat
  /-- channels that have trained (R311) -/
  ddrTrained : List Nat
  ddrFixed : Bool
  /-- next word of the patrol scrub in each subchannel (R374); next word of each die's scrub, by die (R98) -/
  patrolPos : Nat
  scrubPos : Kv Nat
  readingStopped : Bool
  /-- draws of free values so far -/
  draws : Nat
  out : List Out
  deriving DecidableEq, Repr

/-- An empty tile buffer. -/
def Tile.empty : Tile := ⟨0, [], 0⟩

/-- A core at reset: idle, registers zero (R303; the values log entry 2 names). -/
def CoreSt.idle : CoreSt :=
  { running := false, stopped := 0, frozen := false, detected := false, replaying := false, ended := false, forme := 0, plate := 0, slot := 0, seed := 0,
    step := 0, cycle := 0, bundle := 0, loops := [], replayLoops := [], replayBundle := 0, vregs := [], acc := [],
    active := .empty, shadow := .empty, window := [], streamTable := 0, sb := [], tags := [], inFlight := [], loads := [],
    header := none, launches := [], blocks := [] }

def RingRt.init : RingRt := ⟨0, 0, 0, 0⟩

def ListRt.init : ListRt := ⟨0, 0, []⟩

/-- A mailbox header at its defaults: zero fields with their complements (Tables 16-10, 16-11). -/
def mailboxIdle : Nat := (2 ^ 32 - 1) * (2 ^ 480 + 2 ^ 416 + 2 ^ 352)

def HostSt.init : HostSt :=
  { perst := false, linkUp := false, rings := [], pass := [], lists := [], fetches := 0, requests := [], reads := [], unmasked := [],
    msixPending := [], templateJobs := [], lastMsg := [], heldMsgs := [], owed := [], lastReq := 0,
    request := mailboxIdle, requestData := [], response := mailboxIdle, responseData := [] }

def NetSt.init : NetSt :=
  { al := .init, alCode := 0, nmt := 127, node := 127, canMode := 1, bitRate := 500, dataRate := 2000, emcyQueue := [],
    lastEmcy := 0, rxRefused := [], snapshot := ⟨[], [], []⟩, staging := [],
    lastAbort := none, syncs := 0, sent := [], carried := [] }

def Reference.default : Reference := ⟨0, [], [], [], [], 0, 0, 0, 0⟩

def ChanSt.init : ChanSt :=
  { lineNo := 0, reading := false, fifo := [], trigs := [], detected := none, lastTime := 0, lastGood := none, held := [],
    clear := false, inPage := false, skipping := false, page := none, stored := 0, leadTime := 0, points := [],
    leftMin := 0, rightMax := 0, repairs := 0, scanStatus := 0, truncated := false, refOld := false,
    driftRaised := false, driftPage := false, stops := 0, cfg := [], unres := 0, longSteps := none, ref := .default, nextRef := none, storedRef := none,
    makeready := none, wantMakeready := false, firstGap := false, pagesSince := 0, ringChecked := false, ringOk := false, slots := [],
    bandSlot := none }

def AxisSt.init : AxisSt :=
  { rest := true, index := 0, decel := false, reason := 0, stopTime := 0, stallRaised := false, fltLow := false,
    faultLatched := false, jamLatched := false, timeoutLatched := false, edges := [], gap := true, inhibit := true,
    lastEdge := none, triggers := 0, sheets := [], need := 0, resumed := false, goal := 0, forward := true, dir := false }

def PlateSt.init : PlateSt :=
  { areas := [], groups := [], pendingArea := none, pendingTest := false, pendingDie := none, pendingJoin := false, frameStart := 0,
    frameLen := 0, unified := [], groupUsed := [], gated := [], folds := [], latched := [], slip := 0, slotsNow := [], scrubbed := [], patrolled := false }

def SlugSt.init : SlugSt :=
  { vacated := [], moves := [], installs := [], releases := [], lists := [], built := [], regions := [] }

def SeqSt.init : SeqSt :=
  { ring := 0, page := 0, region := 0, request := [], text := [], pendingBytes := [], gstate := 0, log := [],
    replaced := 0, lastCap := 0, stopCut := false, deadlineCut := false, held := false, version := 0, due := false,
    checked := false, ready := false,
    cut := false }

def TextSt.init : TextSt := { founts := [], grammars := [], cache := [], steps := [], rejected := [] }

def BatchSt.init : BatchSt :=
  { queue := [], nextBatch := 1, reserved := [], images := [], decodes := [], times := [], sampleTimes := [],
    lowWater := false, samples := [], pos := 0, step := 1, skips := 0, mom := [], working := [], lastParity := 0, done := none,
    current := ⟨0, []⟩, previous := ⟨0, []⟩, encoderEmpty := false }

def PowerSt.init : PowerSt :=
  { thermal := 0, power := 0, protective := false, shutdown := false, atDroop := [], atThermal := false,
    atPower := false, railLimit := false, tempOverride := false, cap := 0, calibrating := none, polls := [], misses := [],
    refreshTwice := false, atRefresh := false, refreshHeld := false }

def PortSt.init : PortSt := ⟨0, 4095, [], [], [], [], false⟩

def Window.init : Window := ⟨0, 0, 0, 0, false, false, 0, 0, 0, 0, 255, 0, []⟩

def FabricSt.init : FabricSt :=
  { ports := [], windows := [], outstanding := [], nextTag := 0, backlog := [], grants := [], spans := [], imports := [], adapterIn := [],
    adapterHead := none, adapterTag := none, unreached := [] }

/-- Flash and fuses as the part is delivered to this model: erased (log entry 5). -/
def Nv.init : Nv :=
  { boot0 := none, boot1 := none, slot0 := ⟨0, none⟩, slot1 := ⟨0, none⟩, minSv := 0, plovantRevoked := 0, ownerKeys := [],
    ownerRevoked := 0, store := [], sectors := [], erases := [], marks := [] }

def FwSt.init : FwSt :=
  { running := 0, selfTest := false, trialRaised := false, loads := [], building := none, grants := [],
    challenge := 0, recoveryNext := 0, recoveryBytes := [], digests := [], saving := none, compacting := false }

def TestSt.init : TestSt := ⟨[], [], 0, 1⟩

def StartSt.init : StartSt := ⟨[], [], 0, [], 0, 0, []⟩

/-- The device in reset (R303): every unit in its reset state, every SRAM zero, every entry at its default. -/
def Dev.inReset : Dev :=
  { now := 0, run := .held, od := [], dom := [], perVal := [], perDom := [], mem := [], poisoned := [], counted := [],
    cores := [], formes := [], nextForme := 1, nextRetry := 0, pages := [], chans := [], axes := [], host := .init, net := .init,
    plate := .init, slug := .init, seqs := [], text := .init, batch := .init, power := .init,
    fabric := .init, fw := .init, test := .init, start := .init, nv := .init, faults := [], plateDies := [], lasting := [], ddrPassed := [], ddrTrained := [], ddrFixed := false, patrolPos := 0, scrubPos := [], readingStopped := false,
    draws := 0, out := [] }

/-- Why a step stops with a fault: no command of this part does. The type is closed and has one constructor, for a
queue entry that could not be a command; nothing raises it (safe). -/
inductive Fault where
  /-- raised by no meaning of this model; safe -/
  | none
  deriving DecidableEq, Repr

/-- Why a command is refused. -/
inductive Refusal where
  /-- the dispatcher has no meaning for the command yet; safe -/
  | notModelled (mnemonic : String)
  deriving DecidableEq, Repr

/-- The whole state: the device with what flash and fuses keep, and the commands that wait, first in first out. -/
structure State where
  dev     : Dev
  pending : List Instr
  deriving DecidableEq, Repr

/-- The part right after a power-on reset: held in reset, RESET_CAUSE 1, device time 0, nothing stored, nothing waiting
(R303; that the reset is a power-on reset is log entry 6). -/
def State.reset : State := { dev := { Dev.inReset with od := [(0x2002_01, 1#64)] }, pending := [] }

end Sys2Proof.Machine
end

