-- ==== Sys2Proof/Machine/Ops.lean ====
section
/-! DEFINITION. Operations on the state that every unit uses: sparse maps, the dictionary's values, local memory, bit
fields and paired words. -/

namespace Sys2Proof.Machine

/-! ## Sparse maps -/

/-- The value of a key, d where the map lists none. -/
def kvGet {α : Type} (d : α) : Kv α → Nat → α
  | [], _ => d
  | (i, a) :: r, k => if i = k then a else kvGet d r k

/-- Insert or replace, keeping keys strictly rising. -/
def kvInsert {α : Type} : Kv α → Nat → α → Kv α
  | [], k, v => [(k, v)]
  | (i, a) :: r, k, v =>
    if k < i then (k, v) :: (i, a) :: r
    else if k = i then (k, v) :: r
    else (i, a) :: kvInsert r k v

/-- Remove a key. -/
def kvErase {α : Type} (m : Kv α) (k : Nat) : Kv α := m.filter (fun e => e.1 ≠ k)

/-- Write a key, listing nothing that equals the default. -/
def kvPut {α : Type} [DecidableEq α] (d : α) (m : Kv α) (k : Nat) (v : α) : Kv α :=
  if v = d then kvErase m k else kvInsert m k v

/-- The canonical form of a map over a default: keys strictly rising, no default value listed. -/
def kvWf {α : Type} [DecidableEq α] (d : α) : Kv α → Bool
  | [] => true
  | [(_, a)] => a != d
  | (i, a) :: (j, b) :: r => a != d && i < j && kvWf d ((j, b) :: r)

/-! ## Bit fields and paired words -/

/-- Bits hi to lo of a word. -/
def bits (w hi lo : Nat) : Nat := w / 2 ^ lo % 2 ^ (hi + 1 - lo)

/-- Bit i of a word. -/
def bit (w i : Nat) : Bool := w.testBit i

/-- A word with bit i set to b. -/
def setBit (w i : Nat) (b : Bool) : Nat :=
  if b then (if w.testBit i then w else w + 2 ^ i) else (if w.testBit i then w - 2 ^ i else w)

/-- The paired word at a bit offset of a wider structure: its low half, and whether it is well formed (R3). -/
def pairedAt (w lo : Nat) : Nat × Bool := (bits w (lo + 31) lo, bits w (lo + 63) (lo + 32) == 2 ^ 32 - 1 - bits w (lo + 31) lo)

/-- Every paired field of a structure at these offsets is well formed (R3). -/
def pairsOk (w : Nat) (los : List Nat) : Bool := los.all (fun lo => (pairedAt w lo).2)

/-- n bytes of a number, little-endian (R1). -/
def leBytes : Nat → Nat → List Byte
  | 0, _ => []
  | n + 1, v => BitVec.ofNat 8 (v % 256) :: leBytes n (v / 256)

/-- The number that little-endian bytes spell (R1). -/
def ofLe : List Byte → Nat
  | [] => 0
  | b :: r => b.toNat + 256 * ofLe r

/-- The signed value of the low w bits. -/
def signed (w v : Nat) : Int := if v % 2 ^ w ≥ 2 ^ (w - 1) then (v % 2 ^ w : Nat) - (2 ^ w : Nat) else (v % 2 ^ w : Nat)

/-- The w-bit two's complement of a number. -/
def unsigned (w : Nat) (v : Int) : Nat := (v % (2 ^ w : Nat)).toNat

/-! ## The dictionary's values -/

/-- Value of an entry by key (R321: its default until something writes it). -/
def Dev.rd (d : Dev) (key : Nat) : Nat := (kvGet (BitVec.ofNat 64 (entryDefault key)) d.od key).toNat

/-- Set an entry's value. -/
def Dev.wr (d : Dev) (key v : Nat) : Dev :=
  { d with od := kvPut (BitVec.ofNat 64 (entryDefault key)) d.od key (BitVec.ofNat 64 v) }

/-- The 32-bit value of a paired entry (R325); one that is not well formed is not used: its default is (R4, R290). -/
def Dev.rdp (d : Dev) (key : Nat) : Nat := (if pairOk (d.rd key) then d.rd key else entryDefault key) % 2 ^ 32

/-- Set a paired entry to the paired word of a value. -/
def Dev.wrp (d : Dev) (key v : Nat) : Dev := d.wr key (pairOf v)

/-- Is a Boolean entry 1? -/
def Dev.on? (d : Dev) (key : Nat) : Bool := d.rd key ≠ 0

/-- Size of an entry in bytes. -/
def entrySize (key : Nat) : Nat := match findEntry (key / 256) (key % 256) with | some r => r.size | none => 8

/-- Add n to a counter, modulo its width. -/
def Dev.bumpBy (d : Dev) (key n : Nat) : Dev := d.wr key ((d.rd key + n) % 2 ^ (8 * entrySize key))

/-- Raise a counter by one. -/
def Dev.bump (d : Dev) (key : Nat) : Dev := d.bumpBy key 1

/-- Set a signed entry of w bits. -/
def Dev.wri (d : Dev) (key w : Nat) (v : Int) : Dev := d.wr key (unsigned w v)

/-- A string or domain of the dictionary. -/
def Dev.rdDom (d : Dev) (key : Nat) : List Byte := kvGet [] d.dom key

def Dev.wrDom (d : Dev) (key : Nat) (bs : List Byte) : Dev := { d with dom := kvPut [] d.dom key bs }

/-- Number of an access path, in the order of R324. -/
def pathNo : Path → Nat
  | .ecat => 0
  | .can => 1
  | .mailbox => 2

/-- Key of a value that one path sees for itself (Table 16-3, PER_PATH). -/
def pkey (p : Path) (key : Nat) : Nat := pathNo p * 2 ^ 24 + key

def Dev.rdPath (d : Dev) (p : Path) (key : Nat) : Nat := (kvGet (BitVec.ofNat 64 (entryDefault key)) d.perVal (pkey p key)).toNat

def Dev.wrPath (d : Dev) (p : Path) (key v : Nat) : Dev :=
  { d with perVal := kvPut (BitVec.ofNat 64 (entryDefault key)) d.perVal (pkey p key) (BitVec.ofNat 64 v) }

def Dev.rdPathDom (d : Dev) (p : Path) (key : Nat) : List Byte := kvGet [] d.perDom (pkey p key)

def Dev.wrPathDom (d : Dev) (p : Path) (key : Nat) (bs : List Byte) : Dev :=
  { d with perDom := kvPut [] d.perDom (pkey p key) bs }

/-- Stage of the device: 1 Chase, 2 Proof, 3 Press, 4 recovery (2000h:01). -/
def Dev.stage (d : Dev) : Nat := d.rd 0x2000_01

/-- Is the device answering in Press? -/
def Dev.inPress (d : Dev) : Bool := d.run = .on && d.stage = 3

/-- Bit of 2001h:01 (R308). -/
def Dev.ready (d : Dev) (b : Nat) : Bool := bit (d.rd 0x2001_01) b

def Dev.setReady (d : Dev) (b : Nat) (v : Bool) : Dev := d.wr 0x2001_01 (setBit (d.rd 0x2001_01) b v)

/-- Set a bit of FAILED, 2001h:02 (R308). -/
def Dev.setFailed (d : Dev) (b : Nat) : Dev := d.wr 0x2001_02 (setBit (d.rd 0x2001_02) b true)

/-- Send something out. -/
def Dev.emit (d : Dev) (o : Out) : Dev := { d with out := d.out ++ [o] }

/-- The next free value: one that nothing in the manual fixes, 64 bits wide. -/
def Dev.draw (d : Dev) : Nat := (Config.freeValue d.draws).toNat

/-- Count a draw. -/
def Dev.drawn (d : Dev) : Dev := { d with draws := d.draws + 1 }

/-! ## Local memory (Table 2-6) -/

/-- What a byte reads as that nothing has written since the last zero fill (R89, R303, R311): 0, in the slug descriptor
table the byte of the initial descriptor, whose complements are set (R211, Table 11-2), and in the sequence table FFh in
TEMPLATE (R215, Table 11-4; log entry 4). -/
def memDefault (a : Nat) : Byte :=
  if 0x1200_0000 ≤ a ∧ a < 0x1240_0000 ∧ (a % 16 = 6 ∨ a % 16 = 7 ∨ 12 ≤ a % 16) then 0xFF#8
  else if 0x1240_0000 ≤ a ∧ a < 0x1244_0000 ∧ a % 64 = 19 then 0xFF#8
  else 0#8

/-- The canonical form of the memory list: addresses strictly rising, no byte listed that reads so unlisted. -/
def memWf : List Host.Cell → Bool
  | [] => true
  | [(a, b)] => b != memDefault a
  | (a, b) :: (c, e) :: r => b != memDefault a && decide (a < c) && memWf ((c, e) :: r)

/-- One byte of local space. -/
def memByte (m : List Host.Cell) (a : Nat) : Byte := kvGet (memDefault a) m a

/-- Write one byte of local space. -/
def memPutByte (m : List Host.Cell) (a : Nat) (b : Byte) : List Host.Cell := kvPut (memDefault a) m a b

/-- n bytes from an address. -/
def memBytes (m : List Host.Cell) (a : Nat) : Nat → List Byte
  | 0 => []
  | n + 1 => memByte m a :: memBytes m (a + 1) n

/-- Write bytes at ascending addresses. -/
def memWrite (m : List Host.Cell) (a : Nat) : List Byte → List Host.Cell
  | [] => m
  | b :: r => memWrite (memPutByte m a b) (a + 1) r

/-- The n-byte number at an address. -/
def Dev.mrd (d : Dev) (a n : Nat) : Nat := ofLe (memBytes d.mem a n)

/-- The 512-bit word at an address. -/
def Dev.word (d : Dev) (a : Nat) : Nat := d.mrd a 64

/-- Write bytes without a look at check bits. -/
def Dev.poke (d : Dev) (a : Nat) (bs : List Byte) : Dev := { d with mem := memWrite d.mem a bs }

/-- Add to a set kept as a rising list. -/
def setAdd (x : Nat) : List Nat → List Nat
  | [] => [x]
  | y :: r => if x < y then x :: y :: r else if x = y then y :: r else y :: setAdd x r

/-- Size of one die's galley. -/
def dieBytes : Nat := 0x200_0000

/-- The compute die of a core (Table 2-1). -/
def coreDie (c : Fin 96) : Nat := c.val / 16

/-- Local address of a galley address in 16-byte units of a core's die (Table 3-6). -/
def galleyAddr (c : Fin 96) (a16 : Nat) : Nat := coreDie c * dieBytes + a16 * 16

/-- Is the address in the galley of CD0 to CD5? -/
def inGalley (a : Nat) : Bool := a < 6 * dieBytes

/-- Is the address in hub SRAM? -/
def inHub (a : Nat) : Bool := (0x1000_0000 ≤ a && a < 0x1180_0000) || (0x1200_0000 ≤ a && a < 0x1380_0000)

/-- First DDR5 address (Table 2-6). -/
def ddrBase : Nat := 0x80_0000_0000

/-- Installed DDR5 capacity in bytes (4100h:02, 4100h:03). -/
def Dev.ddrBytes (d : Dev) : Nat :=
  ((List.range 8).filter (fun x => bit (d.rd 0x4100_02) x)).length * d.rd 0x4100_03 * 2 ^ 30

/-- Is the local address in populated DDR5? -/
def Dev.inDdr (d : Dev) (a : Nat) : Bool := ddrBase ≤ a && a < ddrBase + d.ddrBytes

/-- Is the address local and neither reserved nor unpopulated (R43, R44)? -/
def Dev.addrOk (d : Dev) (a : Nat) : Bool := inGalley a || inHub a || d.inDdr a

/-- The region of Table 2-6 an address lies in: 0 galley, 1 and 2 hub SRAM, 3 DDR5, 4 none. -/
def region (a : Nat) : Nat :=
  if inGalley a then 0
  else if 0x1000_0000 ≤ a ∧ a < 0x1180_0000 then 1
  else if 0x1200_0000 ≤ a ∧ a < 0x1380_0000 then 2
  else if ddrBase ≤ a ∧ a < ddrBase + 2 ^ 39 then 3
  else 4

/-- Does a range start and end in one populated region (R43)? -/
def Dev.rangeOk (d : Dev) (a n : Nat) : Bool :=
  d.addrOk a && (n = 0 || (d.addrOk (a + n - 1) && region a = region (a + n - 1)))

/-! ## Lists -/

/-- Change the elements that a test picks. -/
def updIf {α : Type} (p : α → Bool) (f : α → α) (l : List α) : List α := l.map (fun x => if p x then f x else x)

/-- Take f over a list of numbers, threading the device. -/
def Dev.each {α : Type} (d : Dev) (l : List α) (f : Dev → α → Dev) : Dev := l.foldl f d

/-! ## Cores -/

/-- A unit's change of a core. -/
def Dev.core (d : Dev) (c : Fin 96) : CoreSt := kvGet CoreSt.idle d.cores c.val

def Dev.setCore (d : Dev) (c : Fin 96) (x : CoreSt) : Dev := { d with cores := kvPut CoreSt.idle d.cores c.val x }

end Sys2Proof.Machine
end

