-- ==== Sys2Proof/Machine/Flags.lean ====
section
/-! DEFINITION. Status, readiness and error flags that follow from conditions (R308, R314, R337), and the emergencies
that report statuses. -/

namespace Sys2Proof.Machine

/-! Class numbers of Table 14-5, counted from 0 for success. -/

def clsRefusal : Nat := 1
def clsReplay  : Nat := 2
def clsRestart : Nat := 3
def clsRepair  : Nat := 4
def clsOutcome : Nat := 5
def clsEvent   : Nat := 6
def clsLasting : Nat := 7

/-- Has an abort been sent in the last second (Table 16-13, bit 4)? -/
def Dev.abortRecent (d : Dev) : Bool :=
  match d.net.lastAbort with
  | some t => d.now < t + 1000000000
  | none => false

/-- The error register 1001h (Table 16-13). -/
def Dev.errorRegister (d : Dev) : Nat :=
  let b2 := d.power.railLimit
  let b3 := d.power.thermal > 0 || d.power.tempOverride
  let b4 := d.abortRecent
  let b7 := d.rd 0x2001_02 ≠ 0 || !d.lasting.isEmpty
  (if b2 || b3 || b4 || b7 then 1 else 0) + (if b2 then 4 else 0) + (if b3 then 8 else 0) + (if b4 then 16 else 0) +
    (if b7 then 128 else 0)

/-! ## MSI-X (R359) -/

/-- Number of a message source, for its times: lists 0-15, rings 16-31, pass-through 32-35, events 36. -/
def srcNo : MsixSrc → Nat
  | .list n => n.val
  | .ring n => 16 + n.val
  | .pass n => 32 + n.val
  | .event => 36

/-- A source's VECTOR. -/
def Dev.vectorOf (d : Dev) : MsixSrc → Nat
  | .list n => d.rd (dkey (0x4010 + n.val) 9)
  | .ring n => d.rd (dkey (0x4030 + n.val) 9)
  | .pass n => d.rd (dkey (0x4050 + n.val) 9)
  | .event => d.rd 0x4000_06

/-- A source's HOLDOFF_US; the event source has none. -/
def Dev.holdoffOf (d : Dev) : MsixSrc → Nat
  | .list n => d.rd (dkey (0x4010 + n.val) 10)
  | .ring n => d.rd (dkey (0x4030 + n.val) 10)
  | .pass n => d.rd (dkey (0x4050 + n.val) 10)
  | .event => 0

/-- Host accesses are issued: Chase has been entered, the part is not in recovery, and bus mastering is on (R343, R444). -/
def Dev.busOn (d : Dev) : Bool := d.run = .on && d.stage ≤ 3 && d.on? 0x4000_04

/-- Send a vector; a masked one sets its pending bit and is sent on unmask. -/
def Dev.sendVector (d : Dev) (v : Nat) : Dev :=
  if v ∈ d.host.unmasked ∧ d.busOn then d.emit (.msix v)
  else { d with host := { d.host with msixPending := setAdd v d.host.msixPending } }

/-- A source's message goes out, and its holdoff begins. -/
def Dev.sendMsg (d : Dev) (src : MsixSrc) : Dev :=
  let d := d.sendVector (d.vectorOf src)
  { d with host := { d.host with lastMsg := kvInsert d.host.lastMsg (srcNo src) d.now,
                                 heldMsgs := d.host.heldMsgs.filter (· ≠ src) } }

/-- Is the source inside its holdoff? -/
def Dev.inHoldoff (d : Dev) (src : MsixSrc) : Bool :=
  match d.host.lastMsg.find? (fun e => e.1 = srcNo src) with
  | some e => d.now < e.2 + d.holdoffOf src * 1000
  | none => false

/-- A source has written its host word: its message goes now, or once at the end of the holdoff. -/
def Dev.notify (d : Dev) (src : MsixSrc) : Dev :=
  if d.inHoldoff src then
    (if src ∈ d.host.heldMsgs then d
     else { d with host := { d.host with heldMsgs := d.host.heldMsgs ++ [src] } })
  else d.sendMsg src

/-! ## Emergencies (R337) -/

/-- The newest message enters 1003h: error code FF00h in the low half, the status in the high half. -/
def Dev.logError (d : Dev) (status : Nat) : Dev :=
  let d := (List.range 15).foldl (fun d i => d.wr (0x1003_00 + 16 - i) (d.rd (0x1003_00 + 15 - i))) d
  let d := d.wr 0x1003_01 (0xFF00 + status * 2 ^ 16)
  d.wr 0x1003_00 (min 16 (d.rd 0x1003_00 + 1))

/-- Is the inhibit time running? -/
def Dev.emcyInhibited (d : Dev) : Bool :=
  d.net.lastEmcy ≠ 0 && d.now < d.net.lastEmcy + d.rd 0x1015_00 * 100000

/-- Send one emergency now. -/
def Dev.sendEmcy (d : Dev) (e : Emcy) : Dev :=
  let d := d.emit (.emergency d.errorRegister e.status e.cls e.source)
  let d := { d with net := { d.net with lastEmcy := d.now } }
  d.bump 0x4801_03

/-- One emergency of R337: sent, queued behind the inhibit time, or dropped when 16 wait; logged in 1003h; and the
event vector sent. -/
def Dev.emergency (d : Dev) (status cls source : Nat) : Dev :=
  let d := d.logError status
  let d := if d.on? 0x4000_07 then d.sendVector (d.rd 0x4000_06) else d
  if d.emcyInhibited || !d.net.emcyQueue.isEmpty then
    if d.net.emcyQueue.length < 16 then
      { d with net := { d.net with emcyQueue := d.net.emcyQueue ++ [⟨status, cls, source⟩] } }
    else d.bump 0x4801_04
  else d.sendEmcy ⟨status, cls, source⟩

/-- A status of class event (R288): its emergency. -/
def Dev.event (d : Dev) (status source : Nat) : Dev := d.emergency status clsEvent source

/-! ## Readiness (R308, R314) -/

/-- Every populated DDR5 channel ready, and at least one populated. -/
def Dev.ddrReady (d : Dev) : Bool :=
  d.rd 0x4100_02 ≠ 0 && (List.range 8).all (fun x => !bit (d.rd 0x4100_02) x || d.ready (12 + x))

/-- Key of a fault source. -/
def srcKey (cls src : Nat) : Nat := cls * 65536 + src

/-- Has the source a lasting decision in force? -/
def Dev.isLasting (d : Dev) (cls src : Nat) : Bool := srcKey cls src ∈ d.lasting

/-- Number of dies that passed their galley test, those apart that a lasting decision leaves out: no imposition leaves out a
second die (R123, R124; DEDUCED, log entry 162). And of those that failed it. -/
def Dev.diesPassed (d : Dev) : Nat := ((List.range 6).filter (fun n => d.ready (20 + n) && !d.isLasting 0 n)).length
def Dev.diesFailed (d : Dev) : Nat := ((List.range 6).filter (fun n => bit (d.rd 0x2001_02) (20 + n))).length

/-- Every fount and grammar slot that the REQUIRED masks name has STATE 2. -/
def Dev.textSet (d : Dev) : Bool :=
  (List.range 8).all (fun k => !bit (d.rd 0x2000_04) k || d.rd (dkey (0x3A10 + k) 1) = 2) &&
  (List.range 32).all (fun g => !bit (d.rd 0x2000_05) g || d.rd (dkey (0x3A20 + g) 1) = 2)

/-- A plate set area has STATE 3. -/
def Dev.plateSet (d : Dev) : Bool := d.rd 0x2501_02 = 3 || d.rd 0x2502_02 = 3

/-- The first condition of Table 15-4 that does not hold, or 0. -/
def Dev.pressCondition (d : Dev) : Nat :=
  if !(d.diesPassed ≥ 5 && d.diesFailed ≤ 1) then 0x0350
  else if !d.ddrReady then 0x0351
  else if !(d.ready 33 && d.ready 34 && d.ready 37 && d.ready 38 && (d.ready 35 || d.ready 36)) then 0x0354
  else if !d.plateSet then 0x0352
  else if !d.textSet then 0x0353
  else 0

/-- START_STATUS as read (R314). -/
def Dev.startStatus (d : Dev) : Nat :=
  if d.stage = 3 then 0 else if d.stage = 4 then 0x0350 else d.pressCondition

/-- The PCIE bit follows the link and PERST_N (R343); in recovery no bit but RECOVERY is set. -/
def Dev.pcieBit (d : Dev) : Dev :=
  if d.run = .on ∧ d.stage ≤ 3 then d.setReady 26 (d.host.linkUp && !d.host.perst) else d

/-- The state bits PLATE_SET and TEXT_SET follow their conditions (R308); in recovery only RECOVERY is set. -/
def Dev.followBits (d : Dev) : Dev :=
  if d.run = .on ∧ d.stage ≠ 4 then (d.setReady 39 d.plateSet).setReady 40 d.textSet else d

end Sys2Proof.Machine
end

