-- ==== Sys2Proof/Machine/Page.lean ====
section
/-! DEFINITION. Page sides, their records and their way into the result rings (R9 to R25, R355, R356). -/

namespace Sys2Proof.Machine

/-! ## Pages of a ring -/

/-- Is this the page side of a ring with this PAGE_SEQ? -/
def PageSide.is (p : PageSide) (ring seq : Nat) : Bool := p.ring = ring && p.seq = seq

def Dev.page? (d : Dev) (ring seq : Nat) : Option PageSide := d.pages.find? (fun p => p.is ring seq)

/-- Change one page side. -/
def Dev.updPage (d : Dev) (ring seq : Nat) (f : PageSide → PageSide) : Dev :=
  { d with pages := updIf (fun p => p.is ring seq) f d.pages }

/-- A page side just numbered. -/
def PageSide.blank (ring seq : Nat) : PageSide :=
  { ring := ring, seq := seq, image := false, channel := 0, side := 0, jobTag := 0, reqSlot := 255, entryTime := 0,
    edgeTime := none, startPoint := none, lineCount := 0, width := 0, skew := 0, stalled := false, stallLine := 0,
    stallCount := 0, reduced := false, deferred := false, waited := false, seqHeld := false,
    seqReplaced := false, released := false, late := false, restarts := 0, reserve := 0,
    rawAddr := 0, rawBytes := 0, linePitch := 0, bandsReported := 0, bandsCommitted := 0, bandsTotal := none,
    poolBands := [], lastBandLines := 0, layoutDone := false, geometryDone := false, structuringQueued := false,
    regions := [], fields := [], bare := none, group := none, job := none, lens := 0, mesh := [], along := false, boxList := [], layoutArea := none, boxArea := none, crops := [], engine := none,
    reading := [], cropFaults := [], textHeld := 0 }

def Dev.ring (d : Dev) (r : Nat) : RingRt := kvGet RingRt.init d.host.rings r

def Dev.setRing (d : Dev) (r : Nat) (x : RingRt) : Dev :=
  { d with host := { d.host with rings := kvPut RingRt.init d.host.rings r x } }

/-- SIZE of a result ring. -/
def Dev.ringSize (d : Dev) (r : Nat) : Nat := d.rdp (dkey (0x4030 + r) 1)

/-- A 64-bit address held as two paired halves at sub and sub + 1 (R361). -/
def Dev.addrPair (d : Dev) (index sub : Nat) : Nat := d.rdp (dkey index sub) + 2 ^ 32 * d.rdp (dkey index (sub + 1))

/-- Bytes of a ring reserved by page sides and not yet written (R355, R356). -/
def Dev.reserved (d : Dev) (r : Nat) : Nat := ((d.pages.filter (fun p => p.ring = r)).map (fun p => p.reserve)).sum

/-- Free space of a result ring (R355): none while it is not enabled. -/
def Dev.ringFree (d : Dev) (r : Nat) : Nat :=
  if d.on? (dkey (0x4030 + r) 11) then
    let x := d.ring r
    d.ringSize r - (x.produced + 2 ^ 32 - x.consumed) % 2 ^ 32 - d.reserved r
  else 0

/-! ## Records (Tables 1-4 to 1-8) -/

/-- A record: header of Table 1-4, then its body from bit 128 on, given as (value, width) from the low end. -/
def packFields : List (Nat × Nat) → Nat
  | [] => 0
  | (v, w) :: r => v % 2 ^ w + 2 ^ w * packFields r

/-- Header of a record (R17): VERSION 1. -/
def recordHeader (ty len seq : Nat) : Nat :=
  let h0 := len + 2 ^ 24 + ty * 2 ^ 28
  pairOf h0 + 2 ^ 64 * pairOf seq

/-- Bytes of one field's text records (R22): chunks of at most 4,064 bytes on character boundaries. -/
def isContinuation (b : Byte) : Bool := b.toNat / 64 = 2

/-- Largest cut ≤ n that does not split a character. -/
def charCut (bs : List Byte) : Nat → Nat
  | 0 => 0
  | n + 1 => match bs[n + 1]? with
    | none => n + 1
    | some b => if isContinuation b then charCut bs n else n + 1

/-- Text records of a field: (offset, chunk) pairs. R22 asks only for at most 4,064 bytes and an end on a character
boundary; each chunk takes the longest cut that keeps both, which fixes their number and so the reserve of R356 (DESIGN
CHOICE, log entry 123). -/
def chunks : Nat → Nat → List Byte → List (Nat × List Byte)
  | 0, _, _ => []
  | _, _, [] => []
  | fuel + 1, off, bs =>
    let n := if bs.length ≤ 4064 then bs.length else charCut bs 4064
    let n := if n = 0 then min bs.length 4064 else n
    (off, bs.take n) :: chunks fuel (off + n) (bs.drop n)

def textChunks (f : FieldRec) : List (Nat × List Byte) := chunks (f.text.length + 1) 0 f.text

def flag (b : Bool) : Nat := if b then 1 else 0

/-- STATUS of a page record (Table 1-5). -/
def PageSide.status (p : PageSide) : Nat :=
  match p.bare with
  | some s => s
  | none => ((p.regions.map (·.status) ++ p.fields.map (·.status)).find? (· ≠ 0)).getD 0

/-- The page record (R19). A bare group written before the trailing edge has no edge yet: EDGE_TIME, START_TIME,
LINE_COUNT, WIDTH_PX and SKEW are 0 in it (DESIGN CHOICE, log entry 124). REPLACED looks at the fields, in a bare group at
the whole text (DESIGN CHOICE, log entry 143). -/
def pageRecord (p : PageSide) (now : Nat) : List Byte :=
  let nr := if p.bare.isSome then 0 else p.regions.length
  let fs := if p.bare.isSome then [] else p.fields
  let texts := (fs.map (fun f => (textChunks f).length)).sum
  let body := packFields
    [(0, 8), (p.stallCount, 16), (flag p.seqHeld, 1),
     (flag (fs.any (fun f => f.inserted ≠ []) || (p.bare.isSome && p.seqReplaced)), 1),
     (flag (!p.bare.isSome && p.regions.any (fun r => r.status = 0x03F1)), 1), (flag (fs.any (·.deadlineCut)), 1),
     (flag p.deferred, 1), (flag p.reduced, 1), (flag p.late, 1), (flag p.stalled, 1), (0, 4),
     (p.channel, 2), (p.side, 1), (flag p.image, 1), (p.restarts, 8), (p.status, 16), (unsigned 16 p.skew, 16),
     (fs.length, 16), (nr, 16), (p.width, 16), (p.lineCount, 32), (p.stallLine, 32), (texts, 32), (p.jobTag, 32),
     (p.edgeTime.getD 0, 64), (p.startPoint.getD 0, 64), (now, 64)]
  leBytes 72 (recordHeader 1 72 p.seq + 2 ^ 128 * body)

/-- A region record (R20). -/
def regionRecord (seq : Nat) (r : Region) : List Byte :=
  leBytes 40 (recordHeader 2 40 seq + 2 ^ 128 * packFields
    [(0, 40), (r.cls, 8), (r.index, 16), (r.status, 16), (r.readOrder, 16), (r.parent, 16), (r.confidence, 16),
     (r.h, 16), (r.w, 16), (r.y, 16), (r.x, 16)])

/-- A text record (R22). -/
def textRecord (seq fieldIx chunkIx off replaced : Nat) (text : List Byte) : List Byte :=
  let pad := (8 - text.length % 8) % 8
  leBytes 32 (recordHeader 4 (32 + text.length + pad) seq + 2 ^ 128 * packFields
    [(0, 32), (chunkIx, 16), (replaced, 16), (text.length, 16), (fieldIx, 16), (off, 32)]) ++
  text ++ List.replicate pad 0#8

/-- A field record and its text records (R21, R23). -/
def fieldRecords (seq ix : Nat) (f : FieldRec) : List Byte :=
  let cs := textChunks f
  leBytes 40 (recordHeader 3 40 seq + 2 ^ 128 * packFields
    [(0, 27), (flag f.held, 1), (flag f.recomputed, 1), (flag (f.inserted ≠ []), 1), (flag f.deadlineCut, 1),
     (flag f.stopCut, 1), (f.grammar, 8), (f.fount, 8), (ix, 16), (f.region, 16), (f.status, 16), (cs.length, 16),
     (f.confidence, 16), (f.tokens, 32), (f.nameId, 32)]) ++
  (cs.mapIdx (fun c o =>
    textRecord seq ix c o.1 (f.inserted.filter (fun i => o.1 ≤ i && i < o.1 + o.2.length)).length o.2)).flatten

/-- The group of a page side in record order (R23). -/
def groupBytes (p : PageSide) (now : Nat) : List Byte :=
  pageRecord p now ++
  (if p.bare.isSome then [] else
    (p.regions.map (regionRecord p.seq)).flatten ++ (p.fields.mapIdx (fieldRecords p.seq)).flatten)

/-- Bytes beyond the page record that structuring reserves (R356). -/
def groupRest (regions : Nat) (fields : List FieldRec) : Nat :=
  40 * regions + 40 * fields.length +
    (fields.map (fun f => ((textChunks f).map (fun c => 32 + 8 * ((c.2.length + 7) / 8))).sum)).sum

/-! ## Start points (R12) -/

/-- A page side takes its start point. A group whose bytes were fixed with the edge time known, but before the predecessor's
edge, carries START_TIME from now on (bytes 56 to 63 of the page record, Table 1-5). -/
def PageSide.started (p : PageSide) (t : Nat) : PageSide :=
  let put (bs : List Byte) : List Byte :=
    if p.edgeTime = some (ofLe ((bs.drop 48).take 8)) then bs.take 56 ++ leBytes 8 t ++ bs.drop 64 else bs
  { p with startPoint := some t, group := p.group.map put }

/-- Start points along a ring (R12): the later of the edge time and the start point of the page side before. A page
side has one once its own edge time is known and its predecessor has one. -/
def startPoints : Option Nat → List PageSide → List PageSide
  | _, [] => []
  | before, p :: r =>
    match before, p.edgeTime, p.startPoint with
    | _, _, some t => p :: startPoints (some t) r
    | some b, some e, none => p.started (max b e) :: startPoints (some (max b e)) r
    | _, _, none => p :: startPoints none r

/-- Recompute the start points of a ring's waiting page sides, from the latest start point of those that are gone. -/
def Dev.setStartPoints (d : Dev) (ring : Nat) : Dev :=
  let own := startPoints (some (d.ring ring).start) (d.pages.filter (fun p => p.ring = ring))
  { d with pages := d.pages.map (fun p => (own.find? (fun q => q.is p.ring p.seq)).getD p) }

/-- Page sides of a ring that nothing needs any more are forgotten: released, and timed where they are to be timed. The ring
keeps the latest of their start points, from which the next page side is timed. -/
def Dev.forgetPages (d : Dev) (ring : Nat) (gone : PageSide → Bool) : Dev :=
  let out := d.pages.filter (fun p => p.ring = ring && gone p)
  let x := d.ring ring
  let t := out.foldl (fun m p => max m (p.startPoint.getD 0)) x.start
  let d := { d with pages := d.pages.filter (fun p => !(p.ring = ring && gone p)) }
  (d.setRing ring { x with start := t }).setStartPoints ring

/-! ## Release (R24, R355) -/

/-- Write bytes at a place of a ring, around its end (R355). -/
def ringWrites (base size pos : Nat) (bs : List Byte) : List Out :=
  let at_ := pos % size
  let n := size - at_
  if bs.length ≤ n then [Out.hostWrite (base + at_) bs]
  else [Out.hostWrite (base + at_) (bs.take n), Out.hostWrite base (bs.drop n)]

/-- Write one group and advance the producer index past it, then the ring's message. -/
def Dev.writeGroup (d : Dev) (r : Nat) (bs : List Byte) : Dev :=
  let x := d.ring r
  let ix := 0x4030 + r
  let prod := (x.produced + bs.length) % 2 ^ 32
  let d := { d with out := d.out ++ ringWrites (d.addrPair ix 2) (d.ringSize r) x.produced bs ++
                                    [Out.hostWrite (d.addrPair ix 4) (leBytes 8 (pairOf prod))] }
  let d := d.setRing r { x with produced := prod }
  let d := d.bump (dkey ix 13)
  if h : r < 16 then d.notify (.ring ⟨r, h⟩) else d

/-- Is the edge of a page side still to come (R12): it is in the transport, or its image waits or is being decoded? -/
def Dev.edgeComes (d : Dev) (p : PageSide) : Bool :=
  p.edgeTime.isNone &&
    (!p.image || d.batch.images.contains (p.ring, p.seq) || d.batch.decodes.any (fun x => x.ring = p.ring && x.seq = p.seq))

/-- A page side's group goes out. One whose edge or start point is still to come is kept, without its group, until then: R12
times its followers from it, and its raw page buffer is its own until its edge. -/
def Dev.leaveRing (d : Dev) (p : PageSide) : Dev :=
  if d.edgeComes p || (p.edgeTime.isSome && p.startPoint.isNone) then
    d.updPage p.ring p.seq (fun q => { q with released := true, group := none, reserve := 0 })
  else d.forgetPages p.ring (fun q => q.is p.ring p.seq)

/-- Page sides of a ring whose group has not been released. -/
def Dev.unreleased (d : Dev) (r : Nat) : List PageSide := d.pages.filter (fun p => p.ring = r && !p.released)

/-- Release the groups at the head of a ring, in PAGE_SEQ order (R24); none while bus mastering is off (R343). -/
def Dev.releaseRing : Nat → Dev → Nat → Dev
  | 0, d, _ => d
  | fuel + 1, d, r =>
    match d.pages.find? (fun p => p.ring = r && !p.released) with
    | some p =>
      match p.group with
      | some bs =>
        if d.busOn ∧ d.on? (dkey (0x4030 + r) 11) then
          ((d.leaveRing p).writeGroup r bs).releaseRing fuel r
        else d
      | none => d
    | none => d

/-- Take the 72-byte reserve of a page side as soon as the space is free (R356). -/
def Dev.takeReserve (d : Dev) (p : PageSide) : Dev :=
  if p.reserve = 0 ∧ p.group.isNone ∧ !p.released ∧ d.ringFree p.ring ≥ 72 then
    d.updPage p.ring p.seq (fun q => { q with reserve := 72 })
  else d

/-- More than 300 ms after its start point, because of a wait for ring space (R25)? -/
def PageSide.isLate (p : PageSide) (now : Nat) : Bool :=
  p.waited && (match p.startPoint with | some t => now > t + 300000000 | none => false)

/-- What a page side holds for its reading goes with the commit of its records (R9, Table 14-3); a page side still in
the transport keeps its raw page buffer until its trailing edge. -/
def PageSide.dropBuffers (p : PageSide) : PageSide :=
  { p with rawBytes := if p.edgeTime.isSome then 0 else p.rawBytes, textHeld := 0, crops := [], boxList := [], boxArea := none,
           layoutArea := none, reading := [] }

/-- Write the bare group of a page side whose reserve is held (R292). -/
def Dev.writeBare (d : Dev) (p : PageSide) : Dev :=
  match d.page? p.ring p.seq with
  | some q =>
    if q.bare.isSome ∧ q.group.isNone ∧ !q.released ∧ q.reserve ≥ 72 then
      let q' := { q with late := q.isLate d.now, reserve := 72 }
      let d := d.updPage p.ring p.seq (fun _ => { q' with group := some (groupBytes q' d.now) }.dropBuffers)
      if 0x0330 ≤ q.status ∧ q.status ≤ 0x0333 then d.bump 0x2100_07 else d
    else d
  | none => d

/-- Rings settle: reserves taken in page order, bare groups written, groups released. -/
def Dev.settleRings (d : Dev) : Dev :=
  let d := d.each d.pages Dev.takeReserve
  let d := d.each d.pages Dev.writeBare
  (List.range 16).foldl (fun d r => d.releaseRing (d.pages.length + 1) r) d

/-- Give a page side a bare group with a status (R292, R293, R295): it is written once its reserve is held. -/
def Dev.bareGroup (d : Dev) (ring seq status : Nat) : Dev :=
  match d.page? ring seq with
  | some p =>
    if p.group.isNone ∧ p.bare.isNone then
      let d := d.updPage ring seq (fun q => { q with bare := some status })
      let d := if 0x0330 ≤ status ∧ status ≤ 0x0333 then d.emergency status clsOutcome 0 else d
      d.settleRings
    else d
  | none => d

/-- The edge of a page side has come (R12): start points follow. One whose records are committed gives up its raw page
buffer (R9), and those already released are forgotten once they have their start points. -/
def Dev.passEdge (d : Dev) (ring seq : Nat) : Dev :=
  let d := d.updPage ring seq (fun p =>
    { p with edgeTime := some (p.edgeTime.getD d.now), rawBytes := if p.group.isSome || p.released then 0 else p.rawBytes })
  (d.setStartPoints ring).forgetPages ring (fun p => p.released && p.startPoint.isSome)

end Sys2Proof.Machine
end

