-- ==== Sys2Proof/Machine/Faults.lean ====
section
/-! DEFINITION. Faults (R287 to R295): what each event is charged to, lasting decisions and their effects, the stop of
reading, and a forme's fault. -/

namespace Sys2Proof.Machine

/-- 2120h holds the last charged event or decision. -/
def Dev.recordFault (d : Dev) (status cls src : Nat) : Dev :=
  (((d.wr 0x2120_01 status).wr 0x2120_02 cls).wr 0x2120_03 src).wr 0x2120_04 d.now

/-- No forme is admitted any more, and those in flight are abandoned and counted (R295); the prepared batch queue holds no
entry for them (R261). -/
def Dev.abandonAll (d : Dev) : Dev :=
  let n := (d.formes.filter (fun f => f.admitted && f.kind < 10 && f.kind ≠ 7)).length
  let d := d.bumpBy 0x2100_05 n
  { d with formes := [], batch := { d.batch with queue := [], reserved := [] } }

/-- FI_FORCE of every line-coupled axis becomes 1 (R295). -/
def Dev.forceInhibit (d : Dev) : Dev :=
  (List.range 4).foldl (fun d n =>
    if d.rd (dkey (0x3400 + 0x100 * n) 1) = 1 then d.wr (dkey (0x3404 + 0x100 * n) 1) 1 else d) d

/-- A bare group for every page side without records (R295). -/
def Dev.bareAll (d : Dev) : Dev := d.each d.pages (fun d p => d.bareGroup p.ring p.seq 0x0333)

/-- At a run's end AUTO_PUBLISH 1 makes publication pending (R278). -/
def Dev.autoPublish (d : Dev) : Dev := if d.on? 0x3E10_09 then d.wr 0x3E12_06 1 else d

/-- An adaptation run ends with RUN 0 and RUN_STATE 0. -/
def Dev.endRun (d : Dev) : Dev :=
  if d.rd 0x3E12_02 = 1 ∨ d.rd 0x3E12_02 = 2 then ((d.wr 0x3E12_01 0).wr 0x3E12_02 0).autoPublish else d

/-- A stop of reading ends an adaptation run: one whose step is abandoned in flight with RUN_STATE 4 and 0330h (R292). -/
def Dev.stopRun (d : Dev) : Dev :=
  let flying := d.formes.any (fun f => f.kind = 9 && f.admitted)
  if flying then (((d.wr 0x3E12_01 0).wr 0x3E12_02 4).wr 0x3E13_05 0x0330).autoPublish.emergency 0x0330 clsOutcome 0 else d.endRun

/-- What a stop of reading does once (R295). -/
def Dev.stopReadingNow (d : Dev) : Dev :=
  (({ d with readingStopped := true }.stopRun.abandonAll.bareAll.forceInhibit).setReady 3 false).bump 0x2100_08

/-- Reading stops (R295). Channels pass back at their next gap and FIx asserts at the next page gap from the flag
and FI_FORCE. -/
def Dev.stopReading (d : Dev) : Dev := if d.readingStopped then d else d.stopReadingNow

/-- A compute die's lasting decision leaves it out (R122 to R124, R294). -/
def Dev.leaveOut (d : Dev) (die : Nat) : Dev :=
  if d.rd 0x2504_02 = die + 1 ∨ d.plate.pendingDie = some die then d
  else if d.rd 0x2504_02 ≠ 0 ∨ d.plate.pendingDie.isSome then d.stopReading
  else if d.stage = 3 then { d with plate := { d.plate with pendingDie := some die } }
  else d.wr 0x2504_02 (die + 1)

/-- A decision taken: recorded, reported (R294). -/
def Dev.takeDecision (d : Dev) (cls src : Nat) : Dev :=
  let d := { d with lasting := setAdd (srcKey cls src) d.lasting }
  let d := if cls = 1 then d else d.wr (dkey (0x2110 + cls) 4) (setBit (d.rd (dkey (0x2110 + cls) 4)) src true)
  (d.recordFault 0x0334 cls src).emergency 0x0334 clsLasting src

/-- Take a lasting decision for a source other than a plate, with its effect (Table 14-8). -/
def Dev.lastingUnit (d : Dev) (cls src : Nat) : Dev :=
  if d.isLasting cls src then d else
  let d := d.takeDecision cls src
  match cls with
  | 0 => d.leaveOut src
  | 2 => d.setReady (4 + src) false
  | 3 =>
    if src = 2 ∨ src = 3 then
      let d := d.setReady (33 + src) false
      if d.isLasting 3 (5 - src) then d.stopReading
      else { d with formes := updIf (fun f => f.kind = 2) (fun f => { f with unit := 3 - src }) d.formes }
    else d.stopReading
  | _ => d.stopReading

/-- A plate's lasting decision (R125): a die fault when all its events arose on one die, else CONTRACT_SUSPECT. -/
def Dev.lastingPlate (d : Dev) (plate : Nat) (dies : List Nat) : Dev :=
  if d.isLasting 1 plate then d else
  let d := (d.takeDecision 1 plate).bump 0x2505_03
  match dies with
  | [] => d
  | x :: r =>
    if r.all (· = x) then d.lastingUnit 0 x
    else ((d.wr 0x2505_01 1).wr 0x2505_02 plate).event 0x0319 0

/-- Event times of a source inside the window that ends now (R287). -/
def Dev.inWindow (d : Dev) (cls : Nat) (ts : List Nat) : List Nat :=
  ts.filter (fun t => d.now ≤ t + d.rd (dkey (0x2110 + cls) 2) * 1000000)

/-- Charge one event to a source (R287): counted, a restart recorded in 2120h (Table 14-5; status 0 is a replay), and a
lasting decision at THRESHOLD. die is where a plate's event arose. -/
def Dev.charge (d : Dev) (status cls src : Nat) (die : Nat := 0) : Dev :=
  let k := srcKey cls src
  let ts := (d.now :: kvGet [] d.faults k).take 255
  let d := { d with faults := kvPut [] d.faults k ts }
  let d := (d.bump (dkey (0x2110 + cls) 3)).wr (dkey (0x2110 + cls) 5) src
  let d := if status = 0 ∨ (0x0202 ≤ status ∧ status ≤ 0x0204) then d else d.recordFault status cls src
  let n := (d.inWindow cls ts).length
  let dies := ((d.now, die) :: kvGet [] d.plateDies src).take 255
  let d := if cls = 1 then { d with plateDies := kvPut [] d.plateDies src dies } else d
  if n ≥ d.rd (dkey (0x2110 + cls) 1) then
    (if cls = 1 then d.lastingPlate src ((dies.take n).map (·.2)) else d.lastingUnit cls src)
  else d

/-! ## Formes -/

def Dev.forme? (d : Dev) (id : Nat) : Option Forme := d.formes.find? (fun f => f.id = id)

def Dev.updForme (d : Dev) (id : Nat) (f : Forme → Forme) : Dev := { d with formes := updIf (fun x => x.id = id) f d.formes }

/-- A fault is recorded against a forme (R291): it can no longer commit. Only the first fault of an attempt gives it
its place among the restarted formes. -/
def Dev.faultForme (d : Dev) (id status : Nat) : Dev :=
  match d.forme? id with
  | none => d
  | some f =>
    let d := d.wr 0x2120_05 id
    if f.fault = 0 then
      { d.updForme id (fun f => { f with fault := status, retry := some d.nextRetry }) with nextRetry := d.nextRetry + 1 }
    else d

/-- Each page side a forme serves counts a restart (R10). -/
def Dev.countRestart (d : Dev) (f : Forme) : Dev :=
  let d := d.bump 0x2100_04
  d.each f.pages (fun d p => d.updPage p.1 p.2 (fun q => { q with restarts := (q.restarts + 1) % 256 }))

/-- A forme joins its queue (Table 1-1). -/
def Dev.enqueue (d : Dev) (f : Forme) : Dev :=
  { d with formes := d.formes ++ [{ f with id := d.nextForme }], nextForme := (d.nextForme + 1) % 2 ^ 32 }

def Forme.blank (kind : Nat) : Forme :=
  { id := 0, kind := kind, attempt := 0, faults := 0, pages := [], seqs := [], items := 0, band := 0, seed := 0,
    step := 0, entryTime := 0, retry := none, admitted := false, group := none, framesLeft := 0, fault := 0,
    waited := false, unit := 0, deskew := false, fill := 0, ran := false, ref := 0, only := none, readBatch := 0, slots := [],
    area := none }

end Sys2Proof.Machine
end

