-- ==== Sys2Proof/Machine/Galley.lean ====
section
/-! DEFINITION. Galley memory (R87 to R107): the two views, masked writes and poison, detections, gating, and writes
and reads of ranges. -/

namespace Sys2Proof.Machine

/-- Bank and row of a die offset in the unified view (R87). -/
def unifiedBank (off : Nat) : Nat × Nat :=
  let w := bits off 18 6
  (8 * bits off 24 19 + (w % 8 ^^^ w / 8 % 8), w / 8)

/-- Bank and row of a die offset in the tiered view (R88). -/
def tieredBank (off : Nat) : Nat × Nat := (bits off 24 16, bits off 15 6)

/-- Physical bank and row of a galley address in the view in force on its die (R89). -/
def Dev.bankRow (d : Dev) (a : Nat) : Nat × Nat :=
  if a / dieBytes ∈ d.plate.unified then unifiedBank (a % dieBytes) else tieredBank (a % dieBytes)

/-- Physical word address that the check code covers (R94). -/
def Dev.physWord (d : Dev) (a : Nat) : Nat := a / dieBytes * 2 ^ 19 + (d.bankRow a).1 * 2 ^ 10 + (d.bankRow a).2

/-- One bit step of the reflected CRC-32C (R94). -/
def crcBit (c : Nat) : Nat := if c % 2 = 1 then c / 2 ^^^ 0x82F63B78 else c / 2

/-- One byte into the CRC. -/
def crcByte (c : Nat) (b : Byte) : Nat := (List.range 8).foldl (fun c _ => crcBit c) (c ^^^ b.toNat)

/-- CRC-32C (R94): reflected 82F63B78h, initial value and final exclusive-or FFFF_FFFFh. -/
def crc32c (bs : List Byte) : Nat := bs.foldl crcByte 0xFFFFFFFF ^^^ 0xFFFFFFFF

/-- Check bits of a galley word as its bank controller forms them (R94). -/
def Dev.checkBits (d : Dev) (a : Nat) : Nat := crc32c (memBytes d.mem a 64 ++ leBytes 4 (d.physWord a))

/-- Is the bank that holds the word gated? -/
def Dev.gatedAt (d : Dev) (a : Nat) : Bool := inGalley a && (512 * (a / dieBytes) + (d.bankRow a).1) ∈ d.plate.gated

/-- Is a compute die's galley reachable: does the imposition in force not leave the die out (R44)? -/
def Dev.dieIn (d : Dev) (a : Nat) : Bool := !(inGalley a && d.stage = 3 && d.rd 0x2504_02 = a / dieBytes + 1)

/-- Is the word's stored check wrong (poisoned, R90, R93)? -/
def Dev.isPoisoned (d : Dev) (a : Nat) : Bool := a / 64 ∈ d.poisoned

/-- Words that n bytes from an address touch, as word numbers. -/
def wordsOf (a n : Nat) : List Nat := if n = 0 then [] else (List.range ((a + n - 1) / 64 + 1 - a / 64)).map (· + a / 64)

/-- The hub unit that owns a hub SRAM word (Table 14-6): the slug manager in HD1's SRAM, which holds its tables; in HD0's
the Text Unit, whose frisket and candidate areas lie there and which owns all of it in the model (DESIGN CHOICE, log entry
129). -/
def hubOwner (a : Nat) : Nat := if 0x1200_0000 ≤ a then 4 else 1

/-- A detection (R96): counted and recorded; one event towards the lasting decision until the word is next written
or restored. source is LAST_DET_SOURCE (R108). -/
def Dev.detection (d : Dev) (a source : Nat) : Dev :=
  let first := a / 64 ∉ d.counted
  let d := { d with counted := setAdd (a / 64) d.counted }
  if inGalley a then
    let die := a / dieBytes
    let d := ((((d.bump (dkey 0x2304 (die + 1))).wr 0x2305_01 die).wr 0x2305_02 (d.bankRow a).1).wr 0x2305_03
      (d.bankRow a).2).wr 0x2305_04 source
    let d := d.wr 0x2305_05 d.now
    if first then d.charge 0 0 die else d
  else if first then d.charge 0 3 (hubOwner a) else d

/-- A word is written or restored whole: its check bits are right again. -/
def Dev.cleanWord (d : Dev) (w : Nat) : Dev :=
  { d with poisoned := d.poisoned.filter (· ≠ w), counted := d.counted.filter (· ≠ w) }

/-- A word takes poisoned check bits. -/
def Dev.poisonWord (d : Dev) (w : Nat) : Dev :=
  { d with poisoned := setAdd w d.poisoned, counted := d.counted.filter (· ≠ w) }

/-- Does a write of n bytes from a cover the word whole? -/
def covers (a n w : Nat) : Bool := a ≤ w * 64 && w * 64 + 64 ≤ a + n

/-- A written word's next detection counts anew (R96). -/
def Dev.uncount (d : Dev) (w : Nat) : Dev := { d with counted := d.counted.filter (· ≠ w) }

/-- The merge of a masked write into one galley word (R90): where the old word's check fails the merged word is
poisoned and counted. -/
def Dev.mergeWord (d : Dev) (a n w : Nat) : Dev :=
  if covers a n w then d.cleanWord w
  else if w ∈ d.poisoned then ((d.detection (w * 64) 3).bump 0x2306_04).poisonWord w
  else d.uncount w

/-- Write bytes to local space, masked writes merging at the bank (R90). -/
def Dev.put (d : Dev) (a : Nat) (bs : List Byte) : Dev :=
  (d.each (wordsOf a bs.length) (fun d w => d.mergeWord a bs.length w)).poke a bs

/-- An image comes into DDR5 in whole words, each with check bits of its own. -/
def Dev.putImage (d : Dev) (a : Nat) (bs : List Byte) : Dev := (d.each (wordsOf a bs.length) Dev.cleanWord).poke a bs

/-- Write one whole word. -/
def Dev.putWord (d : Dev) (a w : Nat) : Dev := d.put a (leBytes 64 w)

/-- Zero a range with valid check bits (R89, R104). -/
def Dev.zeroRange (d : Dev) (a n : Nat) : Dev :=
  { d with mem := d.mem.filter (fun c => !(a ≤ c.1 && c.1 < a + n)),
           poisoned := d.poisoned.filter (fun w => !(a ≤ w * 64 && w * 64 < a + n)),
           counted := d.counted.filter (fun w => !(a ≤ w * 64 && w * 64 < a + n)) }

/-- Every galley word of a die filled with zero (R89). -/
def Dev.zeroDie (d : Dev) (die : Nat) : Dev := d.zeroRange (die * dieBytes) dieBytes

/-! ## Layout of DDR5 (R369, Table 18-1) -/

/-- Sizes in MiB of the fixed regions, in the order of Table 18-1: 0 spill, 1-2 plate set areas, 3-10 fount slots,
11-42 grammar slots, 43 text pool, 44 adaptation area, 45 sealed slug pool, 46 load staging. A layout that is fixed keeps its sizes to the next reset. -/
def Dev.layoutMib (d : Dev) : List Nat :=
  if d.start.layout ≠ [] then d.start.layout else
  [d.rdp 0x4101_01, d.rdp 0x4101_02, d.rdp 0x4101_02] ++ List.replicate 8 (d.rdp 0x4101_03) ++
    List.replicate 32 (d.rdp 0x4101_04) ++ [d.rdp 0x4101_05, d.rdp 0x4101_06, d.rdp 0x4101_07, 64]

/-- Local address at which a region of the layout begins; region 47 is the raw page pool. -/
def Dev.layoutBase (d : Dev) (i : Nat) : Nat := ddrBase + 2 ^ 20 * (d.layoutMib.take i).sum

/-- Bytes of a region of the layout. -/
def Dev.layoutBytes (d : Dev) (i : Nat) : Nat := 2 ^ 20 * d.layoutMib.getD i 0

/-! ## The plate set in force -/

/-- The area of the active plate set. -/
def Dev.activeArea (d : Dev) : Option Nat :=
  if d.rd 0x2501_02 = 3 then some 0 else if d.rd 0x2502_02 = 3 then some 1 else none

/-- The active plate set. -/
def Dev.activeSet (d : Dev) : Option PlateSetIn :=
  d.activeArea.bind (fun a => (d.plate.areas.find? (fun e => e.1 = a)).map (·.2))

/-- An imposition of a plate set by its number (R114). -/
def impositionOf (ps : PlateSetIn) (i : Nat) : Option ImpositionSeg := ps.impositions.find? (fun x => x.number = i)

/-- The imposition in force. -/
def Dev.imposition (d : Dev) : Option ImpositionSeg := d.activeSet.bind (fun ps => impositionOf ps (d.rd 0x2504_01))

/-- Scoreboard slot n of the imposition in force (Table 6-10). -/
def Dev.sbSlot (d : Dev) (n : Nat) : Option SbSlot := d.imposition.bind (fun i => i.sbSlots.find? (fun s => s.slot = n))

/-- Slot list of a core in the imposition in force. -/
def Dev.slotList (d : Dev) (c : Nat) : List SlotEntry :=
  match d.imposition with
  | some i => kvGet [] i.slots c
  | none => []

/-- Does a word lie in a restorable segment of the active set (R95)? -/
def Dev.restorable (d : Dev) (a : Nat) : Bool :=
  match d.activeSet with
  | some ps => ps.restorable.any (fun r => r.1 ≤ a && a < r.1 + r.2)
  | none => false

/-- Where the active set's DDR5 image of a galley word lies (R95, R119). -/
def Dev.imagePlace (d : Dev) (w : Nat) : Option Nat :=
  match d.activeArea, d.activeSet with
  | some a, some ps =>
    ((ps.images.zip ps.imageOffs).find? (fun i => i.1.1 ≤ w * 64 && w * 64 + 64 ≤ i.1.1 + i.1.2.length)).map (fun i =>
      d.layoutBase (1 + a) + i.2 + (w * 64 - i.1.1))
  | _, _ => none

/-- The populated channels (4100h:02). -/
def Dev.populated (d : Dev) : List Nat := (List.range 8).filter (fun x => bit (d.rd 0x4100_02) x)

/-- Channel that holds a DDR5 word (R368). -/
def Dev.ddrChannel (d : Dev) (addr : Nat) : Nat :=
  let w := (addr - ddrBase) / 64
  let c := (bits w 3 1 ^^^ bits w 14 12 ^^^ bits w 25 23) % max 1 d.populated.length
  d.populated.getD c 0

/-- LAST_ERR_CHANNEL of a DDR5 word: its channel, and its subchannel in bit 3 (R368, R375). -/
def Dev.ddrPlace (d : Dev) (addr : Nat) : Nat := d.ddrChannel addr + 8 * (addr / 64 % 2)

/-- Index of a DDR5 word within its subchannel (R368). -/
def Dev.ddrIndex (d : Dev) (addr : Nat) : Nat := (addr - ddrBase) / 64 / (2 * max 1 d.populated.length)

/-- The last-error entries of a DDR5 read: 0 corrected, 1 uncorrectable, 2 poison (R375). -/
def Dev.ddrError (d : Dev) (addr kind : Nat) : Dev :=
  (((d.wr 0x4107_01 (d.ddrPlace addr)).wr 0x4107_02 addr).wr 0x4107_03 d.now).wr 0x4107_04 kind

/-- A DDR5 word that the code corrected on its way is counted (R365). -/
def Dev.ddrCorrected (d : Dev) (addr : Nat) : Dev := (d.bump (dkey 0x4105 (d.ddrChannel addr + 1))).ddrError addr 0

/-- An uncorrectable DDR5 word: counted, recorded and charged to its channel, with the status of the restart it causes, 0 for
none (R367, R374). -/
def Dev.ddrUncorrectable (d : Dev) (status addr : Nat) : Dev :=
  ((d.bump (dkey 0x4106 (d.ddrChannel addr + 1))).ddrError addr 1).charge status 4 (d.ddrChannel addr)

/-- A read of a DDR5 word that the part stored as poisoned: counted, and charged to no channel (R366). -/
def Dev.ddrPoison (d : Dev) (addr : Nat) : Dev := (d.bump 0x4107_05).ddrError addr 2

/-- What a unit's read of DDR5 words met is counted, recorded and charged (R365, R367). -/
def Dev.ddrMet (d : Dev) (r : DdrIn) : Dev :=
  let d := d.each r.corrected Dev.ddrCorrected
  match r.uncorrectable with
  | some a => d.ddrUncorrectable 0 a
  | none => d

/-- Rewrite a restorable word from its DDR5 image (R95); with an image that cannot be read the word stays (R366, R367). -/
def Dev.restoreWord (d : Dev) (w : Nat) : Dev :=
  match d.imagePlace w with
  | some p =>
    match (wordsOf p 64).find? (fun v => v ∈ d.poisoned) with
    | some v => d.ddrPoison (v * 64)
    | none => ((d.poke (w * 64) (memBytes d.mem p 64)).cleanWord w).bump 0x2306_05
  | none => d

/-- Group use class of a galley address in the imposition in force (Table 5-6). -/
def Dev.groupUse (d : Dev) (die g : Nat) : Nat :=
  match d.imposition with
  | some i => i.groupUse.getD (64 * die + g) 0
  | none => 0

end Sys2Proof.Machine
end

