-- ==== Sys2Proof/Machine/Sequencer.lean ====
section
/-! DEFINITION. The core's sequencer and scoreboard (R46 to R49, R59 to R64): issue, results in flight, loops, replay
points, epochs and tags. -/

namespace Sys2Proof.Machine

/-! ## Registers of a core -/

def zeroLanes : List F32 := List.replicate 64 0#32

def CoreSt.vreg (x : CoreSt) (r : Nat) : List F32 := kvGet zeroLanes x.vregs r

def CoreSt.setVreg (x : CoreSt) (r : Nat) (v : List F32) : CoreSt := { x with vregs := kvPut zeroLanes x.vregs r v }

def CoreSt.accRow (x : CoreSt) (r : Nat) : List F32 := kvGet zeroLanes x.acc r

def CoreSt.setAcc (x : CoreSt) (r : Nat) (v : List F32) : CoreSt := { x with acc := kvPut zeroLanes x.acc r v }

def SbEntry.init : SbEntry := ⟨0, none, none, []⟩

def CoreSt.sbEntry (x : CoreSt) (n : Nat) : SbEntry := kvGet SbEntry.init x.sb n

def CoreSt.setSb (x : CoreSt) (n : Nat) (e : SbEntry) : CoreSt := { x with sb := kvPut SbEntry.init x.sb n e }

/-- Landing latency L of the frequency point in force (Table 3-2). -/
def Dev.landing (d : Dev) : Nat :=
  match d.rd 0x2201_02 with
  | 0 => 20
  | 1 => 16
  | _ => 13

/-! ## The stationary tile and the multiplier (R50, R66 to R73) -/

/-- Element (k, n) of a tile with its column scale (R66 to R68). -/
def Tile.elem (t : Tile) (k n : Nat) : Num :=
  let word := match t.fmt with
    | 0 => 2 * k + n / 32
    | 4 => k / 2
    | _ => k
  let i := match t.fmt with
    | 0 => n % 32
    | 4 => k % 2 * 64 + n
    | _ => n
  expandCode t.fmt (elemAt t.fmt (kvGet 0 t.words word) i) (toSigned 8 (bits t.scale (8 * n + 7) (8 * n))) 0

/-- Column n of a tile. -/
def Tile.column (t : Tile) (n : Nat) : List Num := (List.range 32).map (fun k => t.elem k n)

/-- Scale code and zero point of stream scale table entry i (bytes 2i and 2i + 1). -/
def streamEntry (table i : Nat) : Int × Int :=
  (toSigned 8 (bits table (16 * i + 7) (16 * i)), toSigned 8 (bits table (16 * i + 15) (16 * i + 8)))

/-- Bytes of a streamed row of 32 values (R66). -/
def rowBytes (fmt : Nat) : Nat := match fmt with | 0 => 64 | 4 => 16 | _ => 32

/-- The 32 values of a streamed row (R66, R68, R70). -/
def streamRow (fmt raw : Nat) (ez : Int × Int) : List Num :=
  (List.range 32).map (fun k => expandCode fmt (elemAt fmt raw k) ez.1 ez.2)

/-- The 64 sums t_n of a landed row against the active tile (R50). -/
def CoreSt.products (x : CoreSt) (fmt sidx raw : Nat) : List F32 :=
  let a := streamRow fmt raw (streamEntry x.streamTable sidx)
  (List.range 64).map (fun n => dotColumn a (x.active.column n))

/-! ## Results in flight -/

/-- Order within a cycle (R49, R200). -/
def CoreAct.phase : CoreAct → Nat
  | .vreg _ _ => 0
  | .acc _ _ _ => 0
  | .tileWord _ _ _ => 1
  | .tileScale _ => 1
  | .mulRow _ _ _ _ _ => 2
  | .swap => 3
  | .shift _ _ _ => 4
  | .winWord _ _ _ => 5

/-- The destination of a result that R49 guards: vector register, accumulator row, tile buffer word. -/
def CoreAct.dest : CoreAct → Option (Nat × Nat)
  | .vreg r _ => some (0, r)
  | .acc row _ _ => some (1, row)
  | .tileWord _ w _ => some (2, w)
  | .tileScale _ => some (3, 0)
  | .swap => some (4, 0)
  | _ => none

/-- Insert an event in order of cycle and phase, after those of equal order. -/
def insertEv (e : CoreEv) : List CoreEv → List CoreEv
  | [] => [e]
  | f :: r => if e.cycle < f.cycle ∨ (e.cycle = f.cycle ∧ e.phase < f.phase) then e :: f :: r else f :: insertEv e r

/-- Another result due to the same destination in the same cycle (R49). -/
def twinOf (e : CoreEv) (r : List CoreEv) : Option CoreEv :=
  if e.act.dest.isSome then r.find? (fun f => f.cycle = e.cycle && f.act.dest == e.act.dest) else none

/-- Put a result of a bundle in flight. -/
def CoreSt.fly (x : CoreSt) (cycle bundle : Nat) (act : CoreAct) : CoreSt :=
  { x with inFlight := insertEv ⟨cycle, act.phase, bundle, act⟩ x.inFlight }

/-- SHIFT (R201): position (y, x) of the active window takes what (y, x + s) held. -/
def shiftWindow (h w s : Nat) (win : Kv Nat) : Kv Nat :=
  (List.range h).foldl (fun acc y =>
    (List.range (w - s)).foldl (fun acc x => kvPut 0 acc (16 * y + x) (kvGet 0 win (16 * y + x + s))) acc) win

/-- One result of a bundle takes effect in its cycle; a streamed row multiplies and puts its sums in flight, 10 cycles
on, unless its scale entry is outside Table 4-2 (R72). -/
def CoreSt.apply (x : CoreSt) (cycle bundle : Nat) : CoreAct → CoreSt × Nat
  | .vreg r l => (x.setVreg r l, 0)
  | .acc row init t => (x.setAcc row (if init then t else List.zipWith fadd (x.accRow row) t), 0)
  | .tileWord fmt w raw => ({ x with shadow := { x.shadow with fmt := fmt, words := kvPut 0 x.shadow.words w raw } }, 0)
  | .tileScale raw => ({ x with shadow := { x.shadow with scale := raw } }, 0)
  | .mulRow row init fmt sidx raw =>
    let ez := streamEntry x.streamTable sidx
    if scaleValid fmt ez.1 ez.2 then (x.fly (cycle + 10) bundle (.acc row init (x.products fmt sidx raw)), 0)
    else ({ x with bundle := bundle }, 0x0311)
  | .swap => ({ x with active := x.shadow, shadow := x.active }, 0)
  | .shift h w s => ({ x with window := shiftWindow h w s x.window }, 0)
  | .winWord y c raw => ({ x with window := kvPut 0 x.window (16 * y + c) raw }, 0)

/-- Let everything happen that is due before (cycle, phase); the status that stopped the core on the way, or 0. Two results
due to one destination in one cycle stop it in that cycle with 0304h (R49), reported with the bundle of the later one. -/
def CoreSt.advance : Nat → CoreSt → Nat → Nat → CoreSt × Nat
  | 0, x, _, _ => (x, 0)
  | fuel + 1, x, cycle, phase =>
    match x.inFlight with
    | [] => (x, 0)
    | e :: r =>
      if e.cycle < cycle ∨ (e.cycle = cycle ∧ e.phase < phase) then
        match twinOf e r with
        | some f => ({ x with bundle := f.bundle }, 0x0304)
        | none =>
          let y := ({ x with inFlight := r }).apply e.cycle e.bundle e.act
          if y.2 = 0 then CoreSt.advance fuel y.1 cycle phase else y
      else (x, 0)

/-- What an operation issued in a cycle sees: every result due by then (R46), no landing of the same cycle (R200). -/
def CoreSt.until_ (x : CoreSt) (cycle : Nat) : CoreSt × Nat := x.advance (2 * x.inFlight.length + 2) cycle 1

/-- What a landing finds: every result due before its cycle. Those due in that very cycle are still in flight (R48, R61;
DESIGN CHOICE, log entry 160). -/
def CoreSt.before_ (x : CoreSt) (cycle : Nat) : CoreSt × Nat := x.advance (2 * x.inFlight.length + 2) cycle 0

/-- The 64 lanes of a register with word k of a LOAD in its place. -/
def loadLanes (lanes : List F32) (k raw : Nat) : List F32 :=
  lanes.take (16 * k) ++ (List.range 16).map (fun i => BitVec.ofNat 32 (bits raw (32 * i + 31) (32 * i))) ++ lanes.drop (16 * k + 16)

/-- Word k of a LOAD is read: the register that is in flight takes it. -/
def CoreSt.loadWord (x : CoreSt) (l : VLoad) (k raw : Nat) : CoreSt :=
  { x with inFlight := x.inFlight.map (fun e =>
      match e.act with
      | .vreg r lanes => if e.cycle = l.due ∧ r = l.reg then { e with act := .vreg r (loadLanes lanes k raw) } else e
      | _ => e) }

/-- A LOAD reads the words that are due by a cycle, one a cycle (R47). -/
def CoreSt.loadTo (rd : Nat → Nat) (cycle : Nat) (x : CoreSt) (l : VLoad) : CoreSt :=
  ((List.range 4).filter (fun k => l.done ≤ k && l.start + k ≤ cycle)).foldl (fun x k => x.loadWord l k (rd (l.addr + 64 * k))) x

/-- Every LOAD under way reads the words that are due by a cycle. -/
def CoreSt.catchUp (rd : Nat → Nat) (x : CoreSt) (cycle : Nat) : CoreSt :=
  if x.loads = [] then x
  else
    let y := x.loads.foldl (CoreSt.loadTo rd cycle) x
    { y with loads := (x.loads.filter (fun l => cycle < l.start + 3)).map (fun l => { l with done := cycle + 1 - l.start }) }

/-- Everything in flight takes effect. -/
def CoreSt.flush (x : CoreSt) : CoreSt × Nat :=
  x.advance (2 * x.inFlight.length + 2) (x.inFlight.foldl (fun m e => max m e.cycle) 0 + 32) 0

/-! ## Stopping a core -/

/-- 2402h holds a violation with its plate and bundle (R65, R72). A scoreboard violation names its slot. -/
def Dev.lastViolation (d : Dev) (c plate bundle status : Nat) (slot : Option Nat) : Dev :=
  let d := ((((d.wr 0x2402_01 status).wr 0x2402_02 c).wr 0x2402_03 plate).wr 0x2402_04 bundle).wr 0x2402_05 d.now
  match slot with
  | some n => (d.wr 0x2402_06 n).wr 0x2402_07 1
  | none => (d.wr 0x2402_06 0).wr 0x2402_07 0

/-- VIOLATIONS_CORE counts 0302h to 0308h and 2402h shows them (R65); 0311h is reported there too (R72). Other statuses are
no violations. -/
def Dev.recordViolation (d : Dev) (c : Fin 96) (x : CoreSt) (status : Nat) (slot : Option Nat) : Dev :=
  if 0x0302 ≤ status ∧ status ≤ 0x0308 then
    (d.bump (dkey 0x2401 (c.val + 1))).lastViolation c.val x.plate x.bundle status slot
  else if status = 0x0311 then d.lastViolation c.val x.plate x.bundle status slot
  else d

/-- Counters that single statuses have of their own. -/
def Dev.countStop (d : Dev) (status : Nat) : Dev :=
  if status = 0x0311 then d.bump 0x2440_01
  else if status = 0x0309 then d.bump 0x2404_02
  else if status = 0x0401 then d.bump 0x2306_01
  else d

/-- The source a core's restart status is charged to (Table 14-6): the die for 0308h and 0309h, else the plate. -/
def Dev.chargeCore (d : Dev) (c : Fin 96) (plate status : Nat) : Dev :=
  if status = 0x0308 ∨ status = 0x0309 then d.charge status 0 (coreDie c) else d.charge status 1 plate (coreDie c)

/-- What a core has in flight is discarded, descriptors on their way among it, with the tags of their launches; a
transfer under way goes on (R57). -/
def CoreSt.discard (x : CoreSt) : CoreSt :=
  let gone := (x.launches.filter (fun l => !l.moving)).map (·.tag)
  { x with inFlight := [], loads := [], launches := x.launches.filter (·.moving), tags := x.tags.filter (fun t => !gone.contains t.1) }

/-- The core stops issuing and discards what is in flight; its forme restarts with the status (R48, R49, R61, R62). -/
def Dev.stopCore (d : Dev) (c : Fin 96) (x : CoreSt) (status : Nat) (slot : Option Nat := none) : Dev :=
  let d := d.setCore c { x.discard with running := false, frozen := false, ended := false, stopped := status }
  ((((d.recordViolation c x status slot).countStop status).faultForme x.forme status).chargeCore c x.plate status)

/-- A core, its LOADs having read what is due by a cycle. -/
def Dev.coreAt (d : Dev) (c : Fin 96) (cycle : Nat) : CoreSt := (d.core c).catchUp d.word cycle

/-- A core reaches a slot cycle: results due by it take effect, by until_ or before_, and f follows unless one of them stops
the core. A core that is idle, stopped or frozen reaches none. -/
def Dev.reachBy (g : CoreSt → Nat → CoreSt × Nat) (d : Dev) (a : At) (f : Dev → CoreSt → Dev) : Dev :=
  let x := d.core a.core
  if x.running ∧ ¬x.frozen then
    let r := g (d.coreAt a.core a.cycle) a.cycle
    if r.2 = 0 then f d { r.1 with cycle := a.cycle, bundle := a.bundle }
    else d.stopCore a.core { r.1 with cycle := a.cycle } r.2
  else d

/-- A core reaches a slot cycle in which it issues. -/
def Dev.reach : Dev → At → (Dev → CoreSt → Dev) → Dev := Dev.reachBy CoreSt.until_

/-- Issue an operation on a running core, unless END has issued in its slot (R60). -/
def Dev.issue (d : Dev) (a : At) (f : Dev → CoreSt → Dev) : Dev := if (d.core a.core).ended then d else d.reach a f

/-- Put a result of an issued operation in flight. -/
def Dev.land (d : Dev) (a : At) (x : CoreSt) (cycle : Nat) (act : CoreAct) : Dev := d.setCore a.core (x.fly cycle a.bundle act)

/-! ## Sequencer operations -/

/-- LOOP_BEGIN (R59): COUNT 0 skips past the matching LOOP_END; otherwise the body begins at the next bundle. -/
def loopBegin (a : At) (level count endBundle : Nat) (d : Dev) : Dev :=
  d.issue a (fun d x => d.setCore a.core
    (if count = 0 then { x with bundle := endBundle + 1 }
     else { x with loops := kvInsert x.loops level ⟨count, a.bundle + 1⟩, bundle := a.bundle + 1 }))

/-- LOOP_END (R59): back to the body's start until the count is done. -/
def loopEnd (a : At) (level : Nat) (d : Dev) : Dev :=
  d.issue a (fun d x =>
    let l := kvGet ⟨0, 0⟩ x.loops level
    d.setCore a.core
      (if l.left > 1 then { x with loops := kvInsert x.loops level ⟨l.left - 1, l.start⟩, bundle := l.start }
       else { x with loops := kvErase x.loops level, bundle := a.bundle + 1 }))

/-- WAIT_CYCLE: no-ops until slot cycle COUNT. -/
def waitCycle (a : At) (count : Nat) (d : Dev) : Dev :=
  d.issue a (fun d x =>
    let r := (x.catchUp d.word count).until_ count
    if r.2 = 0 then d.setCore a.core { r.1 with cycle := max a.cycle count, bundle := a.bundle + 1 }
    else d.stopCore a.core r.1 r.2)

/-- END (R60): the core idles until the next slot start; what is in flight still lands, each word under R48 and R61. A
result in flight that will stop the core stops it here. -/
def endOp (a : At) (d : Dev) : Dev :=
  d.issue a (fun d x =>
    let r := x.flush
    if r.2 = 0 then d.setCore a.core { x with ended := true } else d.stopCore a.core r.1 r.2)

/-- A replay point saves the loop counters (R61). The one at which a replay begins is no next replay point: a detection
after it is still the second. -/
def replayPoint (a : At) (d : Dev) : Dev :=
  d.issue a (fun d x =>
    let again := x.replaying && a.bundle = x.replayBundle
    d.setCore a.core { x with replayLoops := x.loops, replayBundle := a.bundle, detected := x.detected && again, replaying := false })

/-- The saved counters return and issue begins again at the replay point (R61). -/
def replayCore (c : Fin 96) (d : Dev) : Dev :=
  let x := d.core c
  if x.running ∧ x.frozen then
    (d.setCore c { x with frozen := false, replaying := true, loops := x.replayLoops, bundle := x.replayBundle }).bump 0x2404_01
  else d

/-! ## Scoreboard (R62 to R64) -/

/-- EXPECT_FILL: every later read into the slot's range checks the epoch. -/
def expectFill (a : At) (slot epoch : Nat) (d : Dev) : Dev :=
  d.issue a (fun d x => d.setCore a.core (x.setSb slot { x.sbEntry slot with expectFill := some (epoch % 65536) }))

/-- EXPECT_DRAIN: every later write into the range needs all consumers' DRAINED of the epoch. -/
def expectDrain (a : At) (slot epoch : Nat) (d : Dev) : Dev :=
  d.issue a (fun d x => d.setCore a.core (x.setSb slot { x.sbEntry slot with expectDrain := some (epoch % 65536) }))

/-- RELEASE ends the fill-epoch checking of a slot. -/
def releaseSlot (a : At) (slot : Nat) (d : Dev) : Dev :=
  d.issue a (fun d x => d.setCore a.core (x.setSb slot { x.sbEntry slot with expectFill := none }))

/-- Change one core by number; numbers past 95 name no core. -/
def Dev.atCore (d : Dev) (n : Nat) (f : CoreSt → CoreSt) : Dev :=
  if h : n < 96 then d.setCore ⟨n, h⟩ (f (d.core ⟨n, h⟩)) else d

/-- Has an epoch been reached where the last one posted is t: epochs ascend by one, modulo 65,536, and none lies 32,768 or
more behind (R121)? -/
def reached (t epoch : Nat) : Bool := (t + 65536 - epoch % 65536) % 65536 < 32768

/-- The fill epoch of an entry after FILLED: one already reached has no further effect (R63). -/
def SbEntry.filled (e : SbEntry) (epoch : Nat) : SbEntry := if reached e.fill epoch then e else { e with fill := epoch % 65536 }

/-- A fill epoch reaches each consumer's entry (R63). -/
def Dev.publishFill (d : Dev) (slot epoch : Nat) : Dev :=
  match d.sbSlot slot with
  | some s => d.each s.consumers (fun d n => d.atCore n (fun x => x.setSb slot ((x.sbEntry slot).filled epoch)))
  | none => d

/-- Has a consumer posted DRAINED for an epoch (R62)? -/
def SbEntry.drainedBy (e : SbEntry) (consumer epoch : Nat) : Bool :=
  match e.drained.find? (fun p => p.1 = consumer) with
  | some p => reached p.2 epoch
  | none => false

/-- A consumer's DRAINED on its producer's entry: a repeated one has no further effect (R63). -/
def SbEntry.drain (e : SbEntry) (consumer epoch : Nat) : SbEntry :=
  if e.drainedBy consumer epoch then e else { e with drained := kvInsert e.drained consumer (epoch % 65536) }

/-- DRAINED (R63): recorded on the producer's entry for this consumer core. -/
def drained (a : At) (slot epoch : Nat) (d : Dev) : Dev :=
  d.issue a (fun d x =>
    let d := d.setCore a.core x
    match d.sbSlot slot with
    | some s => d.atCore s.producer (fun y => y.setSb slot ((y.sbEntry slot).drain a.core.val epoch))
    | none => d)

/-- Have all consumers drained the expected epoch? -/
def drainedBy (e : SbEntry) (epoch : Nat) (consumers : List Nat) : Bool :=
  consumers.all (fun c => e.drainedBy c epoch)

/-- The scoreboard slot whose EXPECT_DRAIN a write of n bytes breaks, if any (R62). -/
def Dev.undrained (d : Dev) (x : CoreSt) (addr n : Nat) : Option Nat :=
  (x.sb.find? (fun p =>
    match p.2.expectDrain, d.sbSlot p.1 with
    | some ep, some s => addr < s.base + s.size && s.base < addr + n && !drainedBy p.2 ep s.consumers
    | _, _ => false)).map (·.1)

/-- The scoreboard slot whose EXPECT_DRAIN one of several writes breaks. -/
def Dev.undrainedIn (d : Dev) (x : CoreSt) (writes : List (Nat × Nat)) : Option Nat :=
  writes.findSome? (fun w => if w.2 = 0 then none else d.undrained x w.1 w.2)

/-- The scoreboard slot whose EXPECT_FILL a read of n bytes breaks, if any (R62). -/
def Dev.unfilled (d : Dev) (x : CoreSt) (addr n : Nat) : Option Nat :=
  (x.sb.find? (fun p =>
    match p.2.expectFill, d.sbSlot p.1 with
    | some ep, some s => addr < s.base + s.size && s.base < addr + n && p.2.fill ≠ ep
    | _, _ => false)).map (·.1)

/-- Issue a galley read of n bytes: one into a slot whose fill epoch is not the expected one stops the core with 0305h
(R62). -/
def Dev.issueRead (d : Dev) (a : At) (addr n : Nat) (f : Dev → CoreSt → Dev) : Dev :=
  d.issue a (fun d x =>
    match d.unfilled x (galleyAddr a.core addr) n with
    | some k => d.stopCore a.core x 0x0305 (some k)
    | none => f d x)

/-- CHECK_TAG (R57): a transfer still running on the tag gives 0307h. -/
def checkTag (a : At) (tag : Nat) (d : Dev) : Dev :=
  d.issue a (fun d x => if x.tags.any (fun t => t.1 = tag) then d.stopCore a.core x 0x0307 else d.setCore a.core x)

end Sys2Proof.Machine
end

