-- ==== Sys2Proof/Machine/Operands.lean ====
section
/-! DEFINITION. Operand structures read from memory: data engine descriptors (Table 3-5) and the bundle's descriptor
fields. -/

namespace Sys2Proof.Machine

/-- A data engine descriptor (Table 3-5). -/
structure Desc where
  length : Nat
  dst : Nat
  src : Nat
  rows : Nat
  srcPitch : Nat
  dstPitch : Nat
  pubEpoch : Nat
  pubSlot : Nat
  publish : Bool
  transit : Bool
  fill : Bool
  deriving DecidableEq, Repr

/-- The fields of a descriptor word. -/
def descOf (w : Nat) : Desc :=
  { length := bits w 479 448, dst := bits w 351 320 + 2 ^ 32 * bits w 415 384,
    src := bits w 223 192 + 2 ^ 32 * bits w 287 256, rows := bits w 191 176, srcPitch := bits w 159 144,
    dstPitch := bits w 143 128, pubEpoch := bits w 127 112, pubSlot := bits w 111 103, publish := bit w 102,
    transit := bit w 101, fill := bit w 100 }

/-- Its five paired fields are well formed. -/
def descPairsOk (w : Nat) : Bool := pairsOk w [448, 384, 320, 256, 192]

/-- SPACE of a device address (Table 2-5). -/
def addrSpace (a : Nat) : Nat := bits a 63 62

/-- Bytes from the first to the last that one side of a transfer spans. -/
def spanOf (rows length pitch : Nat) : Nat := if rows = 0 ∨ length = 0 then 0 else (rows - 1) * pitch * 64 + length

/-- A fill (R92): FILL 1, or a copy of 64-byte rows with source pitch 0. -/
def Desc.isFill (x : Desc) : Bool := x.fill || (x.length = 64 && x.srcPitch = 0)

/-- Is a range legal for a transfer (R43)? Host and remote space are looked at by their own operations. -/
def Dev.localOk (d : Dev) (a n : Nat) : Bool := addrSpace a = 0 && d.rangeOk a n

/-- A descriptor word (Table 3-5). -/
def Desc.word (x : Desc) : Nat :=
  packFields [(0, 100), (flag x.fill, 1), (flag x.transit, 1), (flag x.publish, 1), (x.pubSlot, 9), (x.pubEpoch, 16),
    (x.dstPitch, 16), (x.srcPitch, 16), (0, 16), (x.rows, 16), (pairOf (x.src % 2 ^ 32), 64), (pairOf (x.src / 2 ^ 32), 64),
    (pairOf (x.dst % 2 ^ 32), 64), (pairOf (x.dst / 2 ^ 32), 64), (pairOf x.length, 64)]

/-- A descriptor that moves nothing: a legal empty transfer (R56). -/
def Desc.empty : Desc := descOf 0

/-- Do two ranges share a byte? -/
def overlap (a n b m : Nat) : Bool := n ≠ 0 && m ≠ 0 && a < b + m && b < a + n

/-- Bytes that a descriptor reads from SRC on: a word for a fill, a walk and a table load. -/
def Desc.srcSpan (op : Nat) (x : Desc) : Nat :=
  if x.rows = 0 ∨ x.length = 0 then 0
  else if (x.isFill ∧ op = 1) ∨ op = 4 ∨ op = 6 then 64
  else spanOf x.rows x.length x.srcPitch

/-- Bytes that a descriptor writes from DST on; the row areas of a walk have rules of their own (R221). -/
def Desc.dstSpan (op : Nat) (x : Desc) : Nat := if op = 4 ∨ op = 6 then 0 else spanOf x.rows x.length x.dstPitch

/-- Is an address, with the n bytes from it, legal at admission (R43, R45)? A host-space address is, once the host has enabled
bus mastering. -/
def Dev.placeOk (d : Dev) (a n : Nat) : Bool := d.localOk a n || (addrSpace a = 2 && d.on? 0x4000_04)

/-- Does a row of the destination share a byte with a range? -/
def Desc.rowsCover (x : Desc) (a n : Nat) : Bool := (List.range x.rows).any (fun r => overlap a n (x.dst + r * x.dstPitch * 64) x.length)

/-- The static rules of a descriptor for its D_OP: 04E0h for an address (R43, R45), 0404h for a copy or fill that
cannot be (R92); 0 when it is legal. -/
def Dev.descStatus (d : Dev) (op : Nat) (x : Desc) : Nat :=
  let sn := x.srcSpan op
  let dn := x.dstSpan op
  let srcOk := d.placeOk x.src sn
  let dstOk := if op = 5 then addrSpace x.dst = 1 else d.placeOk x.dst dn
  let oneDie := inGalley x.src && inGalley x.dst && x.src / dieBytes = x.dst / dieBytes && (x.dst + (dn - 1)) / dieBytes = x.dst / dieBytes
  if !srcOk || !dstOk then 0x04E0
  else if x.fill && (op ≠ 1 || x.length % 64 ≠ 0 || !oneDie) then 0x0404
  else if op = 1 && x.isFill && x.rowsCover (x.src / 64 * 64) sn then 0x0404
  else if op = 1 && !x.isFill && overlap x.src sn x.dst dn then 0x0404
  else 0

/-! ## Constants of a plate set in galley (R95, R205) -/

/-- The bytes of an address inside the set's images. -/
def imageBytes (ps : PlateSetIn) (a n : Nat) : Option (List Byte) :=
  (ps.images.find? (fun i => i.1 ≤ a && a + n ≤ i.1 + i.2.length)).map (fun i => (i.2.drop (a - i.1)).take n)

/-- First byte of a slot's operand block (Table 6-6). -/
def blockAddr (c : Nat) (s : SlotEntry) : Nat := c / 16 * dieBytes + 16 * s.operandAddr

/-- The slots of slot type 0 of an imposition: core and entry. -/
def layoutSlots (i : ImpositionSeg) : List (Nat × SlotEntry) :=
  (i.slots.map (fun c => (c.2.filter (fun e => e.slotType = 0)).map (fun e => (c.1, e)))).flatten

/-- Does a range lie in a constant data segment? -/
def inConstants (ps : PlateSetIn) (a n : Nat) : Bool := ps.constants.any (fun r => r.1 ≤ a && a + n ≤ r.1 + r.2)

/-- The words of a slot's band template: six descriptors in a constant data segment, 448 bytes past the start of its operand
block (R205). -/
def bandTemplate (ps : PlateSetIn) (c : Nat) (s : SlotEntry) : Option (List Nat) :=
  let a := blockAddr c s + 448
  (if inConstants ps a 384 then imageBytes ps a 384 else none).map (fun bs => (List.range 6).map (fun k => ofLe ((bs.drop (64 * k)).take 64)))

/-- H_B: ROWS of word 2 of the set's band template, 0 where it has none (R205). -/
def bandHeightOf (ps : PlateSetIn) : Nat :=
  ((((ps.impositions.map layoutSlots).flatten.findSome? (fun e => bandTemplate ps e.1 e.2)).map (fun t =>
    (descOf (t.getD 1 0)).rows))).getD 0

end Sys2Proof.Machine
end

