-- ==== Sys2Proof/Machine/DataEngine.lean ====
section
/-! DEFINITION. The data engine (R44, R56, R57, R92, R93, R107): launches, copies, fills, DDR moves, completion. -/

namespace Sys2Proof.Machine

/-- A galley word read by a bank controller or engine: a failed check is a detection (R96). -/
def Dev.readCheck (d : Dev) (source w : Nat) : Dev := if w ∈ d.poisoned ∧ inGalley (w * 64) then d.detection (w * 64) source else d

/-- Poison that travels: the destination words that take bytes of a poisoned source word (R93, R107). -/
def Dev.carryPoison (d : Dev) (src dst n w : Nat) : Dev :=
  if w ∈ d.poisoned then
    let o := max (w * 64) src - src
    let m := min (w * 64 + 64) (src + n) - max (w * 64) src
    d.each (wordsOf (dst + o) m) Dev.poisonWord
  else d

/-- Copy one row of bytes, detections travelling with the data. -/
def Dev.copyRow (d : Dev) (source src dst n : Nat) : Dev :=
  let ws := wordsOf src n
  let bs := memBytes d.mem src n
  (((d.each ws (fun d w => d.readCheck source w)).put dst bs).each ws (fun e w =>
    if w ∈ d.poisoned then ({ e with poisoned := setAdd w e.poisoned } : Dev).carryPoison src dst n w else e))

/-- A row between local and host space, or within host space (R45, Table 2-7): what the host gives lies outside the device,
and a write to it is posted (R360). -/
def Dev.hostRow (d : Dev) (source src dst n : Nat) : Dev :=
  let fromHost := addrSpace src = 2
  let bs := if fromHost then (List.range n).map (Config.hostByte d.draws) else memBytes d.mem src n
  let d := if fromHost then d.drawn else d.each (wordsOf src n) (fun d w => d.readCheck source w)
  if addrSpace dst = 2 then d.emit (.hostWrite (dst % 2 ^ 62) bs) else d.put dst bs

/-- Copy all rows in ascending order (R56). -/
def Dev.copyRows (d : Dev) (source : Nat) (x : Desc) : Dev :=
  let host := addrSpace x.src = 2 || addrSpace x.dst = 2
  (List.range x.rows).foldl (fun d r =>
    (if host then Dev.hostRow else Dev.copyRow) d source (x.src + r * x.srcPitch * 64) (x.dst + r * x.dstPitch * 64) x.length) d

/-- The words that a fill writes. -/
def Desc.fillWords (x : Desc) : List Nat :=
  ((List.range x.rows).map (fun r => (List.range (x.length / 64)).map (fun i => x.dst + r * x.dstPitch * 64 + i * 64))).flatten

/-- A fill (R92): the source word is read once and written to every destination word, poisoned where its check failed
(R93). -/
def Dev.fillRows (d : Dev) (x : Desc) : Dev :=
  let w := x.src / 64
  let bs := memBytes d.mem (w * 64) 64
  if x.fillWords.isEmpty then d
  else
    let e := (d.readCheck 4 w).each x.fillWords (fun d a => d.put a bs)
    if w ∈ d.poisoned then e.each x.fillWords (fun d a => d.poisonWord (a / 64)) else e

/-- A range that an engine reaches at run time: 04E1h for an address that is not there or on the left-out die (R44),
0401h for a gated bank (R105); 0 otherwise. Host space is there while the host enables bus mastering (R45). -/
def Dev.reachStatus (d : Dev) (a n : Nat) : Nat :=
  if n = 0 ∨ (addrSpace a = 2 ∧ d.on? 0x4000_04) then 0
  else if !(d.localOk a n && d.dieIn a) then 0x04E1
  else if (wordsOf a n).any (fun w => d.gatedAt (w * 64)) then 0x0401
  else 0

/-- The first of two statuses that is not 0. -/
def orStatus (a b : Nat) : Nat := if a = 0 then b else a

/-- A status met by a transfer while it runs, on what it reads and what it writes (R44, R105). -/
def Dev.runStatus (d : Dev) (x : Desc) : Nat :=
  let dn := spanOf x.rows x.length x.dstPitch
  let sn := if x.isFill && dn ≠ 0 then 64 else spanOf x.rows x.length x.srcPitch
  orStatus (d.reachStatus (if x.isFill then x.src / 64 * 64 else x.src) sn) (d.reachStatus x.dst dn)

/-- The core freezes on a detection: in-flight results are discarded; the second since the replay point restarts the
forme with 0309h (R61). -/
def Dev.freezeCore (d : Dev) (c : Fin 96) (x : CoreSt) : Dev :=
  if x.detected then d.stopCore c x 0x0309
  else d.setCore c { x.discard with frozen := true, ended := false, detected := true }

/-- A forme's transfer is refused while it runs: the forme restarts with the status, charged to its plate. -/
def Dev.refuseTransfer (d : Dev) (c : Fin 96) (t : Xfer) (status : Nat) : Dev :=
  ((d.countStop status).faultForme t.forme status).charge status 1 t.plate (coreDie c)

/-- Launch a transfer on its tag (R47, R56, Table 3-3): its descriptor lands L cycles on and its words reach their banks
8 + L cycles on; the tag completes with TRANSFER_COMPLETE. Table 3-3 gives the cycle of the first word only: the model moves
all words of a transfer then, also those that go elsewhere than to a bank of the same die (DESIGN CHOICE, log entry 127). -/
def launch (op mode : Nat) (a : At) (desc tag : Nat) (d : Dev) : Dev :=
  d.issueRead a desc 64 (fun d x =>
    let addr := galleyAddr a.core desc
    let w := d.word addr
    let y := descOf w
    let l : Launch := ⟨a.cycle + d.landing, false, a.bundle, addr, w, d.isPoisoned addr, op, mode, tag, [], none, []⟩
    d.setCore a.core { x with launches := x.launches ++ [l],
                              tags := kvInsert x.tags tag ⟨op, w, y.publish, y.pubSlot, y.pubEpoch, x.forme, x.plate, false, none⟩ })

/-- D_OP 1: a galley copy (R92), or a fill where FILL is 1 or its rows are one source word. -/
def galleyCopyOp := launch 1 0

/-- D_OP 1 with FILL 1 (R92). -/
def galleyFillOp := launch 1 1

/-- D_OP 2: DDR5 words into galley, with check bits of their own (R107). -/
def ddrReadOp := launch 2 0

/-- D_OP 3: galley words to DDR5; a detection is stored so that its ECC reports it (R107). -/
def ddrWriteOp := launch 3 0

/-- D_OP 4: a slug walk, by its mode (R218). -/
def walkOp (mode : Nat) := launch 4 mode

/-- D_OP 5: a remote write (R386, R389). -/
def remoteWriteOp := launch 5 0

/-- D_OP 6: the stream scale table from one galley word. -/
def loadTableOp := launch 6 0

/-! ## What a launch moves -/

/-- What a launch's descriptor asks for; the FILL that its D_OP names is set. -/
def Launch.shape (l : Launch) : Desc :=
  let y := descOf l.word
  { y with fill := y.fill || (l.op = 1 && l.mode = 1) }

/-- The rows that a transfer writes. -/
def Desc.writes (y : Desc) : List (Nat × Nat) := (List.range y.rows).map (fun r => (y.dst + r * y.dstPitch * 64, y.length))

/-- A transfer meets a slot under EXPECT_DRAIN that is not drained (R62): its core stops while it runs the forme's slot;
otherwise the forme alone restarts. -/
def Dev.stopUndrained (d : Dev) (c : Fin 96) (x : CoreSt) (bundle : Nat) (t : Xfer) (slot : Nat) : Dev :=
  if x.running ∧ x.forme = t.forme then d.stopCore c { x with bundle := bundle } 0x0306 (some slot)
  else
    ((d.recordViolation c { x with plate := t.plate, bundle := bundle } 0x0306 (some slot)).faultForme t.forme 0x0306).charge 0x0306 1
      t.plate (coreDie c)

/-- Words that a link dropped keep what they held (R30). -/
def Dev.keepDropped (e d : Dev) (ws : List Nat) : Dev :=
  e.each ws (fun e w =>
    let f := e.poke (w * 64) (memBytes d.mem (w * 64) 64)
    if w ∈ d.poisoned then f.poisonWord w else f.cleanWord w)

/-- Move words if no address or bank refuses them and every slot under EXPECT_DRAIN that they reach is drained (R62). -/
def guardMove (f : Dev → Desc → Dev) (d : Dev) (c : Fin 96) (x : CoreSt) (l : Launch) (t : Xfer) : Dev :=
  let y := l.shape
  if d.runStatus y = 0 then
    match d.undrainedIn x y.writes with
    | some n => d.stopUndrained c x l.bundle t n
    | none => (f d y).keepDropped d l.dropped
  else d.refuseTransfer c t (d.runStatus y)

/-- Source words of a transfer that hold poisoned DDR5 words, by their addresses. -/
def Dev.poisonRead (d : Dev) (y : Desc) : Option Nat :=
  ((List.range y.rows).map (fun r => wordsOf (y.src + r * y.srcPitch * 64) y.length)).flatten.find? (fun w => w ∈ d.poisoned) |>.map (· * 64)

/-- A DDR read: its words move, and its tag keeps a poisoned word that it met (R107, R366). -/
def ddrReadMove (d : Dev) (c : Fin 96) (x : CoreSt) (l : Launch) (t : Xfer) : Dev :=
  let e := guardMove (fun d y => d.copyRows 4 y) d c x l t
  match d.poisonRead l.shape with
  | none => e
  | some a => e.setCore c { e.core c with tags := updIf (fun p => p.1 = l.tag) (fun p => (p.1, { p.2 with poison := some a })) (e.core c).tags }

/-- The galley words that take bytes of the DDR5 word at addr in a transfer. -/
def landsAt (y : Desc) (addr : Nat) : List Nat :=
  ((List.range y.rows).map (fun r =>
    let s := y.src + r * y.srcPitch * 64
    let lo := max s (addr / 64 * 64)
    let hi := min (s + y.length) (addr / 64 * 64 + 64)
    if lo < hi then wordsOf (y.dst + r * y.dstPitch * 64 + (lo - s)) (hi - lo) else [])).flatten

/-- Where a source word's check failed on the way, the words that take its bytes carry failing check bits, in DDR5 an ECC
that reports them (R93, R107). -/
def Dev.poisonLandings (d : Dev) (op : Nat) (y : Desc) (addr : Nat) : Dev :=
  if op = 5 then d
  else if op = 1 ∧ y.isFill then d.each y.fillWords (fun d a => d.poisonWord (a / 64))
  else d.each (landsAt y addr) Dev.poisonWord

/-- Every tag of a forme is complete. -/
def Dev.tagsDone (d : Dev) (forme : Nat) : Bool := d.cores.all (fun e => e.2.tags.all (fun t => t.2.forme ≠ forme))

/-- A transfer has read a poisoned DDR5 word (R366). -/
def Dev.transferPoison (d : Dev) (c : Fin 96) (t : Xfer) (addr : Nat) : Dev :=
  ((d.ddrPoison addr).faultForme t.forme 0x0411).charge 0x0411 1 t.plate (coreDie c)

/-- A transfer whose words are all done publishes, unless it has read a poisoned DDR5 word. -/
def Dev.transferOk (d : Dev) (c : Fin 96) (t : Xfer) : Dev :=
  match t.poison with
  | some a => d.transferPoison c t a
  | none => if t.publish then d.publishFill t.pubSlot t.pubEpoch else d

/-- A transfer ends (R56): its tag completes and PUBLISH publishes its epoch, or its forme restarts. -/
def transferEnd (c : Fin 96) (tag : Nat) (how : TransferEnd) (d : Dev) : Dev :=
  let x := d.core c
  match x.tags.find? (fun t => t.1 = tag) with
  | none => d
  | some t =>
    let d := d.setCore c { x with tags := kvErase x.tags tag }
    match how with
    | .ok => d.transferOk c t.2
    | .corrected addrs => (d.each addrs Dev.ddrCorrected).transferOk c t.2
    | .uncorrectable addr =>
      ((d.each (landsAt (descOf t.2.desc) addr) Dev.poisonWord).faultForme t.2.forme 0x0410).ddrUncorrectable 0x0410 addr
    | .poison addr => d.transferPoison c t.2 addr
    | .detected addr =>
      let d := (d.detection addr (if t.2.op = 3 ∨ t.2.op = 5 then 5 else 4)).poisonLandings t.2.op (descOf t.2.desc) addr
      if t.2.publish then d.publishFill t.2.pubSlot t.2.pubEpoch else d

/-! ## Landings (R47, R48, R61, R62, R105) -/

/-- The bank controller rewrites a restorable word from its DDR5 image before the replay (R95). An image word that cannot be
read is an uncorrectable read: the word is left as it is and the replay meets it again (R367). -/
def Dev.restoreIf (d : Dev) (addr : Nat) (r : Restore) : Dev :=
  if d.restorable addr then
    match r, d.imagePlace (addr / 64) with
    | .failed, some p => d.ddrUncorrectable 0 (p / 64 * 64)
    | .failed, none => d
    | .corrected, some p => (d.ddrCorrected (p / 64 * 64)).restoreWord (addr / 64)
    | _, _ => d.restoreWord (addr / 64)
  else d

/-- A detection on a word that a core reads: recorded, restored where it can be, and the core freezes (R61, R95). -/
def Dev.coreDetection (d : Dev) (c : Fin 96) (x : CoreSt) (addr source : Nat) (r : Restore) : Dev :=
  ((d.detection addr source).restoreIf addr r).freezeCore c x

/-- A paired word that a transfer reads is not well formed, or its check fails (R290): in galley as a detection of that word
(R61, R95), in DDR5 as an uncorrectable read, in hub SRAM charged to the unit that owns it. The forme restarts; hub SRAM
words have no status of their own, and the model gives 0905h (DESIGN CHOICE, log entry 128). -/
def Dev.badPaired (d : Dev) (c : Fin 96) (x : CoreSt) (t : Xfer) (addr : Nat) : Dev :=
  if inGalley addr then
    if x.running ∧ x.forme = t.forme then d.coreDetection c x addr 0 .restored
    else (d.detection addr 0).faultForme t.forme 0x0309
  else if ddrBase ≤ addr then (d.faultForme t.forme 0x0410).ddrUncorrectable 0x0410 addr
  else (d.detection addr 0).faultForme t.forme 0x0905

/-- The word that a table load reads, with its check (R47); a bank or address that refuses it refuses the transfer (R44,
R105). An empty transfer loads nothing (R6, R56), and a word that a link dropped does not arrive (R30). -/
def tableRead (d : Dev) (c : Fin 96) (x : CoreSt) (l : Launch) (t : Xfer) : Dev :=
  let y := descOf l.word
  let a := y.src / 64 * 64
  let st := d.reachStatus a 64
  if y.rows = 0 ∨ y.length = 0 ∨ a / 64 ∈ l.dropped then d
  else if st ≠ 0 then d.refuseTransfer c t st
  else d.setCore c { x with launches := x.launches ++ [{ l with due := l.due + d.landing, table := some (d.word a, d.isPoisoned a) }] }

/-- The table word lands and is the stream scale table (D_OP 6); a detection on it is a core's (R61, R95). -/
def loadTable (d : Dev) (c : Fin 96) (x : CoreSt) (l : Launch) (t : Xfer) (w : Nat × Bool) : Dev :=
  if w.2 then d.badPaired c x t ((descOf l.word).src / 64 * 64) else d.setCore c { x with streamTable := w.1 }

/-- A galley read lands, also one issued before END (R48): refused on a die left out (04E1h) or at a gated bank (0401h),
missing (0303h), a detection (freeze, or 0309h), or clean. -/
def readLanding (a : At) (addr : Nat) (fetch : Bool) (how : Landing) (r : Restore) (d : Dev) : Dev :=
  d.reachBy CoreSt.before_ a (fun d x =>
    if !(d.addrOk addr && d.dieIn addr) then d.stopCore a.core x 0x04E1
    else if d.gatedAt addr then d.stopCore a.core x 0x0401
    else if how = .missed then d.stopCore a.core x 0x0303
    else if how = .detected ∨ d.isPoisoned addr then
      d.coreDetection a.core x addr (if fetch then 1 else 0) r
    else d.setCore a.core x)

/-! ## Supply and links -/

/-- An override of the protective limits (R299): counted and recorded in 2210h. -/
def Dev.override (d : Dev) (status source : Nat) : Dev :=
  (((d.bump 0x2210_01).wr 0x2210_02 status).wr 0x2210_03 d.now).wr 0x2210_04 source

/-- An override whose source the manual does not number: neither a die's temperature nor a PMBus rail (R302). -/
def Dev.overrideOpen (d : Dev) (status : Nat) : Dev := d.drawn.override status (d.draw % 256)

/-- A supply droop that needs a stretch of need half percents (R35, R297): at a need beyond the envelope the loop
stops there and raises 0340h once. -/
def supplyDroop (c : Fin 96) (need : Nat) (d : Dev) : Dev :=
  let cores := d.power.atDroop
  if need > d.rd 0x2200_01 then
    if c.val ∈ cores then d
    else (({ d with power := { d.power with atDroop := setAdd c.val cores } }).bump 0x2205_01).event 0x0340 0
  else { d with power := { d.power with atDroop := cores.filter (· ≠ c.val) } }

/-- Supply below its protective limit: the sequencer stops for the slot with 0308h, and the override is logged (R35,
R299). -/
def supplyStop (c : Fin 96) (d : Dev) : Dev :=
  let d := d.overrideOpen 0x0308
  if (d.core c).running ∧ ¬(d.core c).ended then d.stopCore c (d.core c) 0x0308 else d

/-- The source a link's CRC error is charged to (R30): the receiving compute die, the sending one where the receiver
is a hub die, hub unit 7 on the hub link. -/
def linkSource (h : LinkHop) : Nat × Nat :=
  if h.receiver.val < 6 then (0, h.receiver.val)
  else if h.sender.val < 6 then (0, h.sender.val)
  else (3, 7)

/-! ## FILLED (R63) -/

/-- Does a launch write into a scoreboard slot's range? The row areas and maps of a walk are taken as all of them (DESIGN
CHOICE, log entry 161). -/
def Launch.writesTo (l : Launch) (s : SbSlot) : Bool :=
  if l.op = 4 then true
  else (l.op = 1 || l.op = 2) && l.shape.writes.any (fun w => overlap s.base s.size w.1 w.2)

/-- The last launch that writes into a slot takes the publication with it. -/
def fillWith (s : SbSlot) (e : Nat × Nat) (ls : List Launch) : List Launch :=
  match (ls.filter (·.writesTo s)).getLast? with
  | some m => updIf (· = m) (fun l => { l with fills := l.fills ++ [e] }) ls
  | none => ls

/-- FILLED (R63): the producer publishes an epoch, once the words that it launched into the slot before are written. -/
def filled (a : At) (slot epoch : Nat) (d : Dev) : Dev :=
  d.issue a (fun d x =>
    match d.sbSlot slot with
    | some s =>
      if x.launches.any (·.writesTo s) then d.setCore a.core { x with launches := fillWith s (slot, epoch) x.launches }
      else (d.setCore a.core x).publishFill slot epoch
    | none => d.setCore a.core x)

/-- The word of a forme's transfer that the receiver drops is not written (R30). -/
def CoreSt.dropWord (x : CoreSt) (forme addr : Nat) : CoreSt :=
  let mine (l : Launch) : Bool := x.tags.any (fun t => t.1 = l.tag && t.2.forme = forme)
  { x with launches := updIf mine (fun l => { l with dropped := setAdd (addr / 64) l.dropped }) x.launches }

/-- A word with a CRC error is dropped; the sending forme restarts with 03E0h (R30). addr is the word's destination. -/
def linkCrcError (h : LinkHop) (forme : Nat) (d : Dev) : Dev :=
  let d := { d with cores := d.cores.map (fun (c : Nat × CoreSt) => (c.1, c.2.dropWord forme h.word)) }
  (d.faultForme forme 0x03E0).charge 0x03E0 (linkSource h).1 (linkSource h).2

end Sys2Proof.Machine
end

