-- ==== Sys2Proof/Machine/Ddr.lean ====
section
/-! DEFINITION. DDR5 memory (R362 to R375): the layout, the raw page pool, channel errors and the patrol scrub. -/

namespace Sys2Proof.Machine

/-! ## Layout (R369, Table 18-1) -/

/-- Installed capacity in MiB. -/
def Dev.ddrMib (d : Dev) : Nat := d.ddrBytes / 2 ^ 20

/-- Every populated channel has passed its memory test or failed training or its test. -/
def Dev.ddrEnded (d : Dev) : Bool :=
  d.populated.all (fun x => d.ddrPassed.contains x || bit (d.rd 0x2001_02) (12 + x))

/-- Do the fixed regions and a raw page pool of 256 MiB fit? -/
def Dev.layoutFits (d : Dev) : Bool := d.layoutMib.sum + 256 ≤ d.ddrMib

/-- The layout once every populated channel has ended: the M ready bits and RAW_POOL_MIB where it fits, else 0454h
(R369). -/
def Dev.layoutFix (d : Dev) : Dev :=
  if d.ddrFixed ∨ !d.ddrEnded ∨ d.populated = [] then d
  else if d.layoutFits then
    let d := ({ d with ddrFixed := true, start := { d.start with layout := d.layoutMib } }.wrp 0x4101_08 (d.ddrMib - d.layoutMib.sum)).wr 0x4101_09 0
    d.each d.ddrPassed (fun d x => d.setReady (12 + x) true)
  else if d.rd 0x4101_09 = 0x0454 then d
  else (d.wr 0x4101_09 0x0454).event 0x0454 0

/-! ## The raw page pool (R154, R170, R267) -/

/-- Blocks of the pool in use: raw page buffers of page sides and sheet reservations. -/
def Dev.poolBlocks (d : Dev) : List (Nat × Nat) :=
  (d.pages.filter (fun p => p.rawBytes ≠ 0)).map (fun p => (p.rawAddr, p.rawBytes)) ++
    (d.axes.map (fun a => a.2.sheets.flatten.map (fun s => (s.2.1, s.2.2)))).flatten

/-- Bytes of the pool. -/
def Dev.poolBytes (d : Dev) : Nat := 2 ^ 20 * d.rdp 0x4101_08

/-- Bytes of the pool that nothing has reserved. -/
def Dev.poolFree (d : Dev) : Nat := d.poolBytes - (d.poolBlocks.map (·.2)).sum

/-- The lowest place of the pool with n free bytes beside blocks already taken in the same reservation (log entry
20). -/
def Dev.poolPlace (d : Dev) (taken : List (Nat × Nat)) (n : Nat) : Option Nat :=
  let base := d.layoutBase 47
  let bs := d.poolBlocks ++ taken
  let ok (a : Nat) : Bool := a + n ≤ base + d.poolBytes && bs.all (fun b => !overlap a n b.1 b.2)
  let cands := (base :: bs.map (fun b => b.1 + b.2)).filter ok
  cands.foldl (fun best a => match best with | none => some a | some b => some (min a b)) none

/-! ## Channels and errors -/

/-- Words of one subchannel. -/
def Dev.subWords (d : Dev) : Nat := d.rd 0x4100_03 * 2 ^ 30 / 128

/-- The patrol moves on by PATROL_WORDS words, and a wrap of the first subchannel counts a pass (R374). -/
def Dev.patrolMove (d : Dev) : Dev :=
  if d.subWords = 0 then d
  else
    let p := d.patrolPos + d.rd 0x4104_01
    ({ d with patrolPos := p % d.subWords }).bumpBy 0x4104_02 (p / d.subWords)

/-- Does this frame's patrol read a word: is it of a channel that is ready, and among the next PATROL_WORDS words of its
subchannel? -/
def Dev.patrolReads (d : Dev) (addr : Nat) : Bool :=
  d.inDdr addr && d.ready (12 + d.ddrChannel addr) && d.subWords ≠ 0 &&
    (d.ddrIndex addr + d.subWords - d.patrolPos) % d.subWords < d.rd 0x4104_01

/-- A patrol step (R374): corrected words written back and counted, uncorrectable words counted and logged and charged to
their channel, and words stored as poisoned reported as such (R366). Only channels that are ready are patrolled. -/
def Dev.patrol (d : Dev) (s : ScrubIn) : Dev :=
  let poison := (d.poisoned.map (· * 64)).filter d.patrolReads
  let e := if (d.populated.head?).any (fun x => d.ready (12 + x)) then d.patrolMove else d
  let e := e.each (s.corrected.eraseDups.filter (fun a => d.patrolReads a && !poison.contains (a / 64 * 64))) (fun d a =>
    (d.ddrCorrected a).bump 0x4104_03)
  let e := e.each (s.uncorrectable.eraseDups.filter (fun a => d.patrolReads a && !poison.contains (a / 64 * 64))) (fun d a =>
    d.ddrUncorrectable 0 a)
  e.each poison Dev.ddrPoison

end Sys2Proof.Machine
end

