-- ==== Sys2Proof/Machine/Channel.lean ====
section
/-! DEFINITION. Scan channels and axes as their units share them: geometry of lines (Table 7-4), the transport a channel
belongs to (R161), the guaranteed gap (R168), sheet reservations (R170) and feeder inhibit (R171). -/

namespace Sys2Proof.Machine

/-! ## Channels -/

/-- Key of a channel's entry (R159): offset from 3000h, sub-index. -/
def ckey (ch off sub : Nat) : Nat := dkey (0x3000 + 0x100 * ch + off) sub

def Dev.cget (d : Dev) (ch off sub : Nat) : Nat := d.rd (ckey ch off sub)

def Dev.chan (d : Dev) (ch : Nat) : ChanSt := kvGet ChanSt.init d.chans ch

def Dev.setChan (d : Dev) (ch : Nat) (c : ChanSt) : Dev := { d with chans := kvPut ChanSt.init d.chans ch c }

def Dev.updChan (d : Dev) (ch : Nat) (f : ChanSt → ChanSt) : Dev := d.setChan ch (f (d.chan ch))

/-- ENABLE of a channel. -/
def Dev.chanOn (d : Dev) (ch : Nat) : Bool := d.on? (ckey ch 0 9)

/-- A channel that issues line triggers and takes lines (R130). -/
def Dev.takes (d : Dev) (ch : Nat) : Bool := d.chanOn ch && d.cget ch 0 1 ≠ 0

def Dev.pixels (d : Dev) (ch : Nat) : Nat := d.cget ch 0 7
def Dev.planes (d : Dev) (ch : Nat) : Nat := d.cget ch 0 5
def Dev.avg (d : Dev) (ch : Nat) : Nat := max 1 (d.cget ch 2 1)

/-- PIXELS_OUT (R146). -/
def Dev.pixelsOut (d : Dev) (ch : Nat) : Nat := d.pixels ch / d.avg ch

/-- PLANE_BYTES and LINE_PITCH (Table 7-4). -/
def Dev.planeBytes (d : Dev) (ch : Nat) : Nat := 64 * ((d.pixelsOut ch * d.cget ch 2 2 + 511) / 512)
def Dev.linePitch (d : Dev) (ch : Nat) : Nat := d.planes ch * d.planeBytes ch + 64

/-- PLANE_BYTES of a pass-through record (R156), and its size P. -/
def Dev.passPlane (d : Dev) (ch : Nat) : Nat :=
  if d.cget ch 2 3 = 1 then 64 * ((d.pixels ch + 31) / 32) else d.planeBytes ch
def Dev.passBytes (d : Dev) (ch : Nat) : Nat := 64 + d.planes ch * d.passPlane ch

/-- MAX_PAGE_LINES. -/
def Dev.maxLines (d : Dev) (ch : Nat) : Nat := d.rdp (ckey ch 2 6)

/-- Bytes of a raw page buffer (R154). -/
def Dev.rawNeed (d : Dev) (ch : Nat) : Nat := 128 + d.maxLines ch * d.linePitch ch

/-- Values of 3001h and DRIFT_ENV as they stand now. -/
def Dev.cfgNow (d : Dev) (ch : Nat) : List Nat := (List.range 13).map (fun i => d.cget ch 1 (i + 1)) ++ [d.cget ch 4 3]

/-- 3001h:sub (14: DRIFT_ENV) as taken at the last gap (R159). -/
def Dev.cfg (d : Dev) (ch sub : Nat) : Nat := (d.chan ch).cfg.getD (sub - 1) ((d.cfgNow ch).getD (sub - 1) 0)

/-- The gap takes 3001h and DRIFT_ENV as they stand (R159). -/
def Dev.latchCfg (d : Dev) (ch : Nat) : Dev := d.updChan ch (fun c => { c with cfg := d.cfgNow ch })

/-- Lamp duty that LCn drives (R130, Table 7-3). -/
def Dev.lampDuty (d : Dev) (ch : Nat) : Nat :=
  if d.chanOn ch ∧ d.stage ≠ 1 then
    match (d.chan ch).makeready with
    | some m => if m.phase ≤ 2 then 0 else d.cfg ch 12
    | none => d.cfg ch 12
  else 0

/-- A scan status: LAST_STATUS, LAST_PAGE_SEQ where a page side is read, its first status in the measurement record, and
an emergency where it is an event (R138, R337, R438). -/
def Dev.chanStatus (d : Dev) (ch status : Nat) (isEvent : Bool) : Dev :=
  let d := d.wr (ckey ch 6 13) status
  let d := match (d.chan ch).page with
    | some p => (d.wr (ckey ch 6 14) p.2).updChan ch (fun c => { c with scanStatus := if c.scanStatus = 0 then status else c.scanStatus })
    | none => d
  if isEvent then d.event status 0 else d

/-! ## Axes -/

/-- Key of an axis's entry (R179): offset from 3400h, sub-index. -/
def akey (ax off sub : Nat) : Nat := dkey (0x3400 + 0x100 * ax + off) sub

def Dev.aget (d : Dev) (ax off sub : Nat) : Nat := d.rd (akey ax off sub)

def Dev.axis (d : Dev) (ax : Nat) : AxisSt := kvGet AxisSt.init d.axes ax

def Dev.setAxis (d : Dev) (ax : Nat) (a : AxisSt) : Dev := { d with axes := kvPut AxisSt.init d.axes ax a }

def Dev.updAxis (d : Dev) (ax : Nat) (f : AxisSt → AxisSt) : Dev := d.setAxis ax (f (d.axis ax))

/-- STATE (R179). -/
def Dev.axState (d : Dev) (ax : Nat) : Nat := d.aget ax 5 1
def Dev.setAxState (d : Dev) (ax s : Nat) : Dev := d.wr (akey ax 5 1) s

/-- A status of an axis: LAST_STATUS, and its emergency (R337, R438). -/
def Dev.axisStatus (d : Dev) (ax status : Nat) : Dev := (d.wr (akey ax 5 7) status).event status 0

/-- Channels that an axis couples. -/
def Dev.coupled (d : Dev) (ax : Nat) : List Nat := (List.range 4).filter (fun c => bit (d.aget ax 0 2) c)

/-- Coupled channels with ENABLE 1. -/
def Dev.coupledOn (d : Dev) (ax : Nat) : List Nat := (d.coupled ax).filter d.chanOn

/-- Is the axis an enabled transport? -/
def Dev.isTransport (d : Dev) (ax : Nat) : Bool := d.aget ax 0 1 = 1 && d.on? (akey ax 0 15)

/-- The transport a channel belongs to: the enabled one that couples it, else the lowest line-coupled axis that names
it. -/
def Dev.axisOf (d : Dev) (ch : Nat) : Option Nat :=
  match (List.range 4).find? (fun a => d.isTransport a && bit (d.aget a 0 2) ch) with
  | some a => some a
  | none => (List.range 4).find? (fun a => d.aget a 0 1 = 1 && bit (d.aget a 0 2) ch)

/-- The front channel (R161). -/
def Dev.front (d : Dev) (ax : Nat) : Option Nat :=
  match (d.coupledOn ax).find? (fun c => !bit (d.aget ax 0 3) c) with
  | some c => some c
  | none => (d.coupledOn ax).head?

/-- Level of ENn: active while ENABLE is 1 and the axis is out of the safe state (R163, R177). -/
def Dev.enPin (d : Dev) (ax : Nat) : Bool :=
  (d.on? (akey ax 0 15) && d.axState ax ≠ 6) == (d.aget ax 0 8 = 1 : Bool)

/-- Level of DIRn that a direction asks for: DIR_FORWARD_LEVEL forward, else its complement (R162). -/
def Dev.dirLevel (d : Dev) (ax : Nat) (forward : Bool) : Bool := forward == (d.aget ax 0 7 = 1 : Bool)

/-- Level of DIRn: as it was set at rest before the first pulse of the last move, held while the axis moves or is in the safe
state (R163, R177); low before the first move, as its pull-down holds it. -/
def Dev.dirPin (d : Dev) (ax : Nat) : Bool := (d.axis ax).dir

/-- LINE_STEPS, by which sensor edges are stamped (R167). -/
def Dev.lineSteps (d : Dev) (ax : Nat) : Nat := d.aget ax 5 2

/-- The guaranteed gap G (R168). -/
def Dev.gapG (d : Dev) (ax : Nat) : Nat :=
  if d.aget ax 0 10 = 255 then 0
  else if (d.front ax).isNone then d.aget ax 0 11
  else match (d.axis ax).edges with
    | [] => d.aget ax 0 11
    | e :: _ => d.aget ax 0 11 - (d.lineSteps ax - e)

/-! ## Sheet reservations (R170) -/

/-- Places for one raw page buffer per channel, or none. -/
def Dev.sheetPlaces (d : Dev) : List Nat → List (Nat × Nat × Nat) → Option (List (Nat × Nat × Nat))
  | [], acc => some acc
  | ch :: r, acc =>
    match d.poolPlace (acc.map (fun s => (s.2.1, s.2.2))) (d.rawNeed ch) with
    | some a => d.sheetPlaces r (acc ++ [(ch, a, d.rawNeed ch)])
    | none => none

/-- Take a sheet reservation: none while a channel finds no place. -/
def Dev.takeSheet (d : Dev) (ax : Nat) : Option Dev :=
  (d.sheetPlaces (d.coupledOn ax) []).map (fun s => d.updAxis ax (fun a => { a with sheets := a.sheets ++ [s] }))

/-- The earliest buffer held for a channel, and what stays of the sheets. -/
def sheetItem (ch : Nat) : List (List (Nat × Nat × Nat)) → Option (Nat × Nat) × List (List (Nat × Nat × Nat))
  | [] => (none, [])
  | s :: r =>
    match s.find? (fun e => e.1 = ch) with
    | some e => (some e.2, (if (s.filter (fun x => x.1 ≠ ch)).isEmpty then r else s.filter (fun x => x.1 ≠ ch) :: r))
    | none => ((sheetItem ch r).1, s :: (sheetItem ch r).2)

/-- Drop the buffer held for a channel's sheet (R441). -/
def Dev.dropSheet (d : Dev) (ax ch : Nat) : Dev := d.updAxis ax (fun a => { a with sheets := (sheetItem ch a.sheets).2 })

/-- The page side a channel reads takes over the buffer reserved for its sheet. -/
def Dev.grabBuffer (d : Dev) (ch : Nat) : Dev :=
  match (d.chan ch).page, d.axisOf ch with
  | some p, some ax =>
    match d.page? p.1 p.2, (sheetItem ch (d.axis ax).sheets).1 with
    | some q, some b =>
      if q.rawBytes = 0 then
        (d.dropSheet ax ch).updPage p.1 p.2 (fun q => { q with rawAddr := b.1, rawBytes := b.2 })
      else d
    | _, _ => d
  | _, _ => d

/-! ## Feeder inhibit (R171) -/

/-- Bytes of one sheet reservation. -/
def Dev.sheetBytes (d : Dev) (ax : Nat) : Nat := ((d.coupledOn ax).map d.rawNeed).sum

/-- Does R25 apply to a ring: does a page side bound to it wait for ring space? -/
def Dev.ringWaits (d : Dev) (r : Nat) : Bool :=
  d.pages.any (fun p => p.ring = r && p.group.isNone && !p.released && p.reserve = 0) ||
  d.formes.any (fun f => f.kind = 8 && !f.admitted && f.waited && f.pages.any (fun p => p.1 = r))

/-- Is a leave of Press pending (2000h:06)? -/
def Dev.leavePending (d : Dev) : Bool := d.on? 0x2000_06

/-- A reason of R171, R295 or R318 that asserts FIx at the next page gap. -/
def Dev.fiReason (d : Dev) (ax : Nat) : Bool :=
  d.aget ax 4 1 = 1 ||
  (d.stage = 3 && (d.poolFree < d.sheetBytes ax || d.ringWaits (d.aget ax 0 14) || d.leavePending))

/-- Set a transport's FIx, counting an assertion. -/
def Dev.setInhibit (d : Dev) (ax : Nat) (v : Bool) : Dev :=
  let d' := d.updAxis ax (fun a => { a with inhibit := v })
  if v ∧ d.aget ax 0 1 = 1 then d'.bump (akey ax 5 6) else d'

/-- FIx of one transport follows its reasons: at once in Chase, recovery and the safe state; else a reason asserts it at
a page gap, and it stays while any reason holds. -/
def Dev.fiUpdate (d : Dev) (ax : Nat) : Dev :=
  let a := d.axis ax
  let now := d.stage ≠ 2 && d.stage ≠ 3 || d.axState ax = 6
  let v := now || (d.fiReason ax && (a.inhibit || a.gap))
  if v = a.inhibit then d else d.setInhibit ax v

/-- Every transport's FIx. -/
def Dev.fiAll (d : Dev) : Dev := (List.range 4).foldl Dev.fiUpdate d

/-- Level of output FIx: asserted outside Proof and Press (R306), and while a transport that names it asserts it. -/
def Dev.fiPin (d : Dev) (x : Nat) : Bool :=
  (d.stage ≠ 2 && d.stage ≠ 3) || (List.range 4).any (fun a => d.aget a 0 1 = 1 && d.aget a 0 9 = x && (d.axis a).inhibit)

end Sys2Proof.Machine
end

