-- ==== Sys2Proof/Machine/Scan.lean ====
section
/-! DEFINITION. The arithmetic of a scan line (R131 to R151): samples to pixels, makeready references, shading, averaging,
edges and skew. -/

namespace Sys2Proof.Machine

/-! ## Samples to pixels (R131 to R134) -/

/-- A sample word with its lower 16 − SAMPLE_BITS bits set to zero (R133). -/
def alignSample (sb w : Nat) : Nat := w % 65536 / 2 ^ (16 - sb) * 2 ^ (16 - sb)

/-- Does a word time begin a plane readout: FR high for 12 bit times in serial mode (R131), HSYNC risen in parallel mode
(R132)? -/
def wordStarts (mode : Nat) (w : WordIn) : Bool := if mode = 2 then w.mark = 1 else w.mark = 0xFFF0

/-- Word times whose FR pattern is neither of the two of R131. -/
def badFrames (mode : Nat) (ws : List WordIn) : Nat :=
  if mode = 2 then 0 else (ws.filter (fun w => w.mark ≠ 0xFF00 && w.mark ≠ 0xFFF0)).length

/-- The readouts of a line: each runs from a word time that begins one to the next; what comes before the first belongs to
none. -/
def readoutsOf (mode : Nat) : List WordIn → List (List WordIn)
  | [] => []
  | w :: r =>
    if wordStarts mode w then (w :: r.takeWhile (fun x => !(wordStarts mode x))) :: readoutsOf mode r else readoutsOf mode r

/-- Samples in a word time: one for each lane in use (R131), one on the parallel bus (R132). -/
def wordSamples (mode seg : Nat) : Nat := if mode = 2 then 1 else seg

/-- The words as the shading unit receives them (R136). -/
def atShading (mode seg : Nat) (line : LineIn) : List WordIn :=
  let n := wordSamples mode seg
  line.words.mapIdx (fun i w =>
    { w with lanes := w.lanes.mapIdx (fun k v => if k < n then kvGet v line.changed (i * n + k) else v) })

/-- The CRC of a line's sample words (R136): after left alignment, in arrival order, as 16-bit little-endian values; the
samples of one word time in the order of their lanes. -/
def wordsCrc (mode seg sb : Nat) (ws : List WordIn) : Nat :=
  crc32c ((ws.map (fun w => ((w.lanes.take (wordSamples mode seg)).map (fun v => leBytes 2 (alignSample sb v))).flatten)).flatten)

/-- Word j of segment k in readout r (R131 to R133): lane k in serial mode, every SEGMENTS-th word in parallel mode. -/
def segWord (mode seg : Nat) (ros : List (List WordIn)) (r k j : Nat) : Nat :=
  let ro := (ros.getD r []).map (·.lanes)
  if mode = 2 then (ro.getD (j * seg + k) []).getD 0 0 else (ro.getD j []).getD k 0

/-- Place of native pixel p in its segment (R133): segment and index. -/
def segPlace (s rev p : Nat) : Nat × Nat := (p / s, if bit rev (p / s) then s - 1 - p % s else p % s)

/-- Aligned sample of native pixel p in plane c (R133). -/
def Dev.sampleAt (d : Dev) (ch : Nat) (ros : List (List WordIn)) (c p : Nat) : Nat :=
  let seg := d.cget ch 0 2
  let place := segPlace (d.pixels ch / seg) (d.cget ch 0 3) p
  alignSample (d.cget ch 0 4)
    (if d.cget ch 0 6 = 0 then segWord (d.cget ch 0 1) seg ros 0 place.1 (place.2 * d.planes ch + c)
     else segWord (d.cget ch 0 1) seg ros c place.1 place.2)

/-- The line's aligned samples, plane by plane in native pixel order. -/
def Dev.samples (d : Dev) (ch : Nat) (line : LineIn) : List (List Nat) :=
  let ros := readoutsOf (d.cget ch 0 1) (atShading (d.cget ch 0 1) (d.cget ch 0 2) line)
  (List.range (d.planes ch)).map (fun c => (List.range (d.pixels ch)).map (d.sampleAt ch ros c))

/-- Has every segment delivered S · PLANES words (R134)? -/
def Dev.lineWhole (d : Dev) (ch : Nat) (line : LineIn) : Bool :=
  let seg := d.cget ch 0 2
  let s := d.pixels ch / seg
  let readouts := if d.cget ch 0 6 = 0 then 1 else d.planes ch
  let need := if d.cget ch 0 6 = 0 then s * d.planes ch else s
  let ros := readoutsOf (d.cget ch 0 1) line.words
  (List.range readouts).all (fun r =>
    let ro := ros.getD r []
    if d.cget ch 0 1 = 2 then need * seg ≤ ro.length
    else (List.range seg).all (fun k => need ≤ (ro.filter (fun w => k < w.lanes.length)).length))

/-- Does the line's CRC at the shading unit's input differ from the deserializer's (R136)? -/
def Dev.rawCrcBad (d : Dev) (ch : Nat) (line : LineIn) : Bool :=
  let mode := d.cget ch 0 1
  let seg := d.cget ch 0 2
  let sb := d.cget ch 0 4
  let got := atShading mode seg line
  got ≠ line.words && wordsCrc mode seg sb got ≠ wordsCrc mode seg sb line.words

/-! ## Shading (R143, R144) -/

/-- x, y and v of R143. -/
def shadeX (s b16 : Nat) : Nat := 16 * s - b16
def shadeY (x k : Nat) : Nat := (x * k + 2 ^ 23) / 2 ^ 24
def shadeV (y f : Nat) : Nat := min 65535 ((y * f + 2 ^ 14) / 2 ^ 15)

/-- SPAN, defect and K of one pixel (R143). -/
def spanOf16 (b16 g16 gain : Nat) : Nat := if g16 > b16 then ((g16 - b16) * gain + 8192) / 2 ^ 14 else 0
def gainK (span minSpan white : Nat) : Nat := if span < minSpan then 0 else (white * 2 ^ 24 + span / 2) / span

/-- Plane c of a list over planes and pixels, a default where the list is the empty one of the default reference. -/
def planeOf {α : Type} (dflt : α) (l : List α) (pixels c : Nat) : List α :=
  if l.isEmpty then List.replicate pixels dflt else (l.drop (c * pixels)).take pixels

/-- The values y of one plane. -/
def shadePlane (r : Reference) (pixels c : Nat) (ss : List Nat) : List Nat :=
  List.zipWith (fun s bk => shadeY (shadeX s bk.1) bk.2) ss
    ((planeOf 0 r.b16 pixels c).zip (planeOf (2 ^ 20) r.k pixels c))

/-- Replace each defective pixel by the nearest sound one to its left, else the first sound one to its right, else 0
(R144). -/
def fillFrom : Option Nat → List (Nat × Bool) → List Nat
  | _, [] => []
  | last, (v, bad) :: r =>
    if bad then
      (match last with
       | some x => x
       | none => ((r.find? (fun e => !e.2)).map (·.1)).getD 0) :: fillFrom last r
    else v :: fillFrom (some v) r

/-- Averages of A adjacent pixels, rounded half up (R146). -/
def averages (a : Nat) : Nat → List Nat → List Nat
  | 0, _ => []
  | n + 1, vs => (2 * (vs.take a).sum + a) / (2 * a) :: averages a n (vs.drop a)

/-- Bytes of a plane of 16-bit averages: 8-bit or 16-bit, padded with zeros (R146, Table 7-4). -/
def planePack (outBits bytes : Nat) (avgs : List Nat) : List Byte :=
  let bs := if outBits = 16 then (avgs.map (leBytes 2)).flatten
    else avgs.map (fun v => BitVec.ofNat 8 (min 255 ((v + 128) / 256)))
  bs ++ List.replicate (bytes - bs.length) 0#8

/-! ## Edges of a line (R147) -/

/-- Is a pixel a paper pixel? -/
def paperPixel (lo hi v : Nat) : Bool := v ≤ lo || hi ≤ v

/-- First pixel of the first run and last pixel of the last run so far; i is the pixel's index, run the length of the
present run. -/
def edgeScan (lo hi minRun : Nat) : Nat → Nat → Option (Nat × Nat) → List Nat → Option (Nat × Nat)
  | _, _, e, [] => e
  | i, run, e, v :: r =>
    if paperPixel lo hi v then
      edgeScan lo hi minRun (i + 1) (run + 1)
        (if run + 1 ≥ minRun then some ((e.map (·.1)).getD (i - run), i) else e) r
    else edgeScan lo hi minRun (i + 1) 0 e r

/-- Left and right edge of a line, none for a non-paper line. -/
def Dev.lineEdges (d : Dev) (ch : Nat) (avgs : List (List Nat)) : Option (Nat × Nat) :=
  edgeScan (d.cget ch 3 2) (d.cget ch 3 3) (d.cget ch 3 4) 0 0 none (avgs.getD (d.cget ch 3 1) [])

/-! ## A shaded line -/

/-- The reference in force, the default where it does not fit the line's geometry (DESIGN CHOICE, log entry 153). -/
def Dev.activeRef (d : Dev) (ch : Nat) : Reference :=
  let r := (d.chan ch).ref
  if r.k.length = d.pixels ch * d.planes ch then r else .default

/-- Drift factor in force (3004h:04). -/
def Dev.driftF (d : Dev) (ch : Nat) : Nat := d.cget ch 4 4

/-- Values y, plane by plane. -/
def Dev.shadeLine (d : Dev) (ch : Nat) (ss : List (List Nat)) : List (List Nat) :=
  ss.mapIdx (fun c s => shadePlane (d.activeRef ch) (d.pixels ch) c s)

/-- The 16-bit averages from the values y. -/
def Dev.averageLine (d : Dev) (ch : Nat) (ys : List (List Nat)) : List (List Nat) :=
  ys.mapIdx (fun c y =>
    averages (d.avg ch) (d.pixelsOut ch)
      (fillFrom none ((y.map (fun y => shadeV y (d.driftF ch))).zip
        (planeOf false (d.activeRef ch).defect (d.pixels ch) c))))

/-- A line of averages as it is stored. -/
def Dev.packLine (d : Dev) (ch : Nat) (avgs : List (List Nat)) : List Byte :=
  (avgs.map (planePack (d.cget ch 2 2) (d.planeBytes ch))).flatten

/-- The aligned samples as PASS_MODE 1 carries them (R156). -/
def Dev.packRaw (d : Dev) (ch : Nat) (ss : List (List Nat)) : List Byte :=
  if d.cget ch 2 3 = 1 then (ss.map (planePack 16 (d.passPlane ch))).flatten else []

/-- The shaded line of a line's samples (R137, R143 to R147). -/
def Dev.shaded (d : Dev) (ch : Nat) (ss : List (List Nat)) : ShadedLine :=
  let avgs := d.averageLine ch (d.shadeLine ch ss)
  let bs := d.packLine ch avgs
  { bytes := bs, crc := crc32c bs, raw := d.packRaw ch ss, paper := d.lineEdges ch avgs, repaired := false,
    stall := false, stops := 0, status := 0, time := d.now }

/-- The line of zeros that replaces a first line (R138), classified as its pixels are. -/
def Dev.zeroLine (d : Dev) (ch : Nat) : ShadedLine :=
  let avgs := List.replicate (d.planes ch) (List.replicate (d.pixelsOut ch) 0)
  let bs := d.packLine ch avgs
  { bytes := bs, crc := crc32c bs, raw := d.packRaw ch (List.replicate (d.planes ch) (List.replicate (d.pixels ch) 0)),
    paper := d.lineEdges ch avgs, repaired := false, stall := false, stops := 0, status := 0, time := d.now }

/-! ## Drift (R145) -/

/-- Native pixels of the monitor zone. -/
def Dev.zone (d : Dev) (ch : Nat) : List Nat := (List.range (d.cget ch 4 2)).map (· + d.cget ch 4 1)

/-- LINE_SUM: y over the sound pixels of the zone. -/
def Dev.lineSum (d : Dev) (ch : Nat) (ys : List (List Nat)) : Nat :=
  let y := ys.getD (d.cget ch 3 1) []
  let bad := planeOf false (d.activeRef ch).defect (d.pixels ch) (d.cget ch 3 1)
  ((d.zone ch).map (fun p => if bad.getD p false then 0 else y.getD p 0)).sum

/-- Is any zone pixel classified as paper? -/
def Dev.zonePaper (d : Dev) (ch : Nat) (avgs : List (List Nat)) : Bool :=
  let a := avgs.getD (d.cget ch 3 1) []
  (d.zone ch).any (fun p => (a[p / d.avg ch]?).any (paperPixel (d.cget ch 3 2) (d.cget ch 3 3)))

/-- F of R145. -/
def driftFactor (refSum lineSum : Nat) : Nat := (refSum * 32768 + lineSum / 2) / lineSum

/-- F clamped to the envelope. -/
def driftClamp (env f : Nat) : Nat := min (max f (32768 - env)) (32768 + env)

/-- The loop reaches the edge of its envelope: 0208h, once until it leaves the edge (R297) and at most once on a page side
(R145). -/
def Dev.driftEdge (d : Dev) (ch : Nat) : Dev :=
  if (d.chan ch).driftRaised then d
  else
    let seen := (d.chan ch).driftPage
    let d := d.updChan ch (fun c => { c with driftRaised := true, driftPage := true })
    if seen then d else d.chanStatus ch 0x0208 true

/-- The loop after one line: the factor for the next, DRIFT_ENV_EVENTS and 0208h at the envelope. -/
def Dev.driftStep (d : Dev) (ch : Nat) (sum : Nat) : Dev :=
  let f := driftFactor (d.chan ch).ref.sum sum
  let g := driftClamp (d.cfg ch 14) f
  let d := d.wr (ckey ch 4 4) g
  if f = g then d.updChan ch (fun c => { c with driftRaised := false }) else (d.bump (ckey ch 4 5)).driftEdge ch

/-- The drift loop runs after a sound line outside makeready, in Press with a makeready reference (R145). -/
def Dev.drift (d : Dev) (ch : Nat) (ss : List (List Nat)) : Dev :=
  if d.cget ch 4 2 = 0 then (d.wr (ckey ch 4 4) 32768).updChan ch (fun c => { c with driftRaised := false })
  else if d.stage = 3 ∧ (d.activeRef ch).source = 2 ∧ (d.chan ch).makeready.isNone then
    let ys := d.shadeLine ch ss
    let sum := d.lineSum ch ys
    if sum = 0 ∨ d.zonePaper ch (d.averageLine ch ys) then d else d.driftStep ch sum
  else d

/-! ## Makeready (R139 to R142, Table 7-3) -/

/-- Lines that a makeready takes: M. -/
def Dev.makereadyM (d : Dev) (ch : Nat) : Nat := 2 * d.cfg ch 3 + d.cfg ch 1 + d.cfg ch 2

/-- Lines of a phase. -/
def Dev.phaseLines (d : Dev) (ch phase : Nat) : Nat :=
  match phase with
  | 1 | 3 => d.cfg ch 3
  | 2 => d.cfg ch 1
  | _ => d.cfg ch 2

/-- The makeready at the begin of a phase, an empty settle phase passed over. -/
def Dev.atPhase (d : Dev) (ch : Nat) (m : Makeready) (phase : Nat) : Makeready :=
  if d.phaseLines ch phase = 0 ∧ phase < 4 then { m with phase := phase + 1, left := d.phaseLines ch (phase + 1) }
  else { m with phase := phase, left := d.phaseLines ch phase }

/-- A wanted makeready begins at a line step whose guaranteed gap holds it (R139, R168). -/
def Dev.beginMakeready (d : Dev) (ch g : Nat) : Dev :=
  if (d.chan ch).wantMakeready ∧ d.takes ch ∧ g ≥ d.makereadyM ch then
    d.updChan ch (fun c => { c with wantMakeready := false, makeready := some (d.atPhase ch ⟨1, 0, [], []⟩ 1) })
  else d

/-- Sum, minimum and maximum with one more line (R140). -/
def addStats (st : List PixStat) (flat : List Nat) : List PixStat :=
  if st.isEmpty then flat.map (fun s => ⟨s, s, s⟩)
  else List.zipWith (fun p s => ⟨p.sum + s, min p.min s, max p.max s⟩) st flat

/-- The reference of one pixel in 1/16 LSB (R140). -/
def pixLevel (trim : Bool) (lines : Nat) (p : PixStat) : Nat :=
  if trim then (32 * (p.sum - p.min - p.max) + (lines - 2)) / (2 * (lines - 2)) else (32 * p.sum + lines) / (2 * lines)

/-- Does a new G16 differ from the earlier one by more than DUST_LIMIT (R141)? -/
def dusty (limit new old : Nat) : Bool := new - old > limit || old - new > limit

/-- New values of a plane after R141, with the number of pixels that kept their earlier ones. -/
def dustPlane (limit : Nat) (new old : List (Nat × Nat)) : List (Nat × Nat) × Nat :=
  let n := ((new.zip old).filter (fun e => dusty limit e.1.2 e.2.2)).length
  if 2 * n > new.length then (new, 0)
  else (List.zipWith (fun a o => if dusty limit a.2 o.2 then o else a) new old, n)

/-- The reference that a makeready gives (R140 to R145). -/
def Dev.makeReference (d : Dev) (ch : Nat) (m : Makeready) : Reference :=
  let c := d.chan ch
  let px := d.pixels ch
  let planes := d.planes ch
  let new := (m.black.map (pixLevel (d.cfg ch 4 ≠ 0) (d.cfg ch 1))).zip
    (m.grey.map (pixLevel (d.cfg ch 4 ≠ 0) (d.cfg ch 2)))
  let old := c.nextRef.getD c.ref
  let kept := (List.range planes).map (fun i =>
    if old.source = 2 ∧ old.g16.length = px * planes then
      dustPlane (d.cfg ch 6) (planeOf (0, 0) new px i) (planeOf (0, 0) (old.b16.zip old.g16) px i)
    else (planeOf (0, 0) new px i, 0))
  let bg := (kept.map (·.1)).flatten
  let spans := bg.map (fun e => spanOf16 e.1 e.2 (d.cfg ch 7))
  let ks := spans.map (fun s => gainK s (d.cfg ch 9) (d.cfg ch 8))
  let bad := spans.map (fun s => decide (s < d.cfg ch 9))
  let base := d.cget ch 3 1 * px
  let noisy := ((m.black.zip m.grey).filter (fun e =>
    e.1.max - e.1.min > d.cfg ch 5 || e.2.max - e.2.min > d.cfg ch 5)).length
  { source := 2, b16 := bg.map (·.1), g16 := bg.map (·.2), k := ks, defect := bad,
    sum := ((d.zone ch).map (fun p => if bad.getD (base + p) true then 0
      else shadeY ((bg.getD (base + p) (0, 0)).2 - (bg.getD (base + p) (0, 0)).1) (ks.getD (base + p) 0))).sum,
    defects := (bad.filter (fun b => b)).length, noisy := noisy, dust := (kept.map (·.2)).sum }

/-- One sound line of a makeready: its sums, its phase, and the reference after the last grey line. -/
def Dev.makereadyLine (d : Dev) (ch : Nat) (flat : List Nat) (m : Makeready) : Dev :=
  let m := if m.phase = 2 then { m with black := addStats m.black flat }
    else if m.phase = 4 then { m with grey := addStats m.grey flat } else m
  if m.left > 1 then d.updChan ch (fun c => { c with makeready := some { m with left := m.left - 1 } })
  else if m.phase < 4 then d.updChan ch (fun c => { c with makeready := some (d.atPhase ch m (m.phase + 1)) })
  else
    (d.updChan ch (fun c => { c with makeready := none, nextRef := some (d.makeReference ch m), pagesSince := 0 })).bump
      (ckey ch 6 6)

/-- The line's makeready, if any: a repaired line abandons it (R142). -/
def Dev.makereadyStep (d : Dev) (ch : Nat) (repaired : Bool) (ss : List (List Nat)) : Dev :=
  match (d.chan ch).makeready with
  | none => d
  | some m =>
    if repaired then d.updChan ch (fun c => { c with makeready := none }) else d.makereadyLine ch ss.flatten m

/-- A reference becomes active (R142, R145): its counters and source, REF_AGE 0, drift factor 1.0. -/
def Dev.setReference (d : Dev) (ch : Nat) (r : Reference) : Dev :=
  ((((((d.updChan ch (fun c => { c with ref := r, driftRaised := false })).wr (ckey ch 7 1) r.source).wr (ckey ch 7 3) 0).wr (ckey ch 4 4)
    32768).wr (ckey ch 6 8) r.defects).wr (ckey ch 6 9) r.noisy).wr (ckey ch 6 10) r.dust

/-- The stored reference, or the default one, becomes active (R142: outside Press, and after a leave). -/
def Dev.baseReference (d : Dev) (ch : Nat) : Dev :=
  (d.updChan ch (fun c => { c with nextRef := none, makeready := none, wantMakeready := false })).setReference ch
    ((d.chan ch).storedRef.getD .default)

/-- A reference now stands in the parameter store; outside Press it becomes the active one (R142). -/
def Dev.storedReference (d : Dev) (ch : Nat) (r : Reference) : Dev :=
  let d := d.updChan ch (fun c => { c with storedRef := some { r with source := 1 } })
  if d.stage = 3 then d else d.baseReference ch

/-- A gap begins (R139, R159): 3001h and DRIFT_ENV are taken, and a makeready is wanted when the gap qualifies. -/
def Dev.gapBegins (d : Dev) (ch : Nat) : Dev :=
  let d := d.latchCfg ch
  if d.stage = 3 ∧ (d.chan ch).reading ∧ (d.chan ch).makeready.isNone then
    d.updChan ch (fun c =>
      { c with firstGap := false,
               wantMakeready := d.cfg ch 10 ≠ 0 && (c.wantMakeready || c.firstGap || c.pagesSince ≥ d.cfg ch 10) })
  else d

/-! ## Skew (R150, R151) -/

/-- n·Σu² − (Σu)² and n·Σuy − Σu·Σy of a side's points. -/
def sumsOf (pts : List (Nat × Nat)) : Int × Int :=
  let n := (pts.length : Int)
  let su := (((pts.map (·.1)).sum : Nat) : Int)
  let sy := (((pts.map (·.2)).sum : Nat) : Int)
  let suu := (((pts.map (fun p => p.1 * p.1)).sum : Nat) : Int)
  let suy := (((pts.map (fun p => p.1 * p.2)).sum : Nat) : Int)
  (n * suu - su * su, n * suy - su * sy)

/-- A side's contribution (Sxx, Sxy), exact; none when it does not qualify. -/
def skewSide (minPts : Nat) (pts : List (Nat × Nat)) : Option (Rat × Rat) :=
  if pts.length < minPts ∨ pts.length = 0 ∨ (sumsOf pts).1 = 0 then none
  else some (mkRat (sumsOf pts).1 pts.length, mkRat (sumsOf pts).2 pts.length)

/-- tan of the slope t = m · A · PIXEL_PITCH / LINE_PITCH; none when no side qualifies. -/
def skewT (minPts a pix lin : Nat) (left right : List (Nat × Nat)) : Option Rat :=
  match skewSide minPts left, skewSide minPts right with
  | none, none => none
  | some l, none => some (l.2 / l.1 * (a * pix : Nat) / (lin : Nat))
  | none, some r => some (r.2 / r.1 * (a * pix : Nat) / (lin : Nat))
  | some l, some r => some ((l.2 + r.2) / (l.1 + r.1) * (a * pix : Nat) / (lin : Nat))

/-- Terms of the arctangent series for 0 ≤ x ≤ 1/2 in units of 2^-96: Σ (−1)^k x^(2k+1)/(2k+1), n terms. -/
def atanSeries (x2 : Nat) : Nat → Nat → Nat → Int
  | 0, _, _ => 0
  | n + 1, k, p => (if k % 2 = 0 then (1 : Int) else -1) * (p / (2 * k + 1) : Nat) + atanSeries x2 n (k + 1) (p * x2 / 2 ^ 96)

/-- atan of x / 2^96 for x ≤ 2^95, in units of 2^-96. -/
def atanSmall (x : Nat) : Int := atanSeries (x * x / 2 ^ 96) 60 0 x

/-- Pi in units of 2^-96, from Machin's formula. -/
def pi96 : Int := 16 * atanSmall (2 ^ 96 / 5) - 4 * atanSmall (2 ^ 96 / 239)

/-- atan of p/q ≥ 0 in units of 2^-96: reduced by atan t = π/2 − atan 1/t and atan t = atan 1/2 + atan (2t−1)/(2+t). -/
def atan96 (p q : Nat) : Int :=
  let small (p q : Nat) : Int :=
    if 2 * p ≤ q then atanSmall (p * 2 ^ 96 / q)
    else atanSmall (2 ^ 95) + atanSmall ((2 * p - q) * 2 ^ 96 / (2 * q + p))
  if p ≤ q then small p q else pi96 / 2 - small q p

/-- (18,000 / π) · atan t, rounded to the nearest integer: t is 0 or the value is no tie (R150). -/
def skewOf (t : Rat) : Int :=
  let v := (2 * 18000 * atan96 t.num.natAbs t.den + pi96) / (2 * pi96)
  if t.num < 0 then -v else v

end Sys2Proof.Machine
end

