-- ==== Sys2Proof/Machine/Lines.lean ====
section
/-! DEFINITION. What becomes of a shaded line (R134 to R158, R441): repair, edges, page sides, bands, raw page buffers and
pass-through records. -/

namespace Sys2Proof.Machine

/-! ## Page sides -/

/-- A page side takes the next PAGE_SEQ of a ring (R11) and its reserve where the space is free (R356). -/
def Dev.newPage (d : Dev) (ring : Nat) (f : PageSide → PageSide) : Dev :=
  let x := d.ring ring
  let p := f (PageSide.blank ring x.counter)
  (({ d with pages := d.pages ++ [p] }).setRing ring { x with counter := (x.counter + 1) % 2 ^ 32 }).takeReserve p

/-- H_B of the active plate set: ROWS of word 2 of its band template (R205). -/
def Dev.bandHeight (d : Dev) : Nat :=
  match d.activeSet with
  | some ps => max 1 (bandHeightOf ps)
  | none => 1

/-- Has the page side every band committed, with no layout finish queued or done (Table 1-1)? -/
def Dev.finishDue (d : Dev) (p : PageSide) : Bool :=
  p.bandsTotal = some p.bandsCommitted && !p.layoutDone && p.bare.isNone &&
    !d.formes.any (fun f => f.kind = 1 && f.pages.any (fun q => p.is q.1 q.2))

/-- Queue a page side's layout finish forme once it is due. -/
def Dev.tryFinish (d : Dev) (ring seq : Nat) : Dev :=
  match d.page? ring seq with
  | some p =>
    if d.finishDue p then
      d.enqueue { Forme.blank 1 with pages := [(ring, seq)], items := p.bandsTotal.getD 1, entryTime := p.entryTime }
    else d
  | none => d

/-- A band is complete and reported to the job scheduler: its layout band forme is queued (R152). -/
def Dev.bandComplete (d : Dev) (ring seq : Nat) : Dev :=
  match d.page? ring seq with
  | some p =>
    let d := d.updPage ring seq (fun q => { q with bandsReported := q.bandsReported + 1 })
    if p.bare.isSome then d
    else d.enqueue { Forme.blank 0 with pages := [(ring, seq)], items := 1, band := p.bandsReported, entryTime := p.entryTime }
  | none => d

/-! ## The band ring (R152, R153) -/

/-- Slots of a channel's band ring: B. -/
def Dev.ringSlots (d : Dev) (ch : Nat) : Nat :=
  if d.cget ch 5 3 = 0 then 0 else d.rdp (ckey ch 5 2) / (d.cget ch 5 3 * d.linePitch ch)

/-- Do all groups of a galley range have the resident class (R101, R153)? -/
def Dev.residentRange (d : Dev) (a n : Nat) : Bool :=
  (List.range ((a % dieBytes + n - 1) / 2 ^ 19 + 1 - a % dieBytes / 2 ^ 19)).all (fun i =>
    d.groupUse (a / dieBytes) (a % dieBytes / 2 ^ 19 + i) = 1)

/-- The checks of R153. -/
def Dev.ringFits (d : Dev) (ch : Nat) : Bool :=
  let a := d.rdp (ckey ch 5 1)
  let n := d.rdp (ckey ch 5 2)
  n ≠ 0 && inGalley (a + n - 1) && a / dieBytes = (a + n - 1) / dieBytes && d.residentRange a n &&
    d.rd 0x2504_02 ≠ a / dieBytes + 1 && d.cget ch 5 3 = d.bandHeight && 2 ≤ d.ringSlots ch

/-- BAND_RING_CHECK: a failed check raises 020Bh once (R153). -/
def Dev.ringCheck (d : Dev) (ch : Nat) : Dev :=
  let ok := d.ringFits ch
  let d := d.updChan ch (fun c => { c with ringChecked := true, ringOk := ok })
  if ok then d else d.chanStatus ch 0x020B true

/-- A change of imposition without an activation: whether each checked ring may be used follows the dies and groups now in
force, without a status (DESIGN CHOICE, log entry 135). -/
def Dev.ringsAgain (d : Dev) : Dev :=
  (List.range 4).foldl (fun d ch => if (d.chan ch).ringChecked then d.updChan ch (fun c => { c with ringOk := d.ringFits ch }) else d) d

/-- At Press entry and at each activation the enabled channels' rings are checked; a channel enabled later at its first
band. -/
def Dev.ringChecks (d : Dev) : Dev :=
  (List.range 4).foldl (fun d ch =>
    let d := d.updChan ch (fun c => { c with ringChecked := false })
    if d.chanOn ch then d.ringCheck ch else d) d

/-- The lowest free band slot. -/
def Dev.freeSlot (d : Dev) (ch : Nat) : Option Nat :=
  (List.range (d.ringSlots ch)).find? (fun n => !(d.chan ch).slots.any (fun s => s.1 = n))

/-- A band begins: it takes a slot of the ring, or falls back to the pool (R153). -/
def Dev.startBand (d : Dev) (ch ring seq band : Nat) : Dev :=
  let d := if (d.chan ch).ringChecked then d else d.ringCheck ch
  match (if (d.chan ch).ringOk then d.freeSlot ch else none) with
  | some n => d.updChan ch (fun c => { c with bandSlot := some n, slots := c.slots ++ [(n, ring, seq, band)] })
  | none =>
    ((d.updChan ch (fun c => { c with bandSlot := none })).updPage ring seq
      (fun p => { p with poolBands := p.poolBands ++ [band] })).bump (ckey ch 6 12)

/-! ## Storing a line (R152, R154, Tables 7-4, 7-5) -/

/-- The trailer of a stored line. -/
def trailer (sl : ShadedLine) (index : Nat) : List Byte :=
  leBytes 64 (sl.crc + 2 ^ 32 * (index % 2 ^ 32) + 2 ^ 64 * flag sl.repaired + 2 ^ 65 * flag sl.stall)

/-- Write a stored line into its band slot and its raw page buffer. -/
def Dev.writeLine (d : Dev) (ch : Nat) (p : PageSide) (sl : ShadedLine) (index : Nat) : Dev :=
  let bs := sl.bytes ++ trailer sl index
  let pitch := d.linePitch ch
  let d := match (d.chan ch).bandSlot with
    | some n => d.put (d.rdp (ckey ch 5 1) + (n * d.cget ch 5 3 + index % d.bandHeight) * pitch) bs
    | none => d
  if p.rawBytes = 0 then d else d.put (p.rawAddr + 128 + index * pitch) bs

/-- What a channel keeps of a stored line for the measurement record. -/
def Dev.noteLine (d : Dev) (ch : Nat) (sl : ShadedLine) (index : Nat) : ChanSt → ChanSt := fun c =>
  let margin := d.cget ch 3 6
  let c := match sl.paper with
    | some (l, r) =>
      { c with leftMin := if c.stored = 0 then l else min c.leftMin l, rightMax := max c.rightMax r,
               points := if margin ≤ index ∧ (index - margin) % max 1 (d.cget ch 3 7) = 0 then
                   c.points ++ [SkewPt.mk index (if l > 0 then some l else none) (if r + 1 < d.pixelsOut ch then some r else none)]
                 else c.points }
    | none => c
  { c with stored := c.stored + 1, lastTime := sl.time, repairs := if sl.repaired then c.repairs + 1 else c.repairs,
           scanStatus := if c.scanStatus = 0 then sl.status else c.scanStatus }

/-- What the stops for line space before a stored line mean for its page side (R176): they lie within it where a line of it
stands before them, and the first line after a resume gives STALL_LINE. -/
def PageSide.stallAt (p : PageSide) (sl : ShadedLine) (index : Nat) : PageSide :=
  if index = 0 then p
  else
    { p with stalled := p.stalled || decide (0 < sl.stops), stallCount := (p.stallCount + sl.stops) % 65536,
             stallLine := if sl.stall ∧ p.stallLine = 0 then index else p.stallLine }

/-- Store one line of the page side: not beyond MAX_PAGE_LINES (R149). -/
def Dev.storeLine (d : Dev) (ch : Nat) (sl : ShadedLine) : Dev :=
  let index := (d.chan ch).stored
  match (d.chan ch).page with
  | none => d
  | some pg =>
    if index ≥ d.maxLines ch then d
    else
      let d := if index % d.bandHeight = 0 then d.startBand ch pg.1 pg.2 (index / d.bandHeight) else d
      match d.page? pg.1 pg.2 with
      | none => d
      | some p =>
        let d := d.writeLine ch p sl index
        let d := d.updChan ch (d.noteLine ch sl index)
        let d := if sl.repaired then d.wr (ckey ch 6 14) pg.2 else d
        let d := d.updPage pg.1 pg.2 (fun q => q.stallAt sl index)
        if (index + 1) % d.bandHeight = 0 then d.bandComplete pg.1 pg.2 else d

/-- Store the lines held, once the page side has its buffer. -/
def Dev.storeHeld (d : Dev) (ch : Nat) : Dev :=
  let d := d.grabBuffer ch
  match (d.chan ch).page with
  | none => d
  | some pg =>
    match d.page? pg.1 pg.2 with
    | none => d
    | some p =>
      if p.rawBytes = 0 then d
      else (d.each (d.chan ch).held (fun d sl => d.storeLine ch sl)).updChan ch (fun c => { c with held := [] })

/-! ## The end of a page side (R148 to R151, R154, R178) -/

/-- Sample points that count: those up to i1 − SKEW_MARGIN (R150). -/
def skewPoints (last margin : Nat) (pts : List SkewPt) : List (Nat × Nat) × List (Nat × Nat) :=
  let ps := pts.filter (fun p => p.u + margin ≤ last)
  (ps.filterMap (fun p => p.left.map (fun y => (p.u, y))), ps.filterMap (fun p => p.right.map (fun y => (p.u, y))))

/-- SKEW with the status it raises: 0207h where no side qualifies, 020Ah beyond ±8° (R150, R151). -/
def Dev.skewResult (d : Dev) (ch : Nat) (pts : List (Nat × Nat) × List (Nat × Nat)) : Int × Nat :=
  match skewT (d.cget ch 3 8) (d.avg ch) (d.cget ch 2 4) (d.cget ch 2 5) pts.1 pts.2 with
  | none => (0, 0x0207)
  | some t =>
    let v := skewOf t
    if v > 800 then (800, 0x020A) else if v < -800 then (-800, 0x020A) else (v, 0)

/-- Points of a side that qualifies. -/
def usedPoints (minPts : Nat) (pts : List (Nat × Nat)) : Nat := if (skewSide minPts pts).isSome then pts.length else 0

/-- The page measurement record (Table 7-6). -/
def Dev.measurement (d : Dev) (ch : Nat) (p : PageSide) (pts : List (Nat × Nat) × List (Nat × Nat)) : List Byte :=
  let c := d.chan ch
  leBytes 128 (packFields
    [(0, 509), (flag (d.cget ch 2 2 = 16), 1), (d.avg ch - 1, 2), (if d.planes ch = 3 then 3 else 1, 2), (flag c.refOld, 1),
     (flag c.truncated, 1), (flag p.stalled, 1), (p.side, 1), (ch, 2), (0, 8), (c.repairs, 16),
     (usedPoints (d.cget ch 3 8) pts.2, 16), (usedPoints (d.cget ch 3 8) pts.1, 16), (c.scanStatus, 16),
     (d.pixelsOut ch, 16), (c.rightMax, 16), (c.leftMin, 16), (unsigned 16 p.skew, 16), (p.stallCount, 16),
     (p.stallLine, 32), (pairOf (d.linePitch ch), 64), (pairOf p.lineCount, 64), (pairOf p.seq, 64), (c.leadTime, 64),
     (p.edgeTime.getD 0, 64)])

/-- The edge time of a page side whose lines end: now, or for one that was cut the time of its last stored line (R148,
R149). -/
def Dev.edgeStamp (d : Dev) (ch : Nat) : Nat := if (d.chan ch).truncated then (d.chan ch).lastTime else d.now

/-- The page side's lines are all stored: its last band, edge time, skew and measurement record. -/
def Dev.finishPage (d : Dev) (ch : Nat) (pg : Nat × Nat) : Dev :=
  let n := (d.chan ch).stored
  let pts := skewPoints (n - 1) (d.cget ch 3 6) (d.chan ch).points
  let sk := d.skewResult ch pts
  let d := if n % d.bandHeight ≠ 0 then d.bandComplete pg.1 pg.2 else d
  let d := if sk.2 ≠ 0 then d.chanStatus ch sk.2 true else d
  let total := (n + d.bandHeight - 1) / d.bandHeight
  let d := d.updPage pg.1 pg.2 (fun p =>
    { p with lineCount := n, width := (d.chan ch).rightMax + 1 - (d.chan ch).leftMin, skew := sk.1,
             edgeTime := some (d.edgeStamp ch), linePitch := d.linePitch ch, bandsTotal := some total, lastBandLines := n - (total - 1) * d.bandHeight })
  match d.page? pg.1 pg.2 with
  | some p =>
    let d := if p.rawBytes = 0 then d else d.put p.rawAddr (d.measurement ch p pts)
    (d.passEdge pg.1 pg.2).tryFinish pg.1 pg.2
  | none => d

/-- The channel leaves the page side; skip is true where its lines still pass without a trailing edge. -/
def Dev.leavePage (d : Dev) (ch : Nat) (skip : Bool) : Dev :=
  d.updChan ch (fun c =>
    { c with inPage := false, page := none, skipping := skip, held := [], clear := true, stored := 0, points := [],
             leftMin := 0, rightMax := 0, repairs := 0, scanStatus := 0, truncated := false, refOld := false,
             bandSlot := none, detected := none })

/-- End the page side at its last stored line, with a trailing edge or cut by a status: 0209h at MAX_PAGE_LINES (R149),
0224h on an immediate safe-state entry (R178). -/
def Dev.closePage (d : Dev) (ch status : Nat) : Dev :=
  match (d.chan ch).page with
  | none => d.leavePage ch (status ≠ 0)
  | some pg =>
    let d := if status = 0 then d
      else ((d.updChan ch (fun c => { c with truncated := true })).bump (ckey ch 6 11)).chanStatus ch status false
    (d.finishPage ch pg).leavePage ch (status ≠ 0)

/-- The page side ends at its last stored line with a status; the non-paper lines just seen count towards the real
trailing edge (R149). -/
def Dev.endAtStored (d : Dev) (ch status : Nat) : Dev :=
  let tail := ((d.chan ch).held.reverse.takeWhile (fun l => l.paper.isNone)).reverse
  ((d.storeHeld ch).closePage ch status).updChan ch (fun c => { c with held := tail })

/-- A page side that is cut while its lines stand stopped counts the stops that no line has followed (DEDUCED from R176, log
entry 165). -/
def Dev.stopsOpen (d : Dev) (ch : Nat) : Dev :=
  let c := d.chan ch
  let n := c.stops + ((c.trigs.map (·.stops)).sum)
  match c.page with
  | some pg =>
    if n = 0 ∨ !(c.held.all (·.paper.isSome)) then d
    else d.updPage pg.1 pg.2 (fun q => { q with stalled := true, stallCount := (q.stallCount + n) % 65536 })
  | none => d

/-- R178: a page side in the transport ends at its last stored line; what follows belongs to none. -/
def Dev.cutPage (d : Dev) (ch : Nat) : Dev := if (d.chan ch).inPage then (d.stopsOpen ch).endAtStored ch 0x0224 else d

/-- R149: the page side has MAX_PAGE_LINES lines and no trailing edge. -/
def Dev.truncationDue (d : Dev) (ch : Nat) : Bool :=
  (d.chan ch).inPage && (d.chan ch).page.isSome && d.maxLines ch ≤ (d.chan ch).stored + (d.chan ch).held.length

/-- PAGE_TRUNCATED. -/
def pageTruncated (ch : Nat) (d : Dev) : Dev :=
  if d.truncationDue ch then
    ((d.endAtStored ch 0x0209).updChan ch (fun c => { c with longSteps := some 0 })).fiAll
  else d

/-! ## Edges (R148, R157, R441) -/

/-- Does the channel read, or should it: Press, no leave pending, reading not stopped? -/
def Dev.mayRead (d : Dev) : Bool := d.inPress && !d.leavePending && !d.readingStopped && d.ready 3

/-- A channel in a gap passes back to pass-through when it may read no more (R441). -/
def Dev.passBack (d : Dev) (ch : Nat) : Dev :=
  let c := d.chan ch
  if c.reading ∧ !d.mayRead ∧ !c.inPage ∧ !c.skipping then
    d.updChan ch (fun c => { c with reading := false, makeready := none, wantMakeready := false })
  else d

/-- A channel in a gap passes to reading or back to pass-through (R157, R441). -/
def Dev.modeAtGap (d : Dev) (ch : Nat) : Dev :=
  let d := d.passBack ch
  let c := d.chan ch
  if c.inPage ∨ c.skipping ∨ c.held ≠ [] then d
  else if !c.reading ∧ d.mayRead ∧ c.unres = 0 then
    (d.updChan ch (fun c => { c with reading := true, firstGap := true })).gapBegins ch
  else d

/-- What a leading edge means for the transport (R168, R170): the front channel's earliest pending sensor edge is met;
with no sensor the sheet's reservation is taken now, and page sides of the sheet that are open take their buffers. -/
def Dev.axisLead (d : Dev) (ch : Nat) : Dev :=
  match d.axisOf ch with
  | none => d
  | some ax =>
    if d.front ax = some ch then
      let d := d.updAxis ax (fun a => { a with edges := a.edges.drop 1, gap := if d.aget ax 0 10 = 255 then false else a.gap })
      if d.aget ax 0 10 = 255 ∧ d.stage = 3 then
        match d.takeSheet ax with
        | some e => e.each (d.coupled ax) Dev.storeHeld
        | none => d.updAxis ax (fun a => { a with need := a.need + 1 })
      else d
    else d

/-- A sheet's reservation that no page side will take is released (R441); a sheet fed before Press has none. -/
def Dev.unusedSheet (d : Dev) (ch : Nat) : Dev :=
  if (d.chan ch).unres > 0 then d.updChan ch (fun c => { c with unres := c.unres - 1 })
  else match d.axisOf ch with
    | some ax => d.dropSheet ax ch
    | none => d

/-- What a makeready meets at a leading edge: one that never began is skipped with 0205h, one that runs is abandoned, a
finished one becomes the active reference (R139, R142). -/
def Dev.makereadyLead (d : Dev) (ch : Nat) : Dev :=
  let d := if (d.chan ch).wantMakeready then (d.bump (ckey ch 6 7)).chanStatus ch 0x0205 true else d
  let d := d.updChan ch (fun c => { c with wantMakeready := false, makeready := none })
  match (d.chan ch).nextRef with
  | some r => (d.updChan ch (fun c => { c with nextRef := none })).setReference ch r
  | none => d

/-- One more page side read with the active reference (R142). -/
def Dev.countAge (d : Dev) (ch : Nat) : Dev :=
  (d.updChan ch (fun c => { c with pagesSince := c.pagesSince + 1, driftPage := false })).wr (ckey ch 7 3)
    (min 65535 (d.cget ch 7 3 + 1))

/-- Two page sides of a ring exchange their numbers, a before b: in the order of pages, in the formes, and where their
channels and decodes hold them. A page side whose number lies between keeps it (DESIGN CHOICE, log entry 142). -/
def Dev.swapSeq (d : Dev) (ring a b : Nat) : Dev :=
  let other (s : Nat) : Nat := if s = a then b else if s = b then a else s
  let name (p : Nat × Nat) : Nat × Nat := if p.1 = ring then (p.1, other p.2) else p
  let pages := d.pages.map (fun p =>
    if p.is ring a then ((d.page? ring b).map (fun q => { q with seq := a })).getD p
    else if p.is ring b then ((d.page? ring a).map (fun q => { q with seq := b })).getD p
    else p)
  let decodes := d.batch.decodes.map (fun x => { x with seq := (name (x.ring, x.seq)).2 })
  let d := { d with pages := pages, formes := d.formes.map (fun f => { f with pages := f.pages.map name }),
                    batch := { d.batch with images := d.batch.images.map name, decodes := decodes } }
  (List.range 4).foldl (fun d ch =>
    let last := d.cget ch 6 14
    let d := if (d.chan ch).page = some (ring, last) then d.wr (ckey ch 6 14) (other last) else d
    d.updChan ch (fun c =>
      { c with page := c.page.map name,
               slots := c.slots.map (fun s => (s.1, (name (s.2.1, s.2.2.1)).1, (name (s.2.1, s.2.2.1)).2, s.2.2.2)) })) d

/-- The page sides of higher channels that have the detecting line trigger of this channel's, latest number first. -/
def Dev.tied (d : Dev) (ch ax ring : Nat) : List Nat :=
  (((List.range 4).filter (fun o => ch < o && d.axisOf o = some ax && (d.chan o).detected.isSome &&
    (d.chan o).detected = (d.chan ch).detected)).filterMap (fun o =>
      ((d.chan o).page.filter (fun p => p.1 = ring)).map (·.2))).reverse

/-- The images of a ring that took their numbers at this device time, latest number first. -/
def Dev.tiedImages (d : Dev) (ring : Nat) : List Nat :=
  ((d.pages.filter (fun p => p.image && p.ring = ring && p.entryTime = d.now && !p.released)).map (·.seq)).reverse

/-- Of page sides with one detecting line trigger the lower channel takes the lower number (R11), and a transport takes a lower
one than an image of the same device time (R348). -/
def Dev.orderTies (d : Dev) (ch : Nat) : Dev :=
  match (d.chan ch).page, d.axisOf ch with
  | some pg, some ax => (d.tied ch ax pg.1 ++ d.tiedImages pg.1).foldl (fun d s =>
      match (d.chan ch).page with
      | some q => d.swapSeq pg.1 s q.2
      | none => d) d
  | _, _ => d

/-- The page side of a leading edge is numbered (R11, R148, R161, R357). -/
def Dev.numberPage (d : Dev) (ch : Nat) : Dev :=
  let ax := (d.axisOf ch).getD 0
  let ring := d.aget ax 0 14
  let seq := (d.ring ring).counter
  let d := d.newPage ring (fun p =>
    { p with image := false, channel := ch, side := flag (bit (d.aget ax 0 3) ch), jobTag := d.rd (dkey 0x4060 (ax + 1)),
             reqSlot := d.rd (dkey (0x4030 + ring) 8), entryTime := d.now,
             along := d.on? (dkey (0x3810 + ch) 3) })
  let n := (d.axis ax).triggers - (d.chan ch).trigs.length
  (d.updChan ch (fun c => { c with page := some (ring, seq), leadTime := d.now, detected := some n })).orderTies ch

/-- 0206h once for a page side read with a reference older than MAX_REF_AGE (R142). -/
def Dev.refAge (d : Dev) (ch : Nat) : Dev :=
  if d.cget ch 7 3 > d.cfg ch 11 then (d.updChan ch (fun c => { c with refOld := true })).chanStatus ch 0x0206 true else d

/-- A leading edge that opens a page side for reading. -/
def Dev.openPage (d : Dev) (ch : Nat) : Dev :=
  (((((d.makereadyLead ch).countAge ch).numberPage ch).bump (ckey ch 6 2)).storeHeld ch).refAge ch

/-- LEADING_EDGE (R148): the held lines are lines 0 on of the page side. -/
def Dev.leadEdge (d : Dev) (ch : Nat) : Dev :=
  let d := (d.axisLead ch).updChan ch (fun c => { c with inPage := true, clear := false, stored := 0 })
  if (d.chan ch).reading ∧ d.mayRead then d.openPage ch
  else ((d.unusedSheet ch).makereadyLead ch).updChan ch (fun c => { c with held := [] })

/-- What a trailing edge means for the transport. -/
def Dev.axisTrail (d : Dev) (ch : Nat) : Dev :=
  match d.axisOf ch with
  | some ax =>
    if d.aget ax 0 10 = 255 ∧ d.front ax = some ch then d.updAxis ax (fun a => { a with gap := true }) else d
  | none => d

/-- TRAILING_EDGE (R148): the undecided lines are gap lines, and a gap begins. -/
def Dev.trailEdge (d : Dev) (ch : Nat) : Dev :=
  let d := (d.updChan ch (fun c => { c with held := [], longSteps := none })).closePage ch 0
  ((d.axisTrail ch).modeAtGap ch).gapBegins ch

/-- What the edge rules make of one line. -/
inductive Fate where
  | none | lead | trail
  deriving DecidableEq, Repr

/-- Non-paper lines at the end of the held ones. -/
def trailing (held : List ShadedLine) : Nat := (held.reverse.takeWhile (fun l => l.paper.isNone)).length

/-- Leading edge, trailing edge or neither at this line (R148, R149). -/
def Dev.fate (d : Dev) (ch : Nat) (paper : Bool) : Fate :=
  let c := d.chan ch
  let n := d.cget ch 3 5
  if c.inPage ∨ c.skipping then (if !paper ∧ trailing c.held + 1 ≥ n then .trail else .none)
  else if paper ∧ c.clear ∧ c.held.length + 1 ≥ n then .lead
  else .none

/-- A line outside a page side that brings no leading edge: held while it could begin one, else a gap line. -/
def Dev.gapLine (d : Dev) (ch : Nat) (sl : ShadedLine) : Dev :=
  if sl.paper.isSome then
    (if (d.chan ch).clear then d.updChan ch (fun c => { c with held := c.held ++ [sl] }) else d)
  else (d.updChan ch (fun c => { c with held := [], clear := true })).modeAtGap ch

/-- A line inside a page side, or after a cut, that brings no trailing edge: a paper line decides the lines before
it. -/
def Dev.pageLine (d : Dev) (ch : Nat) (sl : ShadedLine) : Dev :=
  let keep := (d.chan ch).inPage && (d.chan ch).page.isSome
  let d := d.updChan ch (fun c => { c with held := if sl.paper.isSome ∧ !keep then [] else c.held ++ [sl] })
  if sl.paper.isSome ∧ keep then d.storeHeld ch else d

/-- The edge rules for one line. -/
def Dev.edgeStep (d : Dev) (ch : Nat) (sl : ShadedLine) (f : Fate) : Dev :=
  match f with
  | .lead => (d.updChan ch (fun c => { c with held := c.held ++ [sl] })).leadEdge ch
  | .trail => d.trailEdge ch
  | .none => if (d.chan ch).inPage ∨ (d.chan ch).skipping then d.pageLine ch sl else d.gapLine ch sl

/-! ## Pass-through records (R156, Table 7-7) -/

/-- Free bytes of the line FIFO. -/
def Dev.fifoFree (d : Dev) (ch : Nat) : Nat := 2 ^ 20 - ((d.chan ch).fifo.map List.length).sum

/-- A pass-through record. -/
def Dev.passRecord (d : Dev) (ch : Nat) (sl : ShadedLine) (number : Nat) (f : Fate) : List Byte :=
  let raw := d.cget ch 2 3 = 1
  let data := if raw then sl.raw else sl.bytes
  let confirm := d.cget ch 3 5
  leBytes 64 (packFields
    [(0, 290), ((match f with | .lead => confirm - 1 | .trail => confirm | .none => 0), 4),
     (if d.planes ch = 3 then 3 else 1, 2), (flag (raw || d.cget ch 2 2 = 16), 1), (flag sl.repaired, 1), (flag raw, 1),
     (flag sl.stall, 1), (flag (f = .trail), 1), (flag (f = .lead), 1), (ch, 2), (sl.status, 16),
     (if raw then d.pixels ch else d.pixelsOut ch, 16), (d.passPlane ch, 16), (if raw then crc32c data else sl.crc, 32),
     (d.now, 64), (pairOf number, 64)]) ++ data

/-! ## Line room (R155, R174) -/

/-- Free line room F of a channel; none where it is unbounded. -/
def Dev.freeRoom (d : Dev) (ch : Nat) : Option Nat :=
  let c := d.chan ch
  if !c.reading then some (d.fifoFree ch / d.passBytes ch - c.trigs.length)
  else match c.page with
    | none => none
    | some pg => match d.page? pg.1 pg.2 with
      | some p => if p.rawBytes = 0 then some 0 else none
      | none => none

/-- Line space low (R155). -/
def Dev.spaceLow (d : Dev) (ch : Nat) : Bool :=
  if (d.chan ch).reading then d.freeRoom ch = some 0 else d.fifoFree ch < 2 * d.passBytes ch

/-! ## A line is complete (R134, R136 to R138, R158) -/

/-- The framing errors of a line: its words with a bad FR pattern, and a line trigger before it was complete (R131, R134). -/
def Dev.framingErrors (d : Dev) (ch : Nat) (line : LineIn) : Nat :=
  badFrames (d.cget ch 0 1) line.words + flag ((((d.chan ch).trigs.head?).any (·.late)) || !d.lineWhole ch line)

/-- The status of a line: framing error, raw CRC error, writer CRC mismatch, or sound (R131, R134, R136 to R138); of
several, in this order (DESIGN CHOICE, log entry 151). -/
def Dev.lineStatus (d : Dev) (ch : Nat) (line : LineIn) : Nat :=
  if d.framingErrors ch line ≠ 0 then 0x0202
  else if d.rawCrcBad ch line then 0x0203
  else if line.writerCrcBad then 0x0204
  else 0

/-- The line as it goes on: shaded, or the copy that repairs it (R138). -/
def Dev.lineOf (d : Dev) (ch : Nat) (ss : List (List Nat)) (status : Nat) : ShadedLine :=
  if status = 0 then d.shaded ch ss
  else { ((d.chan ch).lastGood.getD (d.zeroLine ch)) with repaired := true, status := status, time := d.now }

/-- The counters and the charge of a repaired line: each of its framing errors in LINE_ERRORS, a repair of the other two
statuses in LINE_CRC_ERRORS (R134, R138; DESIGN CHOICE, log entry 152). -/
def Dev.countRepair (d : Dev) (ch status framing : Nat) : Dev :=
  if status = 0 then d
  else
    let d := if status = 0x0202 then d.bumpBy (ckey ch 6 3) framing else d.bump (ckey ch 6 4)
    ((d.bump (ckey ch 6 5)).wr (ckey ch 6 13) status).charge status 2 ch

/-- A line counts: LINES, its number, the trigger it answers. -/
def Dev.countLine (d : Dev) (ch : Nat) : Dev :=
  (d.bump (ckey ch 6 1)).updChan ch (fun c =>
    { c with lineNo := (c.lineNo + 1) % 2 ^ 32, trigs := c.trigs.drop 1 })

/-- Is the lamp off for the line: phases 1 and 2 of makeready (R147)? -/
def Dev.darkLine (d : Dev) (ch : Nat) : Bool :=
  match (d.chan ch).makeready with
  | some m => m.phase ≤ 2
  | none => false

/-- The line goes where it belongs: edges, page side, pass-through record of a channel that is not reading. -/
def Dev.placeLine (d : Dev) (ch : Nat) (sl : ShadedLine) (number : Nat) : Dev :=
  let d := d.passBack ch
  let f := d.fate ch sl.paper.isSome
  let pt := !(d.chan ch).reading
  let d := d.edgeStep ch sl f
  if pt then d.updChan ch (fun c => { c with fifo := c.fifo ++ [d.passRecord ch sl number f] }) else d

/-- A line as the edge rules and the page side see it: with the marks of its line trigger, and not classified where the lamp is
off. -/
def Dev.marked (d : Dev) (ch : Nat) (base : ShadedLine) : ShadedLine :=
  let t := (d.chan ch).trigs.head?
  { base with stall := t.any (·.stall), stops := (t.map (·.stops)).getD 0,
              paper := if d.darkLine ch then none else base.paper }

/-- The line's makeready: one that meets a leading edge at this line is abandoned, its last grey line included (R142, R147). -/
def Dev.makereadyAt (d : Dev) (ch status : Nat) (ss : List (List Nat)) (sl : ShadedLine) : Dev :=
  if d.fate ch sl.paper.isSome = .lead then d.updChan ch (fun c => { c with makeready := none })
  else d.makereadyStep ch (status ≠ 0) ss

/-- SCAN_LINE_COMPLETE. -/
def Dev.takeLine (d : Dev) (ch : Nat) (line : LineIn) : Dev :=
  let status := d.lineStatus ch line
  let ss := d.samples ch line
  let base := d.lineOf ch ss status
  let sl := d.marked ch base
  let number := (d.chan ch).lineNo
  let good := if status = 0 then some base else (d.chan ch).lastGood
  let d := (d.countRepair ch status (d.framingErrors ch line)).countLine ch
  let d := if status = 0 then d.drift ch ss else d
  let d := (d.makereadyAt ch status ss sl).updChan ch (fun c => { c with lastGood := good })
  d.placeLine ch sl number

/-- The line of a channel that takes lines (R130), a page side at MAX_PAGE_LINES ended first (R149). -/
def scanLineComplete (ch : Nat) (line : LineIn) (d : Dev) : Dev :=
  if d.run = .on ∧ d.takes ch then ((pageTruncated ch d).takeLine ch line).fiAll else d

end Sys2Proof.Machine
end

