-- ==== Sys2Proof/Machine/Transport.lean ====
section
/-! DEFINITION. Line-coupled transport and free axes (R161 to R179, R442). -/

namespace Sys2Proof.Machine

/-! ## The safe state (R177, R178, R442) -/

/-- A cause that keeps an axis in the safe state: standing (Chase or recovery, AXn_FLT_N low, protective shutdown, ENABLE
0) or latched. -/
def Dev.standingCause (d : Dev) (ax : Nat) : Bool :=
  (d.stage ≠ 2 && d.stage ≠ 3) || (d.axis ax).fltLow || d.power.shutdown || !d.on? (akey ax 0 15)

def Dev.latchedCause (d : Dev) (ax : Nat) : Bool :=
  (d.axis ax).faultLatched || (d.axis ax).jamLatched || (d.axis ax).timeoutLatched

/-- The axis leaves the safe state, at rest, at the first moment without a cause (R442). Pending sensor edges and sheet
reservations stay as they are (R168, R170; log entry 21); a sheet that still waits for its reservation keeps the axis stopped
(R172). -/
def Dev.tryLeave (d : Dev) (ax : Nat) : Dev :=
  if d.axState ax = 6 ∧ !d.standingCause ax ∧ !d.latchedCause ax then
    ((d.updAxis ax (fun a => { a with rest := true, index := 0, decel := false, reason := 0, resumed := false })).setAxState
      ax (if (d.axis ax).need = 0 then 0 else 5)).fiUpdate ax
  else d

/-- STEP low, EN inactive, FIx asserted; an immediate entry cuts the page sides in the transport (R177, R178). -/
def Dev.enterSafe (d : Dev) (ax : Nat) (immediate : Bool) : Dev :=
  if d.axState ax = 6 then d
  else
    let a := d.axis ax
    let d := if immediate ∧ !a.rest then d.bump (akey ax 5 4) else d
    let d := if immediate ∧ d.aget ax 0 1 = 1 then d.each (d.coupled ax) Dev.cutPage else d
    ((d.updAxis ax (fun a => { a with rest := true, index := 0, decel := false, reason := 0, resumed := false })).setAxState
      ax 6).fiUpdate ax

/-- Every axis into the safe state at once (R177: Chase, protective shutdown). -/
def Dev.allSafe (d : Dev) : Dev := (List.range 4).foldl (fun d ax => d.enterSafe ax true) d

/-- Clear the latched causes of an axis (R442). -/
def Dev.clearLatched (d : Dev) (ax : Nat) : Dev :=
  d.updAxis ax (fun a => { a with faultLatched := false, jamLatched := false, timeoutLatched := false })

/-! ## Stops -/

/-- Ramp index of the cruise (R164). -/
def Dev.cruise (d : Dev) (ax : Nat) : Nat := d.aget ax 1 1 - 1

/-- A stop for line space on a channel that takes lines: whether it lies in a page side the lines around it say (R176; see
`PageSide.stallAt`). -/
def Dev.markStall (d : Dev) (ch : Nat) : Dev :=
  if d.takes ch then d.updChan ch (fun c => { c with stops := c.stops + 1 }) else d

/-- An axis stops: for line space (STALLS), for a reservation, or into the safe state (R172, R176, R177). -/
def Dev.stopAxis (d : Dev) (ax reason : Nat) : Dev :=
  let d := d.updAxis ax (fun a => { a with rest := true, index := 0, decel := false, reason := reason, stopTime := d.now,
                                           stallRaised := false })
  if reason = 3 then (d.enterSafe ax false).tryLeave ax
  else if reason = 2 then d.setAxState ax 5
  else ((d.each (d.coupled ax) Dev.markStall).bump (akey ax 5 3)).setAxState ax 4

/-- STATE of an axis that moves on from ramp index k (R164, R179). -/
def Dev.movingState (d : Dev) (ax k : Nat) : Nat := if k + 1 ≥ d.cruise ax then 2 else 1

/-- A deceleration begins; from ramp index 0 the stop distance is 0 (R164). One already begun goes on. -/
def Dev.decelerate (d : Dev) (ax reason : Nat) : Dev :=
  if (d.axis ax).decel then (if reason = 3 then d.updAxis ax (fun a => { a with reason := 3 }) else d)
  else if (d.axis ax).index = 0 then d.stopAxis ax reason
  else (d.updAxis ax (fun a => { a with decel := true, reason := reason })).setAxState ax 3

/-- Start again from index 0. -/
def Dev.startAxis (d : Dev) (ax : Nat) (resumed : Bool) : Dev :=
  (d.updAxis ax (fun a => { a with rest := true, index := 0, decel := false, reason := 0, resumed := resumed })).setAxState
    ax (if d.cruise ax = 0 then 2 else 1)

/-! ## A line step (R162, R164, R174, R175) -/

/-- Ramp index of the next step. -/
def Dev.nextIndex (d : Dev) (ax : Nat) : Nat :=
  let a := d.axis ax
  if a.rest then 0 else if a.decel then a.index - 1 else min (a.index + 1) (d.cruise ax)

/-- Coupled channels that take lines. -/
def Dev.taking (d : Dev) (ax : Nat) : List Nat := (d.coupled ax).filter d.takes

/-- SCn_LT rises on a coupled channel that takes lines (R130, R162): the lines still outstanding have a framing error
(R134), a wanted makeready may begin (R139), the first line after a resume is marked (R176). -/
def Dev.trigger (ax : Nat) (resumed : Bool) (g : Nat) (d : Dev) (ch : Nat) : Dev :=
  if d.takes ch then
    ((d.emit (.lineTrigger ch)).updChan ch (fun c =>
      { c with trigs := c.trigs.map (fun t => { t with late := true }) ++ [⟨false, resumed, c.stops⟩], stops := 0,
               longSteps := c.longSteps.map (· + 1) })).beginMakeready ch (if d.axisOf ch = some ax then g else 0)
  else d

/-- Does the free line room call for a stop at ramp index k (R174)? -/
def Dev.roomShort (d : Dev) (ax k : Nat) : Bool :=
  (d.taking ax).any (fun ch => match d.freeRoom ch with | some f => f ≤ k + d.aget ax 1 2 | none => false)

/-- After the step at index k: a deceleration begins, goes on, or ends. -/
def Dev.afterStep (d : Dev) (ax k : Nat) : Dev :=
  let a := d.axis ax
  if a.decel then (if k = 0 then d.stopAxis ax a.reason else d.setAxState ax 3)
  else if d.roomShort ax k then d.decelerate ax 1
  else d.setAxState ax (d.movingState ax k)

/-- A line step is taken: PULSES_PER_LINE pulses forward, and the line trigger at the last one's edge (R162). -/
def Dev.takeStep (d : Dev) (ax : Nat) : Dev :=
  let k := d.nextIndex ax
  let d := d.each (List.range (d.aget ax 0 4)) (fun d _ => d.emit (.stepPulse ax))
  let d := d.bump (akey ax 5 2)
  let res := (d.axis ax).resumed
  let level := d.dirLevel ax true
  let d := d.updAxis ax (fun a =>
    { a with rest := false, index := k, resumed := false, forward := true, dir := if a.rest then level else a.dir,
             triggers := a.triggers + 1 })
  (d.each (d.coupled ax) (Dev.trigger ax res (d.gapG ax))).afterStep ax k

/-- A step due while line space is low is withheld at once, at any speed (R175); an axis on its way into the safe state is
then there (R177). -/
def Dev.withhold (d : Dev) (ax : Nat) : Dev :=
  let a := d.axis ax
  ((d.bump (akey ax 5 4)).axisStatus ax 0x0222).stopAxis ax (if a.decel ∧ a.reason = 3 then 3 else 1)

/-- May a line step fall due: a line-coupled axis that neither stands stopped nor is safe? With ENABLE 0 it takes the
steps of its deceleration (R177). -/
def Dev.stepping (d : Dev) (ax : Nat) : Bool := d.run = .on && d.aget ax 0 1 = 1 && d.axState ax ≤ 3

/-- LINE_STEP. -/
def lineStep (ax : Nat) (d : Dev) : Dev :=
  if d.stepping ax then
    (if (d.taking ax).any d.spaceLow then d.withhold ax else d.takeStep ax).fiAll
  else d

/-- Take the reservations that n sheets wait for, as far as the pool can give them. -/
def Dev.takeSheets (ax : Nat) : Nat → Dev → Dev
  | 0, d => d
  | n + 1, d =>
    match d.takeSheet ax with
    | some e => Dev.takeSheets ax n (e.updAxis ax (fun a => { a with need := a.need - 1 }))
    | none => d

/-- Reservations that sheets still wait for are taken once the pool can give them (R172, R175). -/
def Dev.retrySheet (d : Dev) (ax : Nat) : Dev :=
  let e := Dev.takeSheets ax (d.axis ax).need d
  if (e.axis ax).need < (d.axis ax).need then e.each (d.coupled ax) Dev.storeHeld else d

/-- Has every channel F ≥ RESUME_LINES (R176)? -/
def Dev.roomBack (d : Dev) (ax : Nat) : Bool :=
  (d.taking ax).all (fun ch => match d.freeRoom ch with | some f => f ≥ d.aget ax 1 3 | none => true)

/-- AXIS_RESUME (R176). -/
def axisResume (ax : Nat) (d : Dev) : Dev :=
  if d.axState ax = 4 then
    let d := d.retrySheet ax
    if d.roomBack ax ∧ (d.axis ax).need = 0 then (d.startAxis ax true).fiAll else d
  else d

/-- RESERVATION_RESUME (R172). -/
def reservationResume (ax : Nat) (d : Dev) : Dev :=
  if d.axState ax = 5 then
    let d := d.retrySheet ax
    if (d.axis ax).need = 0 then (d.startAxis ax false).fiAll else d
  else d

/-- STALL_EVENT (R176): 0227h once for a stop. -/
def stallEvent (ax : Nat) (d : Dev) : Dev :=
  if d.axState ax = 4 ∧ !(d.axis ax).stallRaised then
    (d.updAxis ax (fun a => { a with stallRaised := true })).axisStatus ax 0x0227
  else d

/-! ## Document sensors (R167 to R172) -/

/-- Does a filtered level mean paper on an axis's sensor? -/
def Dev.paperLevel (d : Dev) (ax : Nat) (level : Bool) : Bool := level != bit (d.aget ax 0 12) (d.aget ax 0 10)

/-- A sheet found no reservation at the sensor (R172): 0221h and a stop in the gap. -/
def Dev.noReservation (d : Dev) (ax : Nat) : Dev :=
  let d := (d.updAxis ax (fun a => { a with need := a.need + 1 })).axisStatus ax 0x0221
  if d.axState ax = 0 then d.setAxState ax 5
  else if d.axState ax ≤ 3 then d.decelerate ax 2 else d

/-- A sensor leading edge: stamped and pending; in Press its sheet reservation is taken (R168, R170). -/
def Dev.sheetEdge (d : Dev) (ax : Nat) : Dev :=
  if (d.front ax).isNone then d
  else
    let d := d.updAxis ax (fun a => { a with edges := a.edges ++ [d.lineSteps ax] })
    if d.stage = 3 then
      let d := d.retrySheet ax
      match (if (d.axis ax).need = 0 then d.takeSheet ax else none) with
      | some e => e
      | none => d.noReservation ax
    else d.each (d.coupledOn ax) (fun d ch => d.updChan ch (fun c => { c with unres := c.unres + 1 }))

/-- One axis sees a filtered edge of its sensor, and stamps it (R167). -/
def Dev.axisEdge (ds : Nat) (level : Bool) (d : Dev) (ax : Nat) : Dev :=
  if d.aget ax 0 1 = 1 ∧ d.aget ax 0 10 = ds then
    let paper := d.paperLevel ax level
    let was := (d.axis ax).gap
    let d := d.updAxis ax (fun a => { a with gap := !paper, lastEdge := some (d.lineSteps ax, paper) })
    if paper ∧ was then d.sheetEdge ax else d
  else d

/-- SENSOR_EDGE. -/
def sensorEdge (ds : Nat) (level : Bool) (d : Dev) : Dev :=
  if d.run = .on then ((List.range 4).foldl (Dev.axisEdge ds level) d).fiAll else d

/-- A jam latches and puts the transport into the safe state at once (R169, R442). -/
def Dev.jammed (d : Dev) (ax status : Nat) : Dev :=
  (((d.bump (akey ax 5 5)).axisStatus ax status).updAxis ax (fun a => { a with jamLatched := true })).enterSafe ax true

/-- Does a transport move paper that can jam: out of the safe state, whether ENABLE still stands or has gone (R169, R177)? -/
def Dev.onPath (d : Dev) (ax : Nat) : Bool := d.run = .on && d.aget ax 0 1 = 1 && d.axState ax ≠ 6

/-- JAM: a pending edge has waited SENSOR_DIST + JAM_TOL line steps (R169). -/
def jam (ax : Nat) (d : Dev) : Dev :=
  match (d.axis ax).edges with
  | e :: _ =>
    if d.onPath ax ∧ (d.front ax).isSome ∧ d.aget ax 0 10 ≠ 255 ∧
        d.lineSteps ax ≥ e + d.aget ax 0 11 + d.rdp (akey ax 2 2) then d.jammed ax 0x0223
    else d
  | [] => d

/-- LONG_DOCUMENT_JAM: LONG_DOC_LINES line steps after a truncation without a trailing edge (R169). -/
def longDocumentJam (ax : Nat) (d : Dev) : Dev :=
  if d.onPath ax ∧
      (d.coupled ax).any (fun ch => match (d.chan ch).longSteps with | some n => d.rdp (akey ax 2 3) ≤ n | none => false)
  then d.jammed ax 0x0228
  else d

/-- DRIVER_FAULT (R177): AXn_FLT_N low for 1 µs; a protective cause, logged as an override (R299). -/
def driverFault (ax : Nat) (d : Dev) : Dev :=
  if d.run = .on then
    ((((d.overrideOpen 0x0225).axisStatus ax 0x0225).updAxis ax (fun a => { a with fltLow := true, faultLatched := true })).enterSafe
      ax true)
  else d.updAxis ax (fun a => { a with fltLow := true })

/-- An axis becomes usable once AXn_FLT_N has been high for 1 µs (R310). -/
def Dev.axisReady (d : Dev) (ax : Nat) : Dev :=
  if (d.stage = 2 ∨ d.stage = 3) ∧ !(d.axis ax).fltLow then d.setReady (8 + ax) true else d

/-- DRIVER_FAULT_RELEASE: AXn_FLT_N is high again; the fault stays latched (R442). -/
def driverFaultRelease (ax : Nat) (d : Dev) : Dev :=
  ((d.updAxis ax (fun a => { a with fltLow := false })).axisReady ax).tryLeave ax

/-- FIELD_TIMEOUT (R177): a controlled stop into the safe state, latched. -/
def fieldTimeout (ax : Nat) (d : Dev) : Dev :=
  if d.rdp (akey ax 2 5) ≠ 0 ∧ d.axState ax ≠ 6 then
    let d := (d.axisStatus ax 0x0226).updAxis ax (fun a => { a with timeoutLatched := true })
    if (d.axis ax).rest then d.enterSafe ax false else d.decelerate ax 3
  else d

/-! ## Writes of ENABLE and CLEAR_SAFE (R160, R173, R442) -/

/-- Ramp entry k. -/
def Dev.ramp (d : Dev) (ax : Nat) : List Nat := (List.range (d.aget ax 1 1)).map (fun k => d.aget ax 16 (k + 1))

/-- Does no entry of a ramp exceed the one before it? -/
def falling : List Nat → Bool
  | a :: b :: r => b ≤ a && falling (b :: r)
  | _ => true

/-- PULSES_PER_LINE · I of the cruise: r = 10^8 / den. -/
def Dev.rateDen (d : Dev) (ax : Nat) : Nat := d.aget ax 0 4 * (d.ramp ax).getLastD 0

/-- The limits of R173 that concern one coupled channel. -/
def Dev.channelLimits (d : Dev) (ax ch : Nat) : Bool :=
  let den := d.rateDen ax
  let n := d.pixels ch * d.planes ch * 10 ^ 8
  n ≤ 600 * 10 ^ 6 * den &&
    (if d.cget ch 0 1 = 1 then n ≤ 75 * 10 ^ 6 * den * d.cget ch 0 2 else true) &&
    (if d.cget ch 0 1 = 2 then n ≤ 100 * 10 ^ 6 * den else true) &&
    d.cruise ax + d.aget ax 1 2 ≤ 2 ^ 20 / d.passBytes ch

/-- Does another enabled transport couple one of the axis's channels? -/
def Dev.coupledElsewhere (d : Dev) (ax : Nat) : Bool :=
  (List.range 4).any (fun o => o ≠ ax && d.isTransport o && (d.coupled ax).any (fun c => bit (d.aget o 0 2) c))

/-- The conditions under which ENABLE of an axis is accepted (R173). -/
def Dev.axisConsistent (d : Dev) (ax : Nat) : Bool :=
  let mode := d.aget ax 0 1
  let rate := d.rdp (akey ax 2 1)
  let reserve := d.cruise ax + d.aget ax 1 2
  mode ≠ 0 && (mode ≠ 1 || (d.aget ax 0 2 ≠ 0 && !d.coupledElsewhere ax)) &&
    rate ≠ 0 && rate ≤ 200000 &&
    (d.ramp ax).all (fun i => 10 ^ 8 ≤ i * rate && 2 * d.aget ax 0 5 ≤ 10 * i) && falling (d.ramp ax) &&
    10 ^ 8 ≤ 48000 * d.rateDen ax &&
    (mode ≠ 1 || (d.coupled ax).all (d.channelLimits ax)) &&
    reserve < d.aget ax 1 3 && (d.aget ax 0 10 = 255 || reserve ≤ d.aget ax 0 11)

/-- ENABLE of an axis becomes 1: the standing cause ENABLE 0 ends (R442). -/
def Dev.axisEnableDo (d : Dev) (ax : Nat) : Dev := ((d.wr (akey ax 0 15) 1).tryLeave ax).fiAll

/-- ENABLE of an axis becomes 0: latched causes clear, and the axis stops into the safe state (R177, R442). -/
def Dev.axisDisableDo (d : Dev) (ax : Nat) : Dev :=
  let d := (d.clearLatched ax).wr (akey ax 0 15) 0
  (if d.axState ax = 6 then d
   else if (d.axis ax).rest then d.enterSafe ax false
   else d.decelerate ax 3).fiAll

/-- CLEAR_SAFE takes a write of 1 (R178). -/
def Dev.clearSafeDo (d : Dev) (ax : Nat) : Dev := ((d.clearLatched ax).tryLeave ax).fiAll

/-- The conditions under which ENABLE of a channel is accepted (R160, and R173 for the transport that couples it). -/
def Dev.channelConsistent (d : Dev) (ch : Nat) : Bool :=
  d.pixels ch % max 1 (d.cget ch 0 2) = 0 && d.cget ch 3 2 < d.cget ch 3 3 && d.cget ch 3 1 < d.planes ch &&
    d.cget ch 4 1 + d.cget ch 4 2 ≤ d.pixels ch && d.cget ch 0 1 ≠ 0 &&
    (List.range 4).all (fun ax => !(d.isTransport ax && bit (d.aget ax 0 2) ch) || d.channelLimits ax ch)

/-- ENABLE of a channel becomes 1: lines count from here, and a gap begins (R139, R157). -/
def Dev.channelEnableDo (d : Dev) (ch : Nat) : Dev :=
  if d.chanOn ch then d
  else
    let edges := match d.axisOf ch with | some ax => (d.axis ax).edges.length | none => 0
    let d := (d.wr (ckey ch 0 9) 1).updChan ch (fun c =>
      { c with lineNo := 0, trigs := [], lastGood := none, held := [], clear := false,
               inPage := false, skipping := false, stops := 0, makeready := none, wantMakeready := false,
               firstGap := true, unres := edges, longSteps := none, ringChecked := false })
    ((d.modeAtGap ch).gapBegins ch).fiAll

/-- Sheets without the buffers of one channel. -/
def dropItems (ch : Nat) (sheets : List (List (Nat × Nat × Nat))) : List (List (Nat × Nat × Nat)) :=
  (sheets.map (fun (s : List (Nat × Nat × Nat)) => s.filter (fun e => e.1 ≠ ch))).filter (fun s => !s.isEmpty)

/-- ENABLE of a channel becomes 0: a page side it holds ends at its last stored line (log entry 22), its reservations go,
and without an enabled channel no sensor edge is pending (R161). -/
def Dev.channelDisableDo (d : Dev) (ch : Nat) : Dev :=
  if !d.chanOn ch then d.wr (ckey ch 0 9) 0
  else
    let d := (d.cutPage ch).wr (ckey ch 0 9) 0
    let d := d.updChan ch (fun c => { c with held := [], skipping := false, inPage := false, makeready := none,
                                             wantMakeready := false, longSteps := none, unres := 0 })
    (match d.axisOf ch with
     | some ax => d.updAxis ax (fun a =>
        { a with sheets := dropItems ch a.sheets,
                 edges := if d.coupledOn ax = [] then [] else a.edges })
     | none => d).fiAll

/-! ## Free axes (R166) -/

/-- A 32-bit paired value as INTEGER32 (R165). -/
def Dev.rdInt (d : Dev) (key : Nat) : Int := signed 32 (d.rdp key)

/-- Is TARGET inside the soft limits? -/
def Dev.targetOk (d : Dev) (ax : Nat) (t : Nat) : Bool :=
  d.rdInt (akey ax 2 6) ≤ signed 32 t && signed 32 t ≤ d.rdInt (akey ax 2 7)

/-- GO is taken: a move from POSITION to TARGET begins (R166). -/
def Dev.goDo (d : Dev) (ax : Nat) : Dev :=
  let t := d.rdp (akey ax 3 1)
  if t = d.rdp (akey ax 3 3) then d
  else
    let fwd : Bool := signed 32 t > d.rdInt (akey ax 3 3)
    let d := d.updAxis ax (fun a => { a with goal := t, forward := fwd, dir := d.dirLevel ax fwd })
    d.startAxis ax false

/-- FREE_AXIS_PULSE: one pulse, one ramp step (R166). -/
def freeAxisPulse (ax : Nat) (d : Dev) : Dev :=
  if d.run = .on ∧ d.aget ax 0 1 = 2 ∧ 1 ≤ d.axState ax ∧ d.axState ax ≤ 3 then
    let k := d.nextIndex ax
    let a := d.axis ax
    let pos := if a.forward then d.rdInt (akey ax 3 3) + 1 else d.rdInt (akey ax 3 3) - 1
    let d := ((d.wrp (akey ax 3 3) (unsigned 32 pos)).emit (.stepPulse ax)).updAxis ax
      (fun a => { a with rest := false, index := k })
    let left := (signed 32 a.goal - pos).natAbs
    if a.decel ∧ a.reason = 3 then (if k = 0 then d.stopAxis ax 3 else d.setAxState ax 3)
    else if left = 0 then
      (d.updAxis ax (fun a => { a with rest := true, index := 0, decel := false, reason := 0 })).setAxState ax 0
    else if left ≤ k then d.decelerate ax 0
    else d.setAxState ax (d.movingState ax k)
  else d

/-! ## A protective shutdown (R300) -/

/-- Reading stops, every axis is safe, the frequency point is 2 until the next reset; raised as lasting and logged as an
override (R299, R300). -/
def Dev.protectiveShutdown (d : Dev) (status source : Nat) : Dev :=
  if d.power.shutdown then d
  else
    let d := (d.override status source).emergency status clsLasting 0
    let d := { d with power := { d.power with shutdown := true } }
    (d.stopReading).allSafe

end Sys2Proof.Machine
end

