-- ==== Sys2Proof/Machine/Geometry.lean ====
section
/-! DEFINITION. The Geometry Units (R180 to R196, R443): box lists, the canvas, the mapping of crop samples, crops. -/

namespace Sys2Proof.Machine

/-! ## Box lists (R181 to R184) -/

/-- A box entry (Table 9-2). -/
structure Box where
  index : Nat
  x : Nat
  y : Nat
  w : Nat
  h : Nat
  confidence : Nat
  parent : Nat
  order : Nat
  outW : Nat
  outH : Nat
  cls : Nat
  read : Bool
  planeSel : Nat
  deriving DecidableEq, Repr

def boxOf (i v : Nat) : Box :=
  { index := i, x := bits v 255 240, y := bits v 239 224, w := bits v 223 208, h := bits v 207 192,
    confidence := bits v 191 176, parent := bits v 175 160, order := bits v 159 144, outW := bits v 143 128,
    outH := bits v 127 112, cls := bits v 111 104, read := bit v 103, planeSel := bits v 102 100 }

/-- n boxes of 32 bytes. -/
def boxesFrom (i : Nat) : Nat → List Byte → List Box
  | 0, _ => []
  | n + 1, bs => boxOf i (ofLe (bs.take 32)) :: boxesFrom (i + 1) n (bs.drop 32)

/-- A box list passes R182 for a page side with this PAGE_SEQ. -/
def boxListOk (seq : Nat) (bs : List Byte) : Bool :=
  let h := ofLe (bs.take 64)
  pairsOk h [448, 384] && bits h 415 384 = seq && bits h 479 448 ≤ 4096 && 64 + 32 * bits h 479 448 ≤ bs.length

/-- Boxes of a list. -/
def boxesOf (bs : List Byte) : List Box := boxesFrom 0 (bits (ofLe (bs.take 64)) 479 448) (bs.drop 64)

/-- What of a measurement record the unit uses (Table 7-6). -/
structure Measure where
  count : Nat
  pitch : Nat
  skew : Int
  leftMin : Nat
  rightMax : Nat
  pixelsOut : Nat
  three : Bool
  out16 : Bool
  avg : Nat
  seq : Nat
  deriving DecidableEq, Repr

def measureOf (v : Nat) : Measure :=
  { count := bits v 799 768, pitch := bits v 735 704, skew := signed 16 (bits v 655 640), leftMin := bits v 639 624,
    rightMax := bits v 623 608, pixelsOut := bits v 607 592, three := bits v 513 512 = 3, out16 := bit v 509,
    avg := bits v 511 510 + 1, seq := bits v 863 832 }

/-- Floor division of integers, as every division of R186 is. -/
def fdiv (a b : Int) : Int := a.fdiv b

/-- Arithmetic right shift. -/
def asr (a : Int) (n : Nat) : Int := a.fdiv (2 ^ n : Nat)

/-- R_Q for a pixel pitch and a line pitch: p / LINE_PITCH in Q2.30, rounded half up. -/
def ratioQ (p line : Nat) : Nat := (2 * p * 2 ^ 30 + line) / (2 * max 1 line)

/-- R_Q of a page side (image-fed: 2^30). -/
def Dev.rq (d : Dev) (p : PageSide) (m : Measure) : Nat :=
  if p.image then 2 ^ 30 else ratioQ (m.avg * d.cget p.channel 2 4) (d.cget p.channel 2 5)

/-- WIDTH_PX and HEIGHT_PX (R185). -/
def widthPx (m : Measure) : Nat := m.rightMax + 1 - m.leftMin
def heightPx (m : Measure) (rq : Nat) : Nat := (m.count * 2 ^ 30 + rq / 2) / max 1 rq

/-- Planes and bytes per sample of a crop. -/
def cropPlanes (b : Box) : Nat := if b.planeSel = 3 then 3 else 1
def rowPitch (m : Measure) (b : Box) : Nat := 64 * ((b.outW * (if m.out16 then 2 else 1) + 63) / 64)
def cropSize (m : Measure) (b : Box) : Nat := 64 + cropPlanes b * b.outH * rowPitch m b

/-- The status that keeps a box with READ 1 from being read, 0 for none (R184). -/
def boxStatus (m : Measure) (rq slot : Nat) (b : Box) : Nat :=
  if b.w = 0 ∨ b.h = 0 ∨ b.x + b.w > widthPx m ∨ b.y + b.h > heightPx m rq then 0x0802
  else if b.outW = 0 ∨ b.outW > 4096 ∨ b.outH = 0 ∨ b.outH > 1024 ∨ cropSize m b > slot then 0x0803
  else if b.planeSel ≥ 5 ∨ (!m.three ∧ 1 ≤ b.planeSel) then 0x0804
  else 0

/-- Reading order: READ_ORDER, then REGION_INDEX. -/
def insertBox (b : Box) : List Box → List Box
  | [] => [b]
  | c :: r => if b.order < c.order ∨ (b.order = c.order ∧ b.index < c.index) then b :: c :: r else c :: insertBox b r

/-- The boxes that are fields to be read and pass R184, in reading order. -/
def readable (m : Measure) (rq slot : Nat) (bs : List Box) : List Box :=
  (bs.filter (fun b => b.read && boxStatus m rq slot b = 0)).foldl (fun l b => insertBox b l) []

/-- The region of a box in the record of its page side (R20, R181, R183). -/
def regionOf (m : Measure) (rq slot count : Nat) (beyond : List Nat) (b : Box) : Region :=
  { index := b.index, x := b.x, y := b.y, w := b.w, h := b.h, confidence := b.confidence,
    parent := if b.parent < count then b.parent else b.index, readOrder := b.order, cls := b.cls,
    read := b.read && boxStatus m rq slot b = 0 && !beyond.contains b.index,
    status := if !b.read then 0 else if boxStatus m rq slot b ≠ 0 then boxStatus m rq slot b
      else if beyond.contains b.index then 0x03F1 else 0 }

/-! ## Rotation (R188) -/

/-- Taylor terms of sine or cosine in units of 2^-96 from the term t at power k of the angle. -/
def trigSeries (x2 : Int) : Nat → Nat → Int → Int
  | 0, _, _ => 0
  | n + 1, k, t => t + trigSeries x2 n (k + 2) (-(fdiv (fdiv (t * x2) (2 ^ 96 : Nat)) ((k + 1) * (k + 2) : Nat)))

/-- round(v · 2^30) of a value in units of 2^-96. -/
def roundQ30 (v : Int) : Int := fdiv (v + (2 ^ 65 : Nat)) (2 ^ 66 : Nat)

/-- The angle of SKEW in units of 2^-96. -/
def angle96 (skew : Int) : Int := fdiv (skew * pi96) 18000

/-- round(cos θ · 2^30) and round(sin θ · 2^30) of θ = SKEW · 0.01°. -/
def cosQ (skew : Int) : Int :=
  let a := angle96 skew
  if skew = 0 then 2 ^ 30 else roundQ30 (trigSeries (fdiv (a * a) (2 ^ 96 : Nat)) 40 0 (2 ^ 96))
def sinQ (skew : Int) : Int :=
  let a := angle96 skew
  if skew = 0 then 0 else roundQ30 (trigSeries (fdiv (a * a) (2 ^ 96 : Nat)) 40 1 a)

/-! ## The mapping (R185 to R191) -/

/-- Along-line distortion (R189) by a table of signed offsets. -/
def alongLine (table : List Int) (u : Int) : Int :=
  let e := table.length
  let k := (min (max (asr u 16) 0) ((e : Int) - 2)).toNat
  let f := min (max (u - k * 65536) 0) 65536
  u + asr (table.getD k 0 * (65536 - f) + table.getD (k + 1) 0 * f + 32768) 16

/-- A lens set (Table 9-6). -/
structure Lens where
  cx : Int
  cy : Int
  fx : Int
  fy : Int
  k1 : Int
  k2 : Int
  k3 : Int
  p1 : Int
  p2 : Int
  deriving DecidableEq, Repr

/-- Lens set k, 1 to 8. -/
def Dev.lensSet (d : Dev) (k : Nat) : Lens :=
  let g (sub : Nat) : Int := signed 32 (d.rd (dkey (0x381F + k) sub))
  { cx := g 1, cy := g 2, fx := d.rd (dkey (0x381F + k) 3), fy := d.rd (dkey (0x381F + k) 4), k1 := g 5, k2 := g 6,
    k3 := g 7, p1 := g 8, p2 := g 9 }

/-- The lens model (R190): none where the sample is outside. -/
def lensMap (l : Lens) (u w : Int) : Option (Int × Int) :=
  let x := fdiv ((u - l.cx) * 2 ^ 30) l.fx
  let y := fdiv ((w - l.cy) * 2 ^ 30) l.fy
  if x.natAbs ≥ 2 ^ 31 ∨ y.natAbs ≥ 2 ^ 31 then none
  else
    let r2 := asr (x * x + y * y) 30
    let r4 := asr (r2 * r2) 30
    let r6 := asr (r4 * r2) 30
    let rad := 2 ^ 30 + asr (l.k1 * r2 + l.k2 * r4 + l.k3 * r6) 30
    let xy := asr (x * y) 30
    let xx := asr (x * x) 30
    let yy := asr (y * y) 30
    let xd := asr (x * rad) 30 + asr (2 * l.p1 * xy + l.p2 * (r2 + 2 * xx)) 30
    let yd := asr (y * rad) 30 + asr (l.p1 * (r2 + 2 * yy) + 2 * l.p2 * xy) 30
    some (l.cx + asr (xd * l.fx) 30, l.cy + asr (yd * l.fy) 30)

/-- A mesh passes R191. -/
def meshOk (bs : List Byte) : Bool :=
  let h := ofLe (bs.take 64)
  let gx := bits h 319 312
  let gy := bits h 311 304
  pairsOk h [448, 384, 320] && 2 ≤ gx && gx ≤ 65 && 2 ≤ gy && gy ≤ 65 && bits h 479 448 ≠ 0 && bits h 415 384 ≠ 0 &&
    bits h 351 320 = 64 + 8 * gx * gy && bits h 351 320 ≤ bs.length

/-- Offset component c (0 DU, 1 DV) of control point (a, b). -/
def meshPoint (bs : List Byte) (gx a b c : Nat) : Int := signed 32 (ofLe ((bs.drop (64 + 8 * (b * gx + a) + 4 * c)).take 4))

/-- Interpolate between two values at a fraction in 1/65,536. -/
def lerp (p q f : Int) : Int := asr (p * (65536 - f) + q * f + 32768) 16

/-- Cell and fraction of a coordinate along one mesh axis. -/
def meshCell (p : Int) (spacing n : Nat) : Nat × Int :=
  let g := min (max (fdiv (p * 65536) spacing) 0) ((n - 1) * 65536 : Nat)
  let a := min (asr g 16) ((n : Int) - 2)
  (a.toNat, g - a * 65536)

/-- The mesh warp (R191): a canvas point to its warped point. -/
def meshWarp (bs : List Byte) (p : Int × Int) : Int × Int :=
  let h := ofLe (bs.take 64)
  let gx := bits h 319 312
  let cx := meshCell p.1 (bits h 479 448) gx
  let cy := meshCell p.2 (bits h 415 384) (bits h 311 304)
  let q (c : Nat) : Int :=
    lerp (lerp (meshPoint bs gx cx.1 cy.1 c) (meshPoint bs gx (cx.1 + 1) cy.1 c) cx.2)
      (lerp (meshPoint bs gx cx.1 (cy.1 + 1) c) (meshPoint bs gx (cx.1 + 1) (cy.1 + 1) c) cx.2) cy.2
  (p.1 + q 0, p.2 + q 1)

/-- Everything that the mapping of one page side needs. -/
structure Mapping where
  m : Measure
  image : Bool
  rq : Nat
  cos : Int
  sin : Int
  along : List Int
  lens : Option Lens
  mesh : List Byte
  deriving DecidableEq, Repr

/-- Canvas point of sample (i, j) of a box (R187). -/
def canvasPoint (b : Box) (i j : Nat) : Int × Int :=
  ((b.x * 65536 + (2 * i + 1) * b.w * 65536 / (2 * b.outW) : Nat), (b.y * 65536 + (2 * j + 1) * b.h * 65536 / (2 * b.outH) : Nat))

/-- Rotation about the centres (R188). -/
def rotate (g : Mapping) (p : Int × Int) : Int × Int :=
  let wpx := widthPx g.m
  let hpx := heightPx g.m g.rq
  let dx := p.1 - (wpx * 2 ^ 15 : Nat)
  let dy := p.2 - (hpx * 2 ^ 15 : Nat)
  let cu : Int := ((g.m.leftMin + g.m.rightMax + 1) * 2 ^ 15 : Nat)
  let cv : Int := (hpx * 2 ^ 15 : Nat)
  (cu + asr (dx * g.cos + dy * g.sin + 2 ^ 29) 30, cv + asr (dy * g.cos - dx * g.sin + 2 ^ 29) 30)

/-- Source position (u', v) of a canvas point in the order of Table 9-3; none where R190 marks it outside. -/
def sourcePoint (g : Mapping) (p : Int × Int) : Option (Int × Int) :=
  if g.image then
    let r := rotate g (if g.mesh.isEmpty then p else meshWarp g.mesh p)
    match g.lens with
    | some l => lensMap l r.1 r.2
    | none => some r
  else
    let r := rotate g p
    some (if g.along.isEmpty then r.1 else alongLine g.along r.1, asr (r.2 * g.rq + 2 ^ 29) 30)

/-! ## Sampling (R192, R193) -/

/-- Bytes of one plane of a stored line. -/
def linePlane (m : Measure) : Nat := (m.pitch - 64) / (if m.three then 3 else 1)

/-- FILL_VALUE in the width of the source. -/
def fillOf (m : Measure) (fill : Nat) : Nat := if m.out16 then fill else min 255 ((fill + 128) / 256)

/-- One tap: pixel k of line i, through the line map that substitutes lines (R194), fill value outside. -/
def Dev.tap (d : Dev) (raw : Nat) (m : Measure) (fill c : Nat) (lines : List (Option Nat)) (k i : Int) : Nat :=
  if k < 0 ∨ k ≥ m.pixelsOut ∨ i < 0 ∨ i ≥ m.count then fill
  else match lines.getD i.toNat (some i.toNat) with
    | none => fill
    | some l =>
      let a := raw + 128 + l * m.pitch + c * linePlane m
      if m.out16 then d.mrd (a + 2 * k.toNat) 2 else d.mrd (a + k.toNat) 1

/-- Pixel, line and fractions of a source position. -/
def tapPlace (s : Int × Int) : Int × Int × Int × Int :=
  let ku := asr (s.1 - 32768) 16
  let kv := asr (s.2 - 32768) 16
  (ku, kv, s.1 - 32768 - ku * 65536, s.2 - 32768 - kv * 65536)

/-- Bilinear sample of one plane. -/
def Dev.bilinear (d : Dev) (raw : Nat) (m : Measure) (fill c : Nat) (lines : List (Option Nat)) (s : Int × Int) : Nat :=
  let t := tapPlace s
  let p (dx dy : Int) : Int := d.tap raw m fill c lines (t.1 + dx) (t.2.1 + dy)
  let t0 := p 0 0 * (65536 - t.2.2.1) + p 1 0 * t.2.2.1
  let t1 := p 0 1 * (65536 - t.2.2.1) + p 1 1 * t.2.2.1
  (asr (t0 * (65536 - t.2.2.2) + t1 * t.2.2.2 + 2 ^ 31) 32).toNat

/-- Luminance (R192). -/
def luma (r g b : Nat) : Nat := (77 * r + 150 * g + 29 * b + 128) / 256

/-- Samples of one crop point, over the crop's planes. -/
def Dev.cropSample (d : Dev) (raw : Nat) (g : Mapping) (fill : Nat) (lines : List (Option Nat)) (b : Box) (i j : Nat) :
    List Nat :=
  let v (c : Nat) : Nat := match sourcePoint g (canvasPoint b i j) with
    | some s => d.bilinear raw g.m fill c lines s
    | none => fill
  if b.planeSel = 3 then [v 0, v 1, v 2]
  else if b.planeSel = 4 then [luma (v 0) (v 1) (v 2)]
  else [v b.planeSel]

/-- Does a sample at a pixel use the line it lies on: is one of the pixels k and k + 1 stored (R192)? -/
def tapsLine (m : Measure) (k : Int) : Bool := decide (-1 ≤ k ∧ k < (m.pixelsOut : Int))

/-- The lines of the page side that the taps of a crop touch; a tap outside the line takes the fill value (R192). -/
def tapLines (g : Mapping) (b : Box) : List Nat :=
  let at_ (i j : Nat) : Option Int :=
    ((sourcePoint g (canvasPoint b i j)).filter (fun s => tapsLine g.m (tapPlace s).1)).map (fun s => (tapPlace s).2.1)
  let kvs : List Int := ((List.range b.outH).map (fun j => (List.range b.outW).filterMap (fun i => at_ i j))).flatten
  ((kvs ++ kvs.map (fun k => k + 1)).filter (fun k => decide (0 ≤ k ∧ k < (g.m.count : Int)))).map Int.toNat

/-- Lines from the lowest to the highest that the taps of a crop touch: those the unit reads for it (R195). -/
def touched (g : Mapping) (b : Box) : List Nat :=
  match tapLines g b with
  | [] => []
  | x :: r => (List.range (r.foldl max x + 1 - r.foldl min x)).map (· + r.foldl min x)

/-- One plane of a crop: rows padded to ROW_PITCH. -/
def Dev.cropPlane (d : Dev) (raw : Nat) (g : Mapping) (fill : Nat) (lines : List (Option Nat)) (b : Box) (c : Nat) :
    List Byte :=
  ((List.range b.outH).map (fun j =>
    let row := ((List.range b.outW).map (fun i => leBytes (if g.m.out16 then 2 else 1)
      ((d.cropSample raw g fill lines b i j).getD c 0))).flatten
    row ++ List.replicate (rowPitch g.m b - row.length) 0#8)).flatten

/-- Does a stored line's trailer CRC agree with its plane bytes (R137, R194)? -/
def Dev.lineGood (d : Dev) (raw : Nat) (m : Measure) (i : Nat) : Bool :=
  let a := raw + 128 + i * m.pitch
  crc32c (memBytes d.mem a (m.pitch - 64)) = d.mrd (a + m.pitch - 64) 4

/-- Address of a line's trailer word. -/
def trailerAddr (raw : Nat) (m : Measure) (i : Nat) : Nat := raw + 128 + i * m.pitch + m.pitch - 64

/-- Each line's own number, or that of the nearest lower-numbered good line; none: fill values (R194). -/
def Dev.lineMap (d : Dev) (raw : Nat) (m : Measure) : List (Option Nat) :=
  ((List.range m.count).foldl (fun (acc : List (Option Nat) × Option Nat) i =>
    if d.lineGood raw m i then (acc.1 ++ [some i], some i) else (acc.1 ++ [acc.2], acc.2)) ([], none)).1

/-- Does a crop sample a line that was substituted (R194)? -/
def cropSub (g : Mapping) (bad : List Nat) (b : Box) : Bool := !bad.isEmpty && (tapLines g b).any (fun i => bad.contains i)

/-- A crop's bytes (Table 9-5). -/
def Dev.cropBytes (d : Dev) (p : PageSide) (g : Mapping) (fill : Nat) (bad : List Nat) (lines : List (Option Nat)) (b : Box) :
    List Byte :=
  let sub := cropSub g bad b
  let head := leBytes 64 (packFields
    [(0, 340), (flag sub, 1), (flag g.m.out16, 1), (if cropPlanes b = 3 then 3 else 1, 2), (b.cls, 8),
     (if sub then 0x0808 else 0, 16), (rowPitch g.m b, 16), (b.outH, 16), (b.outW, 16), (b.order, 16), (b.index, 16),
     (pairOf p.seq, 64)])
  head ++ ((List.range (cropPlanes b)).map (d.cropPlane p.rawAddr g (fillOf g.m fill) lines b)).flatten

/-! ## A geometry forme -/

/-- The along-line table of a channel (3810h). -/
def Dev.alongTable (d : Dev) (ch : Nat) : List Int :=
  let bs := d.rdDom (dkey (0x3810 + ch) 1)
  (List.range (bs.length / 4)).map (fun i => signed 32 (ofLe ((bs.drop (4 * i)).take 4)))

/-- The mapping of a geometry forme. -/
def Dev.mapping (d : Dev) (p : PageSide) (m : Measure) (deskew : Bool) : Mapping :=
  let sk := if deskew then m.skew else 0
  let t := d.alongTable p.channel
  { m := m, image := p.image, rq := d.rq p m, cos := cosQ sk, sin := sinQ sk,
    along := if !p.image ∧ p.along ∧ t.length = m.pixelsOut + 1 then t else [],
    lens := if p.lens = 0 then none else some (d.lensSet p.lens), mesh := p.mesh }

/-- CROP_SLOT_BYTES and the page budget of the active plate set. -/
def Dev.setHeader (d : Dev) : Nat := match d.activeSet with | some ps => ps.header | none => 0
def Dev.cropSlot (d : Dev) : Nat := bits d.setHeader 223 192
def Dev.pageBudget (d : Dev) : Nat := bits d.setHeader 415 384

/-! ## Crop slots (R193, Table 14-3) -/

/-- Crop slots that are taken, by address: those that geometry formes reserved, and those that hold crops. -/
def Dev.slotsTaken (d : Dev) : List Nat := (d.formes.map (·.slots)).flatten ++ (d.pages.map (fun p => p.crops.map (·.addr))).flatten

/-- n crop slots that follow one another, the lowest that are free, by address: one operand descriptor names them all
(DESIGN CHOICE, log entry 133). -/
def Dev.cropRun (d : Dev) (n : Nat) : Option (List Nat) :=
  if n = 0 then some []
  else d.activeSet.bind (fun ps =>
    let place (k : Nat) : Nat := ps.areas.crops + k * d.cropSlot
    ((List.range (ps.areas.cropSlots + 1 - n)).find? (fun k =>
      (List.range n).all (fun i => !d.slotsTaken.contains (place (k + i))))).map (fun k =>
        (List.range n).map (fun i => place (k + i))))

/-- The header of a crop in its slot. -/
def Dev.cropHead (d : Dev) (c : Crop) : Nat := d.mrd c.addr 64

/-- The request table entry that serves a class on a page side (R353): 1,152 bytes of its slot's table. -/
def Dev.requestOf (d : Dev) (p : PageSide) (cls : Nat) : Option (List Byte) :=
  match d.host.requests.find? (fun t => t.1 = p.reqSlot) with
  | some t => if p.reqSlot < 16 ∧ 1152 * cls + 1152 ≤ t.2.length then some ((t.2.drop (1152 * cls)).take 1152) else none
  | none => none

/-- What a geometry forme makes of its page side: its regions and crops, the lines whose CRC does not agree, and what it
writes into its crop slots. -/
structure Cut where
  page : PageSide
  bad : List Nat
  writes : List (Nat × List Byte)
  deriving DecidableEq, Repr

/-- The boxes that a geometry forme reads, in their order (R181, R353). -/
def Dev.boxesCut (d : Dev) (p : PageSide) (f : Forme) (m : Measure) : List Box :=
  let all := (readable m (d.rq p m) d.cropSlot (boxesOf p.boxList)).take d.pageBudget
  all.filter (fun b => (d.requestOf p b.cls).isSome && (f.only.isNone || f.only = some b.index))

/-- What a geometry forme makes of its page side (R181, R192 to R194, R353). -/
def Dev.geometryOf (d : Dev) (p : PageSide) (f : Forme) (m : Measure) : Cut :=
  let rq := d.rq p m
  let bs := boxesOf p.boxList
  let g := d.mapping p m f.deskew
  let rd := readable m rq d.cropSlot bs
  let all := rd.take d.pageBudget
  let use := (d.boxesCut p f m).zip f.slots
  let beyond := (rd.drop d.pageBudget).map (·.index)
  let bad := ((use.map (fun u => touched g u.1)).flatten.eraseDups).filter (fun i => !d.lineGood p.rawAddr m i)
  let lines := if bad.isEmpty then [] else d.lineMap p.rawAddr m
  let crops : List Crop := use.map (fun u => ⟨u.1.index, u.1.order, u.2, cropSub g bad u.1⟩)
  let writes := use.map (fun u => (u.2, d.cropBytes p g f.fill bad lines u.1))
  let subst (i : Nat) : Bool := crops.any (fun c => c.region = i && c.substituted)
  let regions := bs.map (fun b =>
    let r := regionOf m rq d.cropSlot bs.length beyond b
    if all.any (fun u => u.index = b.index) && (d.requestOf p b.cls).isNone then { r with status := 0x0107, read := false }
    else if subst b.index then { r with status := 0x0808 } else r)
  if f.only.isSome then
    ⟨{ p with regions := updIf (fun (r : Region) => subst r.index) (fun r => { r with status := 0x0808 }) p.regions,
              crops := p.crops.filter (fun c => f.only ≠ some c.region) ++ crops }, bad, writes⟩
  else ⟨{ p with regions := regions, crops := crops, width := widthPx m }, bad, writes⟩

/-- Crops that a geometry forme of this page side will write: what it reserves for (R261, Table 14-3). -/
def Dev.cropCount (d : Dev) (p : PageSide) (f : Forme) : Nat :=
  (d.boxesCut p f (measureOf (d.mrd p.rawAddr 128))).length

/-- A status of the Geometry Units: LAST_STATUS and LAST_PAGE_SEQ. -/
def Dev.geometryStatus (d : Dev) (status seq : Nat) : Dev := (d.wr 0x3801_07 status).wr 0x3801_08 seq

/-- Does the along-line table of a page side's channel not match its PIXELS_OUT (R189)? -/
def Dev.alongMismatch (d : Dev) (p : PageSide) (m : Measure) : Bool :=
  !p.image && p.along && (d.alongTable p.channel).length ≠ m.pixelsOut + 1

/-- 0805h once per page side whose along-line table does not match; its offsets are then 0 (R189). -/
def Dev.alongCheck (d : Dev) (p : PageSide) (m : Measure) : Dev :=
  if d.alongMismatch p m then
    ((d.geometryStatus 0x0805 p.seq).event 0x0805 0).updPage p.ring p.seq (fun p => { p with along := false })
  else d

/-- The forme that a unit runs next: admitted, and not yet run in this attempt. -/
def Dev.unitForme (d : Dev) (unit : Nat) : Option Forme :=
  d.formes.find? (fun f => f.kind = 2 && f.admitted && f.unit = unit && !f.ran && f.fault = 0)

/-- A unit runs a geometry forme for its page side: a first attempt that meets a bad line restarts with 0808h, charged
to the DDR5 channel of the line's trailer word; a later one substitutes the line (R194, R289). -/
def Dev.runGeometry (d : Dev) (f : Forme) (p : PageSide) : Dev :=
  let v := d.mrd p.rawAddr 128
  let m := measureOf v
  if !pairsOk v [832, 768, 704] then
    (d.faultForme f.id 0x0410).ddrUncorrectable 0x0410 p.rawAddr
  else
    let q := { p with along := p.along && !d.alongMismatch p m }
    let d := d.alongCheck p m
    let r := d.geometryOf q f m
    let cut (d : Dev) : Dev :=
      ((d.each r.writes (fun d w => d.put w.1 w.2)).updPage p.ring p.seq (fun _ => r.page)).updForme f.id
        (fun f => { f with ran := true, ref := r.bad.length })
    match r.bad with
    | i :: _ =>
      if f.attempt = 0 then
        ((d.geometryStatus 0x0808 p.seq).faultForme f.id 0x0808).charge 0x0808 4 (d.ddrChannel (trailerAddr p.rawAddr m i))
      else cut (d.geometryStatus 0x0808 p.seq)
    | [] => cut d

/-- GEOMETRY_FORME_RUN. -/
def geometryFormeRun (unit : Nat) (d : Dev) : Dev :=
  match d.unitForme unit with
  | none => d
  | some f =>
    match f.pages with
    | pg :: _ => match d.page? pg.1 pg.2 with
      | some p => d.runGeometry f p
      | none => d
    | [] => d

/-- The queue of a unit: geometry formes given to it and not yet committed or abandoned (R443). -/
def Dev.unitQueue (d : Dev) (unit : Nat) : Nat := (d.formes.filter (fun f => f.kind = 2 && f.admitted && f.unit = unit)).length

/-- The unit that takes a geometry forme at its admission (R443, R294). -/
def Dev.unitFor (d : Dev) (p : PageSide) : Nat :=
  if d.isLasting 3 2 then 1
  else if d.isLasting 3 3 then 0
  else if p.image then (if d.unitQueue 1 < d.unitQueue 0 then 1 else 0)
  else if p.channel < 2 then 0 else 1

/-- Counters of a committed geometry forme (R196); one that cuts a region again (R264) counts its one box. -/
def Dev.countGeometry (d : Dev) (f : Forme) (p : PageSide) : Dev :=
  let boxes := boxesOf p.boxList
  let own := p.crops.filter (fun c => f.only.isNone || f.only = some c.region)
  let samples := (own.map (fun c => match boxes.find? (fun b => b.index = c.region) with
    | some b => b.outW * b.outH * cropPlanes b
    | none => 0)).sum
  ((((d.bump (if f.unit = 0 then 0x3801_01 else 0x3801_02)).bumpBy 0x3801_03 own.length).bumpBy 0x3801_04
    ((if f.only.isSome then 1 else boxes.length) - own.length)).bumpBy 0x3801_05 f.ref).bumpBy 0x3801_06 samples

end Sys2Proof.Machine
end

