-- ==== Sys2Proof/Machine/SlugTables.lean ====
section
/-! DEFINITION. The slug manager's tables in hub SRAM (R208 to R217, Tables 11-1 to 11-7): classes, descriptors, pools,
page lists, the sequence table, the batch table and the template table. -/

namespace Sys2Proof.Machine

/-! ## Slug classes and forms (R208, R209) -/

/-- A slug class as 3C10h + k sets it. -/
structure SlugClass where
  tokens : Nat
  heads  : Nat
  dim    : Nat
  format : Nat
  layers : Nat
  valid  : Bool
  deriving DecidableEq, Repr

def Dev.slugClass (d : Dev) (k : Nat) : SlugClass :=
  let i := 0x3C10 + k
  { tokens := d.rd (dkey i 1), heads := d.rd (dkey i 2), dim := d.rd (dkey i 3), format := d.rd (dkey i 4),
    layers := d.rd (dkey i 5), valid := d.on? (dkey i 6) }

/-- Elements of one block of keys, T · H · D. -/
def SlugClass.elems (c : SlugClass) : Nat := c.tokens * c.heads * c.dim

/-- A class that may be made valid (R208). -/
def SlugClass.ok (c : SlugClass) : Bool := c.elems ≤ 32768 && (c.format = 0 || c.tokens ≥ 32)

/-- Has the class a sealed form? -/
def SlugClass.narrow (c : SlugClass) : Bool := c.format ≠ 0

/-- Bytes of the open form: K and V in BF16. -/
def SlugClass.openBytes (c : SlugClass) : Nat := 4 * c.elems

/-- Bytes of the sealed form: K codes, K scales, V codes, V scales. -/
def SlugClass.sealedBytes (c : SlugClass) : Nat :=
  let codes := if c.format = 4 then c.elems / 2 else c.elems
  2 * codes + 64 * (c.elems / 1024) + 64 * (c.heads * (c.dim / 64) * (c.tokens / 32))

/-- A size rounded up to whole words. -/
def roundUp64 (n : Nat) : Nat := (n + 63) / 64 * 64

/-- OPEN_SLOT_BYTES and SEALED_SLOT_BYTES (R210): the largest forms over the valid classes. -/
def Dev.openSlot (d : Dev) : Nat :=
  roundUp64 (((List.range 8).map d.slugClass).foldl (fun m c => if c.valid then max m c.openBytes else m) 0)

def Dev.sealedSlot (d : Dev) : Nat :=
  roundUp64 (((List.range 8).map d.slugClass).foldl (fun m c => if c.valid && c.narrow then max m c.sealedBytes else m) 0)

/-! ## Descriptors (Table 11-2) -/

/-- A slug descriptor's fields. -/
structure Slug where
  loc : Nat
  count : Nat
  qframe : Nat
  fill : Nat
  cls : Nat
  pool : Nat
  state : Nat
  imported : Bool
  deriving DecidableEq, Repr

/-- The free descriptor, as at reset. -/
def Slug.free : Slug := ⟨0, 0, 0, 0, 0, 0, 0, false⟩

def slugAddr (n : Nat) : Nat := 0x1200_0000 + 16 * n

def slugOf (w : Nat) : Slug :=
  { loc := bits w 95 64, count := bits w 47 32, qframe := bits w 31 16, fill := bits w 15 9, cls := bits w 8 6,
    pool := bits w 5 4, state := bits w 3 2, imported := bit w 1 }

/-- LOCATION and COUNT halves are well formed (R211). -/
def slugWordOk (w : Nat) : Bool := (pairedAt w 64).2 && bits w 63 48 == 65535 - bits w 47 32

def Slug.word (s : Slug) : Nat :=
  packFields [(0, 1), (flag s.imported, 1), (s.state, 2), (s.pool, 2), (s.cls, 3), (s.fill, 7), (s.qframe, 16),
    (s.count, 16), (65535 - s.count % 65536, 16)] + 2 ^ 64 * pairOf s.loc

def Dev.slugWord (d : Dev) (n : Nat) : Nat := d.mrd (slugAddr n) 16

def Dev.slugAt (d : Dev) (n : Nat) : Slug := slugOf (d.slugWord n)

def Dev.putSlug (d : Dev) (n : Nat) (s : Slug) : Dev := d.poke (slugAddr n) (leBytes 16 s.word)

/-- Slug numbers whose descriptor differs from the free one. -/
def Dev.slugNums (d : Dev) : List Nat :=
  ((d.mem.filter (fun c => 0x1200_0000 ≤ c.1 && c.1 < 0x1240_0000)).map (fun c => (c.1 - 0x1200_0000) / 16)).eraseReps

/-- Slugs of a state. -/
def Dev.slugsIn (d : Dev) (state : Nat) : List Nat := d.slugNums.filter (fun n => (d.slugAt n).state = state)

/-! ## Pools (R212): 0 open galley, 1 sealed galley, 2 sealed DDR5 -/

def groupBytes8 : Nat := 0x8_0000

/-- FIRST_GROUP, GROUPS and OPEN_GROUPS of a die. -/
def Dev.slugRegion (d : Dev) (die : Nat) : Nat × Nat × Nat :=
  let v := d.rd (dkey 0x3C01 (die + 1))
  (bits v 5 0, bits v 13 8, bits v 21 16)

/-- A value that GALLEY_POOL_CDn may hold. -/
def slugRegionOk (v : Nat) : Bool :=
  bits v 7 6 = 0 && bits v 15 14 = 0 && bits v 31 22 = 0 && bits v 5 0 + bits v 13 8 ≤ 64 && bits v 21 16 ≤ bits v 13 8

/-- Slot size of a pool. -/
def Dev.slotSize (d : Dev) (pool : Nat) : Nat := if pool = 0 then d.openSlot else d.sealedSlot

/-- First byte and number of slots of a die's share of a galley pool. -/
def Dev.dieShare (d : Dev) (pool die : Nat) : Nat × Nat :=
  let r := d.slugRegion die
  let first := if pool = 0 then r.1 else r.1 + r.2.2
  let groups := if pool = 0 then r.2.2 else r.2.1 - r.2.2
  (die * dieBytes + first * groupBytes8, if d.slotSize pool = 0 then 0 else groups * groupBytes8 / d.slotSize pool)

/-- Slots of the sealed DDR5 pool. -/
def Dev.ddrSlots (d : Dev) : Nat := if d.sealedSlot = 0 then 0 else d.layoutBytes 45 / d.sealedSlot

/-- Die of a slot and its first byte, through the dies in the order CD0 to CD5. -/
def Dev.slotFrom (d : Dev) (pool : Nat) : Nat → Nat → Option (Nat × Nat)
  | 0, _ => none
  | fuel + 1, loc =>
    let die := 5 - fuel
    let s := d.dieShare pool die
    if loc < s.2 then some (die, s.1 + loc * d.slotSize pool) else d.slotFrom pool fuel (loc - s.2)

/-- Local address of a slot, none where the pool has no such slot. -/
def Dev.slotAddr (d : Dev) (pool loc : Nat) : Option Nat :=
  if pool = 2 then (if loc < d.ddrSlots then some (d.layoutBase 45 + loc * d.sealedSlot) else none)
  else (d.slotFrom pool 6 loc).map (·.2)

/-- Slots of a pool in all. -/
def Dev.poolSlots (d : Dev) (pool : Nat) : Nat :=
  if pool = 2 then d.ddrSlots else ((List.range 6).map (fun n => (d.dieShare pool n).2)).sum

/-- Locations of a pool in use: slugs that are live, quarantined, slots that a migration vacated, targets of migrations
under way, slots that an import reserves (R391). -/
def Dev.slotsUsed (d : Dev) (pool : Nat) : List Nat :=
  ((d.slugNums.map d.slugAt).filter (fun s => (s.state = 1 || s.state = 2) && s.pool = pool)).map (·.loc) ++
    (d.slug.vacated.filter (fun v => v.1 = pool)).map (·.2.1) ++ (d.slug.moves.filter (fun m => m.2.1 = pool)).map (·.2.2) ++
    ((d.fabric.windows.filter (fun w => w.2.pool = pool)).map (·.2.locs)).flatten

/-- Does a slot lie in a region in use (R212)? -/
def Dev.slotUsable (d : Dev) (pool loc : Nat) : Bool :=
  pool = 2 || (match d.slotFrom pool 6 loc with | some p => d.slug.regions.contains p.1 | none => false)

/-- The lowest free location of a pool. -/
def Dev.freeLoc (d : Dev) (pool : Nat) : Option Nat :=
  let used := d.slotsUsed pool
  (List.range (d.poolSlots pool)).find? (fun l => !used.contains l && d.slotUsable pool l)

/-- Free locations of a pool, counted. -/
def Dev.freeLocs (d : Dev) (pool : Nat) : Nat :=
  let used := d.slotsUsed pool
  ((List.range (d.poolSlots pool)).filter (fun l => !used.contains l && d.slotUsable pool l)).length

/-- The lowest slug number whose descriptor is free. -/
def Dev.freeSlugNo (d : Dev) : Option Nat :=
  let ns := d.slugNums.filter (fun n => (d.slugAt n).state ≠ 0)
  ((List.range (ns.length + 1)).find? (fun n => !ns.contains n)).filter (· < 262144)

/-- Bytes of a slug's form. -/
def Dev.formBytes (d : Dev) (s : Slug) : Nat :=
  if s.pool = 0 then (d.slugClass s.cls).openBytes else (d.slugClass s.cls).sealedBytes

/-! ## Page lists (R213, R214, Table 11-3) -/

/-- The paired field at bit lo of a word of the slug manager's tables; a pair that is not well formed gives 0, so that its
value is not used (R4). -/
def soundAt (w lo : Nat) : Nat := if (pairedAt w lo).2 then (pairedAt w lo).1 else 0

structure ListEntry where
  slug : Nat
  present : Bool
  next : Nat
  pend : Nat
  deriving DecidableEq, Repr

def ListEntry.empty : ListEntry := ⟨0, false, 0, 0⟩

def listEntryOf (w : Nat) : ListEntry :=
  let m := soundAt w 0
  let x := soundAt w 64
  { slug := bits m 17 0, present := bit m 31, next := bits x 17 0, pend := bits x 31 30 }

def ListEntry.word (e : ListEntry) : Nat :=
  pairOf (e.slug + 2 ^ 31 * flag e.present) + 2 ^ 64 * pairOf (e.next + 2 ^ 30 * e.pend)

/-- List words per layer. -/
def wpl (limit t : Nat) : Nat := if t = 0 then 0 else ((limit + t - 1) / t + 3) / 4

/-- Words of a sequence's page list (R214). -/
def SlugClass.listWords (c : SlugClass) (limit : Nat) : Nat := c.layers * wpl limit c.tokens

/-- Address of the entry of layer l and block j. -/
def entryAddr (list wpl l j : Nat) : Nat := list + 64 * (l * wpl + j / 4) + 16 * (j % 4)

/-- Both halves of a list entry's word are well formed (R4). -/
def entryOk (w : Nat) : Bool := pairsOk w [0, 64]

def Dev.entryAt (d : Dev) (a : Nat) : ListEntry := listEntryOf (d.mrd a 16)

def Dev.putEntry (d : Dev) (a : Nat) (e : ListEntry) : Dev := d.poke a (leBytes 16 e.word)

/-- First byte after the page list area, and its first byte. -/
def listBase : Nat := 0x1280_0000
def listEnd  : Nat := 0x1300_0000

/-- The lowest place of the page list area for n bytes. -/
def Dev.listPlace (d : Dev) (n : Nat) : Option Nat :=
  let bs := d.slug.lists
  let ok (a : Nat) : Bool := a + n ≤ listEnd && bs.all (fun b => !overlap a n b.1 b.2)
  ((listBase :: bs.map (fun b => b.1 + b.2)).filter ok).foldl
    (fun best a => match best with | none => some a | some b => some (min a b)) none

/-- Allocate a page list of n words, every entry empty (R213). -/
def Dev.newList (d : Dev) (words : Nat) : Option (Nat × Dev) :=
  (d.listPlace (64 * words)).map (fun a =>
    (a, (List.range (4 * words)).foldl (fun d i => d.putEntry (a + 16 * i) .empty)
      { d with slug := { d.slug with lists := d.slug.lists ++ [(a, 64 * words)] } }))

/-! ## Sequence table (R215, Table 11-4) -/

structure SeqEnt where
  list : Nat
  position : Nat
  limit : Nat
  prefixLen : Nat
  page : Nat
  lastStep : Nat
  region : Nat
  wpl : Nat
  template : Nat
  row : Nat
  cls : Nat
  state : Nat
  recomputed : Bool
  holds : Nat
  deriving DecidableEq, Repr

def seqAddr (i : Nat) : Nat := 0x1240_0000 + 64 * i

def seqEntOf (w : Nat) : SeqEnt :=
  { list := soundAt w 448, position := soundAt w 384, limit := soundAt w 320, prefixLen := soundAt w 256,
    page := bits w 255 224, lastStep := bits w 223 192, region := bits w 191 176, wpl := bits w 175 160,
    template := bits w 159 152, row := bits w 151 144, cls := bits w 143 141, state := bits w 140 138,
    recomputed := bit w 137, holds := bits w 136 121 }

def SeqEnt.word (e : SeqEnt) : Nat :=
  packFields [(0, 121), (e.holds, 16), (flag e.recomputed, 1), (e.state, 3), (e.cls, 3), (e.row, 8), (e.template, 8),
    (e.wpl, 16), (e.region, 16), (e.lastStep, 32), (e.page, 32), (pairOf e.prefixLen, 64), (pairOf e.limit, 64),
    (pairOf e.position, 64), (pairOf e.list, 64)]

/-- The paired fields of a sequence table entry are well formed (R4). -/
def seqWordOk (w : Nat) : Bool := pairsOk w [448, 384, 320, 256]

def Dev.seqEnt (d : Dev) (i : Nat) : SeqEnt := seqEntOf (d.word (seqAddr i))

def Dev.putSeqEnt (d : Dev) (i : Nat) (e : SeqEnt) : Dev := d.poke (seqAddr i) (leBytes 64 e.word)

/-- Is the word of a sequence well formed? -/
def Dev.seqSound (d : Dev) (i : Nat) : Bool := seqWordOk (d.word (seqAddr i))

/-- Change a sequence table entry; one that is not well formed stays as it is (R4). -/
def Dev.updSeqEnt (d : Dev) (i : Nat) (f : SeqEnt → SeqEnt) : Dev := if d.seqSound i then d.putSeqEnt i (f (d.seqEnt i)) else d

/-- Sequences whose STATE is not free, in ascending index. -/
def Dev.seqNums (d : Dev) : List Nat :=
  (((d.mem.filter (fun c => 0x1240_0000 ≤ c.1 && c.1 < 0x1244_0000)).map (fun c => (c.1 - 0x1240_0000) / 64)).eraseReps).filter
    (fun i => (d.seqEnt i).state ≠ 0)

/-- Sequences that are live: neither free nor ended. -/
def Dev.liveSeqs (d : Dev) : List Nat := d.seqNums.filter (fun i => (d.seqEnt i).state ≠ 6)

/-- The lowest free sequence table index and the lowest free batch row. -/
def Dev.freeSeq (d : Dev) : Option Nat := (List.range 4096).find? (fun i => !d.seqNums.contains i)

def Dev.freeRow (d : Dev) : Option Nat :=
  let used := d.seqNums.map (fun i => (d.seqEnt i).row)
  (List.range 256).find? (fun r => !used.contains r)

/-! ## Batch table rows (R217, Table 11-5) -/

structure BatchRow where
  list : Nat
  position : Nat
  wpl : Nat
  seq : Nat
  cls : Nat
  valid : Bool
  sealing : Bool
  deriving DecidableEq, Repr

def BatchRow.none : BatchRow := ⟨0, 0, 0, 0, 0, false, false⟩

def batchRowOf (w : Nat) : BatchRow :=
  { list := bits w 479 448, position := bits w 415 384, wpl := bits w 383 368, seq := bits w 367 356,
    cls := bits w 355 353, valid := bit w 352, sealing := bit w 351 }

/-- LIST_ADDR and POSITION are well formed. -/
def batchRowOk (w : Nat) : Bool := pairsOk w [448, 384]

def BatchRow.word (r : BatchRow) : Nat :=
  packFields [(0, 351), (flag r.sealing, 1), (flag r.valid, 1), (r.cls, 3), (r.seq, 12), (r.wpl, 16),
    (pairOf r.position, 64), (pairOf r.list, 64)]

def batchRowAddr (r : Nat) : Nat := 0x1244_0000 + 64 * r

def Dev.batchRow (d : Dev) (r : Nat) : BatchRow := batchRowOf (d.word (batchRowAddr r))

def Dev.putBatchRow (d : Dev) (a : Nat) (r : BatchRow) : Dev := d.put a (leBytes 64 r.word)

/-! ## Template table (R234, Table 11-7) -/

structure Template where
  list : Nat
  prefixLen : Nat
  setId : Nat
  version : Nat
  users : Nat
  source : Nat
  window : Nat
  cls : Nat
  state : Nat
  imported : Bool
  lastUse : Nat
  deriving DecidableEq, Repr

def Template.empty : Template := ⟨0, 0, 0, 0, 0, 0, 0, 0, 0, false, 0⟩

def templateAddr (t : Nat) : Nat := 0x1244_4000 + 64 * t

def templateOf (w : Nat) : Template :=
  { list := soundAt w 448, prefixLen := soundAt w 384, setId := bits w 383 352, version := bits w 351 320,
    users := bits w 319 304, source := bits w 303 296, window := bits w 295 288, cls := bits w 287 285,
    state := bits w 284 282, imported := bit w 281, lastUse := bits w 255 224 }

def Template.word (t : Template) : Nat :=
  packFields [(0, 224), (t.lastUse, 32), (0, 25), (flag t.imported, 1), (t.state, 3), (t.cls, 3), (t.window, 8),
    (t.source, 8), (t.users, 16), (t.version, 32), (t.setId, 32), (pairOf t.prefixLen, 64), (pairOf t.list, 64)]

/-- The paired fields of a template table entry are well formed (R4). -/
def templateWordOk (w : Nat) : Bool := pairsOk w [448, 384]

def Dev.template (d : Dev) (t : Nat) : Template := templateOf (d.word (templateAddr t))

def Dev.putTemplate (d : Dev) (t : Nat) (x : Template) : Dev := d.poke (templateAddr t) (leBytes 64 x.word)

/-- Is the word of a template well formed? -/
def Dev.templateSound (d : Dev) (t : Nat) : Bool := templateWordOk (d.word (templateAddr t))

/-- Change a template table entry; one in use that is not well formed stays as it is (R4). -/
def Dev.updTemplate (d : Dev) (t : Nat) (f : Template → Template) : Dev :=
  if d.templateSound t ∨ (d.template t).state = 0 then d.putTemplate t (f (d.template t)) else d

/-- List words per layer and in all of a template's own page list. -/
def Dev.templateWpl (d : Dev) (x : Template) : Nat := wpl x.prefixLen (d.slugClass x.cls).tokens

def Dev.templateWords (d : Dev) (x : Template) : Nat := (d.slugClass x.cls).listWords x.prefixLen

/-- Templates that are not empty. -/
def Dev.templatesUsed (d : Dev) : List Nat := (List.range 255).filter (fun t => (d.template t).state ≠ 0)

/-- SET_ID of the active plate set, from its header (Table 6-4). -/
def Dev.activeSetId (d : Dev) : Nat := d.rd 0x2500_01

/-- FRAME_COUNT (2504h:06). -/
def Dev.frameCount (d : Dev) : Nat := d.rd 0x2504_06

end Sys2Proof.Machine
end

