-- ==== Sys2Proof/Machine/Slugs.lean ====
section
/-! DEFINITION. The slug manager (R223 to R236): allocation, counts, quarantine, preparation, copy on write, migration,
eviction, suspension, the lead-in, and the drop of a left-out die. -/

namespace Sys2Proof.Machine

/-! ## Lists of entries -/

/-- The entries of a page list, with their addresses; none where there is no list. -/
def Dev.entriesOf (d : Dev) (list words : Nat) : List (Nat × ListEntry) :=
  if list = 0 then [] else (List.range (4 * words)).map (fun i => (list + 16 * i, d.entryAt (list + 16 * i)))

/-- Words of a sequence's list. -/
def Dev.seqWords (d : Dev) (i : Nat) : Nat := (d.slugClass (d.seqEnt i).cls).layers * (d.seqEnt i).wpl

def Dev.seqEntries (d : Dev) (i : Nat) : List (Nat × ListEntry) := d.entriesOf (d.seqEnt i).list (d.seqWords i)

def Dev.templateEntries (d : Dev) (t : Nat) : List (Nat × ListEntry) :=
  d.entriesOf (d.template t).list (d.templateWords (d.template t))

/-- The slugs an entry names (R227): SLUG while PRESENT, NEXT while PEND is not 00b. -/
def ListEntry.names (e : ListEntry) : List Nat := (if e.present then [e.slug] else []) ++ (if e.pend ≠ 0 then [e.next] else [])

/-- LAST_STATUS and LAST_SEQUENCE of the slug manager. -/
def Dev.slugStatus (d : Dev) (status seq : Nat) : Dev := (d.wr 0x3C02_0C status).wr 0x3C02_0D seq

/-! ## Allocation -/

/-- A fresh slug of a class in a pool, with one reference. -/
def Dev.allocSlug (d : Dev) (pool cls : Nat) : Option (Nat × Dev) :=
  match d.freeSlugNo, d.freeLoc pool with
  | some n, some l => some (n, (d.putSlug n ⟨l, 1, 0, 0, cls, pool, 1, false⟩).bump 0x3C02_01)
  | _, _ => none

/-- Requeue a sequence of STATE 4 or 5 for a recompute forme (R232). -/
def Dev.requeueSeq (d : Dev) (i : Nat) : Dev :=
  let x := kvGet SeqSt.init d.seqs i
  let t := ((d.page? x.ring x.page).map (·.entryTime)).getD 0
  let d := (d.updSeqEnt i (fun e => { e with recomputed := true })).bump 0x3C02_06
  d.enqueue { Forme.blank 5 with seqs := [i], pages := [(x.ring, x.page)], items := 1, entryTime := t }

/-- A sequence gives up its page list, which is released at the next lead-in, and takes a STATE (R228); a template it
had taken has one user fewer. -/
def Dev.giveUpList (d : Dev) (i state : Nat) : Dev :=
  let e := d.seqEnt i
  let rel := (e.list, d.seqWords i)
  let d := { d with slug := { d.slug with releases := d.slug.releases ++ [rel] } }
  let d := if e.template < 255 ∧ e.wpl ≠ 0 then d.updTemplate e.template (fun t => { t with users := t.users - 1 }) else d
  d.putSeqEnt i { e with state := state, list := 0, wpl := 0, position := 0 }

/-- A sequence that has ended, or lost its slugs, leaves the formes that were to serve it; a recompute forme that waits for
it leaves its queue (R231, R232). -/
def Dev.leaveFormes (d : Dev) (i : Nat) : Dev :=
  let fs := updIf (fun (f : Forme) => f.kind = 3 || f.kind = 5) (fun f => { f with seqs := f.seqs.filter (· ≠ i) }) d.formes
  { d with formes := fs.filter (fun f => !(f.kind = 5 && f.seqs.isEmpty && !f.admitted)) }

/-- A sequence loses its slugs: its list is released and it is recomputed (R232). -/
def Dev.dropSeq (d : Dev) (i : Nat) : Dev := ((d.leaveFormes i).giveUpList i 4).requeueSeq i

/-- Evict a sequence (R231). -/
def Dev.evictSeq (d : Dev) (i : Nat) : Dev := (d.dropSeq i).bump 0x3C02_05

/-- Suspend a sequence that nothing could be evicted for (R231). -/
def Dev.suspendSeq (d : Dev) (i : Nat) : Dev :=
  (((((d.leaveFormes i).giveUpList i 5).bump 0x3C02_07).slugStatus 0x0906 i).event 0x0906 0).requeueSeq i

/-- A template's slugs are released and it needs a rebuild (R231, R234); a prefix forme that was building it leaves. -/
def Dev.evictTemplate (d : Dev) (t : Nat) : Dev :=
  let x := d.template t
  let rel := if x.list = 0 then [] else [(x.list, d.templateWords x)]
  { d with slug := { d.slug with releases := d.slug.releases ++ rel, built := d.slug.built.filter (· ≠ t) },
           formes := d.formes.filter (fun f => !(f.kind = 4 && f.ref = t)) }.putTemplate t { x with state := 4, list := 0 }

/-! ## Faults of descriptors and slugs dropped (R211, R233, R367) -/

/-- Is a slug named by a page list: in an entry, or by an install that waits for one of its empty entries? -/
def Dev.listNames (d : Dev) (es : List (Nat × ListEntry)) (ns : List Nat) : Bool :=
  es.any (fun e => e.2.names.any (fun n => ns.contains n)) ||
    d.slug.installs.any (fun i => ns.contains i.2 && es.any (fun e => e.1 = i.1))

/-- Every live sequence and template, one in building among them, that names one of these slugs. -/
def Dev.namersOf (d : Dev) (ns : List Nat) : List Nat × List Nat :=
  (d.liveSeqs.filter (fun i => d.listNames (d.seqEntries i) ns),
   d.templatesUsed.filter (fun t => (d.template t).list ≠ 0 && d.listNames (d.templateEntries t) ns))

/-- Slugs are dropped: their sequences are recomputed, their templates take STATE 4. -/
def Dev.dropSlugs (d : Dev) (ns : List Nat) : Dev :=
  let v := d.namersOf ns
  let d := d.each v.1 Dev.dropSeq
  d.each v.2 Dev.evictTemplate

/-- A descriptor found not well formed (R211): out of service until reset, dropped, status 0907h. -/
def Dev.slugFault (d : Dev) (n : Nat) : Dev :=
  let d := (d.putSlug n { Slug.free with state := 3 }).bump 0x3C02_09
  let d := (d.slugStatus 0x0907 0).charge 0x0907 3 4
  d.dropSlugs [n]

/-! ## Counts and quarantine (R227, R229) -/

/-- Change a slug by its descriptor; one that is not well formed is put out of service instead (R211). -/
def Dev.onSlug (d : Dev) (n : Nat) (f : Slug → Slug) : Dev :=
  if slugWordOk (d.slugWord n) then d.putSlug n (f (d.slugAt n)) else d.slugFault n

/-- One more reference. -/
def Dev.slugTake (d : Dev) (n : Nat) : Dev := d.onSlug n (fun s => { s with count := s.count + 1 })

/-- A live slug with one reference fewer; at 0 it enters quarantine. -/
def Slug.dropped (frame : Nat) (s : Slug) : Slug :=
  if s.state ≠ 1 then s
  else if s.count ≤ 1 then { s with count := 0, state := 2, qframe := frame % 65536 }
  else { s with count := s.count - 1 }

/-- One reference fewer. -/
def Dev.slugDrop (d : Dev) (n : Nat) : Dev := d.onSlug n (Slug.dropped d.frameCount)

/-- Have two lead-ins passed since QFRAME? -/
def Dev.aged (d : Dev) (q : Nat) : Bool := (d.frameCount % 65536 + 65536 - q) % 65536 ≥ 2

/-- Quarantined slugs and vacated slots whose time is over return to the free list (R229). -/
def Dev.quarantineFree (d : Dev) : Dev :=
  let d := d.each (d.slugsIn 2) (fun d n => d.onSlug n (fun s => if d.aged s.qframe then .free else s))
  { d with slug := { d.slug with vacated := d.slug.vacated.filter (fun v => !d.aged v.2.2) } }

/-! ## Migration (R230) -/

/-- The slugs that a sequence's list names. -/
def Dev.seqSlugs (d : Dev) (i : Nat) : List Nat := ((d.seqEntries i).map (fun e => e.2.names)).flatten

/-- Slugs that may leave galley: sealed, live, no sequence in the decode batch or with an admitted forme names them. First
come those of the other sequences, least recently advanced first, then the rest (R230). -/
def Dev.coldSlugs (d : Dev) : List Nat :=
  let busy (i : Nat) : Bool := (d.seqEnt i).state = 2 || d.formes.any (fun f => f.admitted && f.seqs.contains i)
  let hot := ((d.liveSeqs.filter busy).map d.seqSlugs).flatten
  let idle := (d.liveSeqs.filter (fun i => !busy i)).insertionSort (fun a b => (d.seqEnt a).lastStep ≤ (d.seqEnt b).lastStep)
  (((idle.map d.seqSlugs).flatten ++ d.slugsIn 1).eraseDups).filter (fun n =>
    (d.slugAt n).state = 1 && (d.slugAt n).pool = 1 && !hot.contains n && d.slug.moves.all (fun m => m.1 ≠ n))

/-- Begin a migration: the slug is copied, and LOCATION and POOL change at the next lead-in. A DDR5 word that cannot be
read, or was stored as poisoned, drops the slug (R366, R367). -/
def Dev.migrate (d : Dev) (n : Nat) (way : Migration) : Dev :=
  let s := d.slugAt n
  let toDdr : Bool := way = .toDdr
  let met : DdrIn := match way with | .toGalley r => r | .toDdr => ⟨[], none⟩
  let src := if toDdr then 1 else 2
  let dst := if toDdr then 2 else 1
  if !slugWordOk (d.slugWord n) then d.slugFault n
  else if s.state = 1 ∧ s.pool = src ∧ d.slug.moves.all (fun m => m.1 ≠ n) then
    match d.slotAddr src s.loc, d.freeLoc dst with
    | some a, some l =>
      match d.slotAddr dst l with
      | some b =>
        let bad := (wordsOf a (d.formBytes s)).filter (fun w => d.poisoned.contains w)
        if met.uncorrectable.isSome ∨ (!toDdr ∧ bad ≠ []) then
          (if met.uncorrectable.isSome then d.ddrMet met else (d.ddrMet met).ddrPoison (bad.headD 0 * 64)).dropSlugs [n]
        else
          let d := ((d.ddrMet met).copyRow 4 a b (d.formBytes s)).bump 0x3C02_04
          { d with slug := { d.slug with moves := d.slug.moves ++ [(n, dst, l)] } }
      | none => d
    | _, _ => d
  else d

/-- A migration takes effect at a lead-in: the old slot is quarantined. -/
def Dev.moveSlug (d : Dev) (m : Nat × Nat × Nat) : Dev :=
  let s := d.slugAt m.1
  if s.state = 1 then
    let v := (s.pool, s.loc, d.frameCount % 65536)
    { d with slug := { d.slug with vacated := d.slug.vacated ++ [v] } }.putSlug m.1 { s with pool := m.2.1, loc := m.2.2 }
  else d

/-! ## Making room (R230, R231) -/

/-- Slugs that a released list will give up: those that its entries name, and those whose install waits for one of them. -/
def Dev.releasedNames (d : Dev) (r : Nat × Nat) : List Nat :=
  let es := d.entriesOf r.1 r.2
  (es.map (fun e => e.2.names)).flatten ++ (d.slug.installs.filter (fun i => es.any (fun e => e.1 = i.1))).map (·.2)

/-- Slots of a pool that will return: quarantined, vacated, and those whose last references pending releases hold. -/
def Dev.slotsComing (d : Dev) (pool : Nat) : Nat :=
  let q := ((d.slugsIn 2).filter (fun n => (d.slugAt n).pool = pool)).length
  let v := (d.slug.vacated.filter (fun v => v.1 = pool)).length
  let m := (d.slug.moves.filter (fun m => (d.slugAt m.1).pool = pool)).length
  let rel := (d.slug.releases.map d.releasedNames).flatten
  q + v + m + (rel.eraseDups.filter (fun n => (d.slugAt n).pool = pool && (d.slugAt n).count ≤ rel.count n)).length

/-- Sequences that may be evicted, those not in the current decode batch, least recently advanced first (R231). -/
def Dev.seqVictims (d : Dev) (requester : Nat) : List Nat :=
  let l := d.liveSeqs.filter (fun i =>
    i ≠ requester && ((d.seqEnt i).state = 1 || (d.seqEnt i).state = 3) && d.seqSound i)
  l.insertionSort (fun a b => (d.seqEnt a).lastStep ≤ (d.seqEnt b).lastStep)

/-- Does an export hold the template's slugs? It can then be neither evicted nor rebuilt (R392). -/
def Dev.exporting (d : Dev) (t : Nat) : Bool := d.fabric.spans.any (fun x => x.template = t && !x.held.isEmpty)

/-- Templates without users that hold a slug of the pool alone, least recently used first. -/
def Dev.templateVictims (d : Dev) (pool : Nat) : List Nat :=
  let alone (t : Nat) : Bool := (d.templateEntries t).any (fun e => e.2.names.any (fun n =>
    (d.slugAt n).pool = pool && (d.slugAt n).count = 1))
  let l := d.templatesUsed.filter (fun t =>
    (d.template t).state = 2 && (d.template t).users = 0 && !d.exporting t && alone t)
  l.insertionSort (fun a b => (d.template a).lastUse ≤ (d.template b).lastUse)

/-- Take victims until enough slots of the pool will come; true when one was taken. -/
def Dev.evictUntil (d : Dev) (pool need : Nat) (f : Dev → Nat → Dev) : List Nat → Bool → Dev × Bool
  | [], took => (d, took)
  | v :: r, took => if d.slotsComing pool ≥ need then (d, took) else (f d v).evictUntil pool need f r true

/-- Room for need slots of a pool that found no free slot: migration first, then eviction, then the growing sequence is
suspended (R231); seq 4096 stands for a template, which has none. -/
def Dev.makeRoom (d : Dev) (pool need seq : Nat) : Dev :=
  if need = 0 ∨ d.slotsComing pool ≥ need then d
  else
    let d := if pool = 1 then d.each (d.coldSlugs.take (need - d.slotsComing pool)) (fun d n => d.migrate n .toDdr) else d
    if d.slotsComing pool ≥ need then d
    else
      let a := d.evictUntil pool need Dev.evictSeq (d.seqVictims seq) false
      let b := a.1.evictUntil pool need (fun d t => (d.evictTemplate t).bump 0x3C02_05) (a.1.templateVictims pool) a.2
      if b.2 ∨ seq ≥ 4096 then b.1 else b.1.suspendSeq seq

/-! ## Preparation (R224, R225) -/

/-- What a forme that writes positions p0 to p1 − 1 of a sequence still needs at an entry of its page list: 0 the open
slug of a new block, 1 a seal target, 2 a copy of a shared block, 3 a migration back. A new block that the forme also seals
needs both its slugs at once (R224). -/
def Dev.slugNeed (d : Dev) (c : SlugClass) (p0 p1 l j : Nat) (e : SeqEnt) : List (Nat × Nat) :=
  let a := entryAddr e.list e.wpl l j
  let x := d.entryAt a
  let s := d.slugAt x.slug
  let writes := p0 ≤ c.tokens * j + c.tokens - 1 && c.tokens * j < p1
  let seals := c.narrow && c.tokens * j + c.tokens < p1
  let target := if seals && x.pend = 0 then [(1, a)] else []
  if !x.present then
    (if writes then (if d.slug.installs.all (fun i => i.1 ≠ a) then [(0, a)] else []) ++ target else [])
  else if s.pool = 2 then (if d.slug.moves.any (fun m => m.1 = x.slug) then [] else [(3, x.slug)])
  else if s.pool = 0 && seals then target
  else if s.pool = 0 && writes && s.count > 1 && x.pend = 0 then [(2, a)]
  else []

/-- Everything a forme that writes positions p0 to p1 − 1 still needs, over all layers and the blocks up to its end;
nothing while the sequence has no page list. -/
def Dev.slugNeeds (d : Dev) (i p0 p1 : Nat) : List (Nat × Nat) :=
  let e := d.seqEnt i
  let c := d.slugClass e.cls
  if c.tokens = 0 ∨ p1 = 0 ∨ e.list = 0 then [] else
  ((List.range c.layers).map (fun l =>
    ((List.range ((p1 - 1) / c.tokens + 1)).map (fun j => d.slugNeed c p0 p1 l j e)).flatten)).flatten

/-- Copy a shared open slug into a fresh one (R225). -/
def Dev.copyOnWrite (d : Dev) (a : Nat) (x : ListEntry) (n : Nat) : Dev :=
  let o := d.slugAt x.slug
  let s := d.slugAt n
  let d := match d.slotAddr 0 o.loc, d.slotAddr 0 s.loc with
    | some p, some q => d.copyRow 4 p q (d.formBytes o)
    | _, _ => d
  ((d.putSlug n { s with fill := o.fill }).putEntry a { x with next := n, pend := 1 }).bump 0x3C02_02

/-- Meet one need; the pools found without a free slot are counted. -/
def Dev.meetNeed (cls : Nat) (st : Dev × Nat × Nat) (n : Nat × Nat) : Dev × Nat × Nat :=
  let d := st.1
  match n.1 with
  | 3 => if (d.freeLoc 1).isSome then (d.migrate n.2 (.toGalley ⟨[], none⟩), st.2) else (d, st.2.1, st.2.2 + 1)
  | 1 => match d.allocSlug 1 cls with
    | some (s, d) => (d.putEntry n.2 { d.entryAt n.2 with next := s, pend := 2 }, st.2)
    | none => (d, st.2.1, st.2.2 + 1)
  | k => match d.allocSlug 0 cls with
    | some (s, d) =>
      if k = 0 then ({ d with slug := { d.slug with installs := d.slug.installs ++ [(n.2, s)] } }, st.2)
      else (d.copyOnWrite n.2 (d.entryAt n.2) s, st.2)
    | none => (d, st.2.1 + 1, st.2.2)

/-- Slugs of a page list whose descriptors are not well formed are put out of service (R211). -/
def Dev.mendSlugs (d : Dev) (es : List (Nat × ListEntry)) : Dev :=
  d.each (((es.map (fun e => e.2.names)).flatten).eraseDups.filter (fun n => !slugWordOk (d.slugWord n))) Dev.slugFault

/-- Prepare a sequence for a forme that writes positions p0 to p1 − 1 (R224). -/
def Dev.prepareSeq (d : Dev) (i p0 p1 : Nat) : Dev :=
  let d := d.mendSlugs (d.seqEntries i)
  let r := (d.slugNeeds i p0 p1).foldl (Dev.meetNeed (d.seqEnt i).cls) (d, 0, 0)
  (r.1.makeRoom 0 r.2.1 i).makeRoom 1 r.2.2 i

/-- Do the entries of a page list stand as a frame may walk them: well formed, with no slug that only the next lead-in
installs or swaps in (R224, R226), and every slug named live and in galley (R230)? -/
def Dev.listReady (d : Dev) (es : List (Nat × ListEntry)) : Bool :=
  es.all (fun e => entryOk (d.mrd e.1 16) && e.2.pend ≠ 1 && d.slug.installs.all (fun i => i.1 ≠ e.1) &&
    (!e.2.present || (slugWordOk (d.slugWord e.2.slug) && (d.slugAt e.2.slug).state = 1 && (d.slugAt e.2.slug).pool ≠ 2)))

/-- Is a sequence prepared for a forme of this frame that writes positions p0 to p1 − 1 (R224)? One whose words are not
well formed is not (R4). -/
def Dev.seqPrepared (d : Dev) (i p0 p1 : Nat) : Bool :=
  d.seqSound i && (d.slugNeeds i p0 p1).isEmpty && d.listReady (d.seqEntries i)

/-- A sequence that a lead-in finds unprepared is held for the frame (R224, R253): counted and marked, and prepared on. -/
def Dev.holdSeq (d : Dev) (i p0 p1 : Nat) : Dev :=
  let x := kvGet SeqSt.init d.seqs i
  let d := (d.bump 0x3C02_08).updSeqEnt i (fun e => { e with holds := (e.holds + 1) % 65536 })
  let d := { d with seqs := kvPut SeqSt.init d.seqs i { x with held := true } }
  (d.updPage x.ring x.page (fun p => { p with seqHeld := true })).prepareSeq i p0 p1

/-- Prepare a sequence for its next decode step, at POSITION. -/
def Dev.prepareStep (d : Dev) (i : Nat) : Dev := d.prepareSeq i (d.seqEnt i).position ((d.seqEnt i).position + 1)

def Dev.stepPrepared (d : Dev) (i : Nat) : Bool := d.seqPrepared i (d.seqEnt i).position ((d.seqEnt i).position + 1)

/-! ## Commits (R218, R223) -/

/-- Seal targets written by a forme that commits: PEND becomes 11b. -/
def Dev.sealCommit (d : Dev) (i : Nat) : Dev :=
  d.each (d.seqEntries i) (fun d e =>
    if e.2.pend = 2 then (d.putEntry e.1 { e.2 with pend := 3 }).bump 0x3C02_03 else d)

/-- Take a seal commit back when the step is rejected (R249). -/
def Dev.sealRevert (d : Dev) (i : Nat) : Dev :=
  d.each (d.seqEntries i) (fun d e =>
    if e.2.pend = 3 then (d.putEntry e.1 { e.2 with pend := 2 }).wr 0x3C02_03 (d.rd 0x3C02_03 - 1) else d)

/-- FILL of the slugs in the blocks of a sequence's first n positions, for so many of them written as p says. -/
def Dev.fillBlocks (d : Dev) (i n p : Nat) : Dev :=
  let e := d.seqEnt i
  let c := d.slugClass e.cls
  (List.range c.layers).foldl (fun d l =>
    (List.range (if c.tokens = 0 ∨ n = 0 then 0 else (n - 1) / c.tokens + 1)).foldl (fun d j =>
      let x := d.entryAt (entryAddr e.list e.wpl l j)
      let put (d : Dev) (n : Nat) : Dev := d.onSlug n (fun s => { s with fill := min c.tokens (p - c.tokens * j) })
      let d := if x.present then put d x.slug else d
      if x.pend ≠ 0 then put d x.next else d) d) d

/-- FILL of a sequence's slugs after it holds p positions. -/
def Dev.fillSlugs (d : Dev) (i p : Nat) : Dev := d.fillBlocks i p p

/-- A sequence has p positions written once its forme commits. -/
def Dev.advanceSeq (d : Dev) (i p : Nat) : Dev :=
  let d := d.updSeqEnt i (fun e => { e with position := p, lastStep := d.frameCount % 2 ^ 32 })
  (d.sealCommit i).fillSlugs i p

/-! ## The lead-in (R226) -/

/-- NEXT moves into SLUG for PEND 01b and 11b; the replaced slugs are returned to be counted down. -/
def swapEntries (st : Dev × List Nat) (e : Nat × ListEntry) : Dev × List Nat :=
  if e.2.pend = 1 ∨ e.2.pend = 3 then
    (st.1.putEntry e.1 ⟨e.2.next, true, 0, 0⟩, st.2 ++ [e.2.slug])
  else st

/-- Release a page list: each slug it names loses one reference, and its words return (R228). -/
def Dev.releaseList (d : Dev) (r : Nat × Nat) : Dev :=
  let d := d.each (d.entriesOf r.1 r.2) (fun d e => d.each e.2.names Dev.slugDrop)
  { d with slug := { d.slug with lists := d.slug.lists.filter (fun l => l.1 ≠ r.1 || l.2 ≠ 64 * r.2) } }

/-- The formes in place that read for some sequences or a template fault with 0905h (R290). -/
def Dev.faultReaders (d : Dev) (reads : Forme → Bool) : Dev :=
  d.each (d.formes.filter (fun f => f.group.isSome && reads f)) (fun d f => d.faultForme f.id 0x0905)

/-- A sequence whose table word or one of whose list entries is not well formed: a detection of the word, charged to the slug
manager, and the formes that read for the sequence restart (R290). Its value is not used (R4), so that the sequence is held
until it ends (DESIGN CHOICE, log entry 154). -/
def Dev.checkSeq (d : Dev) (i : Nat) : Dev :=
  let bad := (if d.seqSound i then [] else [seqAddr i]) ++
    ((d.seqEntries i).filter (fun e => !entryOk (d.mrd e.1 16))).map (·.1)
  if bad.isEmpty then d else (d.each bad (fun d a => d.detection a 0)).faultReaders (fun f => f.seqs.contains i)

/-- A template whose table word or one of whose list entries is not well formed: the same for its prefix forme. It must be
built again, and where its PREFIX_LEN is lost it is empty (DESIGN CHOICE, log entry 154). -/
def Dev.checkTemplate (d : Dev) (t : Nat) : Dev :=
  let w := d.word (templateAddr t)
  let bad := (if templateWordOk w then [] else [templateAddr t]) ++
    ((d.templateEntries t).filter (fun e => !entryOk (d.mrd e.1 16))).map (·.1)
  if bad.isEmpty then d
  else
    let d := ((d.each bad (fun d a => d.detection a 0)).faultReaders (fun f => f.kind = 4 && f.ref = t)).evictTemplate t
    if (pairedAt w 384).2 then d else d.putTemplate t .empty

/-- The words that a lead-in reads: sequence and template entries with their page lists (R4, R290), and the slug descriptors
(R211). -/
def Dev.checkTables (d : Dev) : Dev :=
  let d := d.each d.liveSeqs Dev.checkSeq
  let d := d.each d.templatesUsed Dev.checkTemplate
  d.each (d.slugNums.filter (fun n => !slugWordOk (d.slugWord n))) Dev.slugFault

/-- A new block's slug enters its entry, which may name a seal target already. -/
def Dev.installSlug (d : Dev) (i : Nat × Nat) : Dev := d.putEntry i.1 { d.entryAt i.1 with slug := i.2, present := true }

/-- Steps 1 to 4 of R226. -/
def Dev.slugLeadIn (d : Dev) : Dev :=
  let d := d.checkTables
  let d := d.each d.slug.installs Dev.installSlug
  let d := d.each d.slug.moves Dev.moveSlug
  let d := { d with slug := { d.slug with installs := [], moves := [] } }
  let ts := d.templatesUsed.filter (fun t => (d.template t).list ≠ 0)
  let es := (d.liveSeqs.map d.seqEntries).flatten ++ (ts.map d.templateEntries).flatten
  let r := es.foldl swapEntries (d, [])
  let d := r.1.each r.2 Dev.slugDrop
  let d := d.each d.slug.releases Dev.releaseList
  let d := d.each d.slug.built (fun d t => d.updTemplate t (fun x => if x.state = 1 then { x with state := 2 } else x))
  let d := { d with slug := { d.slug with releases := [], built := [] } }
  let ended := d.seqNums.filter (fun i => (d.seqEnt i).state = 6)
  let d := d.each ended (fun d i => { d.zeroRange (seqAddr i) 64 with seqs := kvErase d.seqs i })
  d.quarantineFree

/-- Step 5 (R217, R224, R253): the row of one sequence in the decode batch, valid when it is ready and prepared; else
the sequence is held. -/
def Dev.writeRow (d : Dev) (i : Nat) : Dev :=
  let e := d.seqEnt i
  let x := kvGet SeqSt.init d.seqs i
  let prep := d.stepPrepared i
  let valid := x.ready && prep
  let c := d.slugClass e.cls
  let sl := c.narrow && c.tokens ≠ 0 && e.position ≠ 0 && e.position % c.tokens = 0
  let d := d.putBatchRow (batchRowAddr e.row) ⟨e.list, e.position, e.wpl, i, e.cls, valid, sl⟩
  if valid then d.updSeqEnt i (fun e => { e with state := 2 })
  else
    let d := if x.ready then d else d.bump 0x3A00_05
    let d := { d with seqs := kvPut SeqSt.init d.seqs i { x with held := true } }
    let d := d.updPage x.ring x.page (fun p => { p with seqHeld := true })
    let d := if prep then d else d.holdSeq i e.position (e.position + 1)
    if (d.seqEnt i).state = 2 ∨ (d.seqEnt i).state = 3 then d.updSeqEnt i (fun e => { e with state := 3 }) else d

/-- The row of a sequence of the decode batch, VALID 0 where a row written before has evicted it (R231). -/
def Dev.writeRowOf (d : Dev) (i : Nat) : Dev :=
  if (d.seqEnt i).state = 2 ∨ (d.seqEnt i).state = 3 then d.writeRow i
  else d.putBatchRow (batchRowAddr (d.seqEnt i).row) .none

/-- The decode batch table: a row for each sequence in STATE 2 or 3, every other row VALID 0. -/
def Dev.writeBatch (d : Dev) : Dev :=
  let ss := d.liveSeqs.filter (fun i => (d.seqEnt i).state = 2 || (d.seqEnt i).state = 3)
  let rows := ss.map (fun i => (d.seqEnt i).row)
  let old := ((d.mem.filter (fun c => 0x1244_0000 ≤ c.1 && c.1 < 0x1244_4000)).map (fun c => (c.1 - 0x1244_0000) / 64)).eraseReps
  let d := d.each (old.filter (fun r => !rows.contains r)) (fun d r => d.putBatchRow (batchRowAddr r) .none)
  d.each ss Dev.writeRowOf

/-- Batch rows with VALID 1. -/
def Dev.validRows (d : Dev) : List Nat :=
  (((d.mem.filter (fun c => 0x1244_0000 ≤ c.1 && c.1 < 0x1244_4000)).map (fun c => (c.1 - 0x1244_0000) / 64)).eraseReps).filter
    (fun r => (d.batchRow r).valid)

/-! ## Regions (R212, R233) -/

/-- Is the die's slug region usable in an imposition: every group resident, the die not left out? -/
def regionUsable (imp : ImpositionSeg) (leftOut die first groups : Nat) : Bool :=
  leftOut ≠ die + 1 && (List.range groups).all (fun g => imp.groupUse.getD (64 * die + first + g) 0 = 1)

/-- Every region is checked against the imposition in force; a failed check raises 0909h once, however many regions fail. -/
def Dev.checkRegions (d : Dev) : Dev :=
  match d.imposition with
  | none => d
  | some imp =>
    let set := (List.range 6).filter (fun n => (d.slugRegion n).2.1 ≠ 0)
    let ok := set.filter (fun n => regionUsable imp (d.rd 0x2504_02) n (d.slugRegion n).1 (d.slugRegion n).2.1)
    let d := { d with slug := { d.slug with regions := ok } }
    if ok.length < set.length then (d.slugStatus 0x0909 0).event 0x0909 0 else d

/-- Is a slug's slot in the region of a die? -/
def Dev.slugOnDie (d : Dev) (die n : Nat) : Bool :=
  let s := d.slugAt n
  s.pool ≠ 2 && (match d.slotFrom s.pool 6 s.loc with | some p => p.1 = die | none => false)

/-- A switch that leaves a die out drops every slug of its region; migrations into it are given up (R233). -/
def Dev.dropDie (d : Dev) (die : Nat) : Dev :=
  let d := d.dropSlugs ((d.slugsIn 1).filter (d.slugOnDie die))
  let onDie (m : Nat × Nat × Nat) : Bool := m.2.1 ≠ 2 && (d.slotFrom m.2.1 6 m.2.2).any (fun p => p.1 = die)
  { d with slug := { d.slug with regions := d.slug.regions.filter (· ≠ die), moves := d.slug.moves.filter (fun m => !onDie m) } }

/-! ## Sequences at admission (R213 to R216, R234) -/

/-- Longest walk order of a sequence for one gather descriptor (R221). -/
def walkLongest (limit t globals window : Nat) : Nat :=
  if t = 0 then 0 else min ((limit + t - 1) / t) ((globals + t - 1) / t + (window - 1 + t - 1) / t + 1)

/-- A walk descriptor's fields (Table 11-6). -/
structure WalkDesc where
  table : Nat
  map : Nat
  stride : Nat
  openOffset : Nat
  openWords : Nat
  sealedOffset : Nat
  sealedWords : Nat
  window : Nat
  globals : Nat
  layer : Nat
  rowCount : Nat
  firstRow : Nat
  cls : Nat
  mode : Nat
  firstSlice : Nat
  sliceLimit : Nat
  deriving DecidableEq, Repr

def walkDescOf (w : Nat) : WalkDesc :=
  { table := bits w 479 448, map := bits w 415 384, stride := bits w 351 320, openOffset := bits w 319 304,
    openWords := bits w 303 288, sealedOffset := bits w 287 272, sealedWords := bits w 271 256, window := bits w 255 243,
    globals := bits w 242 236, layer := bits w 235 228, rowCount := bits w 227 219, firstRow := bits w 218 211,
    cls := bits w 210 208, mode := bits w 207 206, firstSlice := bits w 191 176, sliceLimit := bits w 175 160 }

/-- Can a sequence of this class and LIMIT reach a walk order beyond CLASS_SLICE_LIMIT (R221)? -/
def Dev.walkTooLong (d : Dev) (cls limit : Nat) : Bool :=
  let c := d.slugClass cls
  let ws : List WalkDesc := match d.activeSet with
    | some ps => (ps.walks.map walkDescOf).filter (fun (w : WalkDesc) => w.cls = cls && w.mode = 0)
    | none => []
  ws.any (fun (w : WalkDesc) => walkLongest limit c.tokens w.globals w.window > d.rd (dkey (0x3C10 + cls) 7))

/-- The template's list entries for the prefix blocks are named by the sequence too; each count rises by one (R234). -/
def Dev.takeTemplate (d : Dev) (i t : Nat) : Dev :=
  let x := d.template t
  let e := d.seqEnt i
  let c := d.slugClass e.cls
  let tw := d.templateWpl x
  let blocks := if c.tokens = 0 then 0 else (x.prefixLen + c.tokens - 1) / c.tokens
  let d := (List.range c.layers).foldl (fun d l => (List.range blocks).foldl (fun d j =>
    let y := d.entryAt (entryAddr x.list tw l j)
    if y.present then (d.putEntry (entryAddr e.list e.wpl l j) ⟨y.slug, true, 0, 0⟩).slugTake y.slug else d) d) d
  (d.updTemplate t (fun x => { x with users := x.users + 1, lastUse := d.frameCount % 2 ^ 32 })).updSeqEnt i
    (fun e => { e with position := x.prefixLen })

/-- A template whose SET_ID or ADAPTER_VERSION is not the active one takes STATE 4 (R234); while an export holds it, once
the export is over (R392). -/
def Dev.templateFresh (d : Dev) (t : Nat) : Dev :=
  let x := d.template t
  if x.state = 2 ∧ (x.setId ≠ d.activeSetId ∨ x.version ≠ d.rd 0x3E12_05) ∧ !d.exporting t then d.evictTemplate t else d

/-- Every template against the set and adapter in force. -/
def Dev.freshTemplates (d : Dev) : Dev := d.each d.templatesUsed Dev.templateFresh

end Sys2Proof.Machine
end

