-- ==== Sys2Proof/Machine/Walks.lean ====
section
/-! DEFINITION. Slug walks, D_OP 4 (R217 to R221): gather with its map, append, seal read, seal write. -/

namespace Sys2Proof.Machine

/-- One block move of a walk: source, destination, bytes. -/
abbrev WalkMove := Nat × Nat × Nat

/-- What stops a row of a walk: an entry without PRESENT or a slug that is not live (R220), a slug descriptor not well
formed (R211), a paired word not well formed (R290), an address or bank refused (R44, R105), a scoreboard slot not drained
(R62). -/
inductive RowStop where
  | missing
  | badSlug (n : Nat)
  | bad (addr : Nat)
  | refused (status : Nat)
  | undrained (slot : Nat)
  deriving DecidableEq, Repr

/-- What a row of a walk does: its moves, or what stopped it. -/
inductive RowWalk where
  | moves (ms : List WalkMove)
  | stop (s : RowStop)
  deriving DecidableEq, Repr

/-- The walk order of a row at position t (R219): blocks with a global position, then blocks of the local window. -/
def walkOrder (t tokens globals window : Nat) : List Nat :=
  if tokens = 0 then [] else
  let all := List.range (t / tokens + 1)
  let g := all.filter (fun j => tokens * j < globals)
  let lo := t + 1 - window
  g ++ all.filter (fun j => !(tokens * j < globals) && lo ≤ tokens * j + tokens - 1)

/-- What a walk finds of a slug number (R220): the live slug with its slot's address, or what stops the row. -/
inductive WalkSlug where
  | found (s : Slug) (addr : Nat)
  | stop (s : RowStop)
  deriving DecidableEq, Repr

/-- A word of n bytes that a walk reads: refused at its address or bank, or not well formed (R44, R105, R290). -/
def Dev.walkWord (d : Dev) (a n : Nat) (ok : Bool) : Option RowStop :=
  if d.reachStatus a n ≠ 0 then some (.refused (d.reachStatus a n))
  else if d.isPoisoned a || !ok then some (.bad a)
  else none

/-- A slug that a list entry names, if it is live (R211, R220). -/
def Dev.walkSlugNo (d : Dev) (n : Nat) : WalkSlug :=
  let s := d.slugAt n
  if !slugWordOk (d.slugWord n) then .stop (.badSlug n)
  else if s.state ≠ 1 then .stop .missing
  else match d.slotAddr s.pool s.loc with
    | some a => .found s a
    | none => .stop .missing

/-- The slug of a list entry that a walk reads, by SLUG, or by NEXT for a seal write. -/
def Dev.walkSlug (d : Dev) (entry : Nat) (next : Bool) : WalkSlug :=
  match d.walkWord entry 16 (entryOk (d.mrd entry 16)) with
  | some s => .stop s
  | none =>
    let x := d.entryAt entry
    if next then (if x.pend = 0 then .stop .missing else d.walkSlugNo x.next)
    else if x.present then d.walkSlugNo x.slug
    else .stop .missing

/-- Add one block's move, or what stopped it; the first stop stands. -/
def RowWalk.add (acc : RowWalk) (m : WalkSlug) (f : Slug → Nat → WalkMove) : RowWalk :=
  match acc, m with
  | .moves ms, .found s a => .moves (ms ++ [f s a])
  | .moves _, .stop s => .stop s
  | x, _ => x

/-- Gather (R218): walk-order slices FIRST_SLICE to FIRST_SLICE + ROWS − 1, each in the form its entry's slug holds. The
i-th slice gathered goes to the i-th place of the row area (log entry 24). -/
def Dev.gatherRow (d : Dev) (w : WalkDesc) (y : Desc) (row : BatchRow) (area : Nat) : RowWalk :=
  let c := d.slugClass w.cls
  let js := ((walkOrder row.position c.tokens w.globals w.window).drop w.firstSlice).take y.rows
  (js.zipIdx).foldl (fun acc j =>
    acc.add (d.walkSlug (entryAddr row.list row.wpl w.layer j.1) false) (fun s a =>
      if s.pool = 0 then (a + 64 * w.openOffset, area + 64 * j.2 * y.dstPitch, 64 * w.openWords)
      else (a + 64 * w.sealedOffset, area + 64 * j.2 * y.dstPitch, 64 * w.sealedWords))) (.moves [])

/-- The map of a gathered row (R219): t, the slices gathered, and a description of each. -/
def Dev.gatherMap (d : Dev) (w : WalkDesc) (y : Desc) (row : BatchRow) : List Byte :=
  let c := d.slugClass w.cls
  let t := row.position
  let js := ((walkOrder t c.tokens w.globals w.window).drop w.firstSlice).take y.rows
  let desc (j : Nat) : Nat :=
    let s := d.slugAt (d.entryAt (entryAddr row.list row.wpl w.layer j)).slug
    c.tokens * j % 65536 + 2 ^ 16 * min c.tokens (t + 1 - c.tokens * j) + 2 ^ 23 * flag (s.pool = 0)
  leBytes 4 t ++ leBytes 4 js.length ++ (js.map (fun j => leBytes 4 (desc j))).flatten

/-- Bytes of a row's map: 64 · ⌈(ROWS + 2) / 16⌉. -/
def mapBytes (rows : Nat) : Nat := 64 * ((rows + 2 + 15) / 16)

/-- Append (R218): ROWS positions from the row area into the open slugs of their blocks. -/
def Dev.appendRow (d : Dev) (w : WalkDesc) (y : Desc) (row : BatchRow) (area : Nat) : RowWalk :=
  let c := d.slugClass w.cls
  if c.tokens = 0 then .moves [] else
  (List.range y.rows).foldl (fun acc k =>
    let p := row.position + k
    acc.add (d.walkSlug (entryAddr row.list row.wpl w.layer (p / c.tokens)) false) (fun _ a =>
      (area + 64 * k * y.srcPitch, a + 64 * (w.openOffset + p % c.tokens * y.length / 64), y.length))) (.moves [])

/-- The entry of the block that a row with SEAL seals. -/
def sealEntry (c : SlugClass) (w : WalkDesc) (row : BatchRow) : Nat :=
  entryAddr row.list row.wpl w.layer (if c.tokens = 0 then 0 else row.position / c.tokens - 1)

/-- Seal read (R218): words of the sealing block's open slug to the row area. -/
def Dev.sealReadRow (d : Dev) (w : WalkDesc) (row : BatchRow) (area : Nat) : RowWalk :=
  if row.sealing then
    RowWalk.add (.moves []) (d.walkSlug (sealEntry (d.slugClass w.cls) w row) false)
      (fun _ a => (a + 64 * w.openOffset, area, 64 * w.openWords))
  else .moves []

/-- Seal write (R218): words from the row area to the entry's NEXT. -/
def Dev.sealWriteRow (d : Dev) (w : WalkDesc) (row : BatchRow) (area : Nat) : RowWalk :=
  if row.sealing then
    RowWalk.add (.moves []) (d.walkSlug (sealEntry (d.slugClass w.cls) w row) true)
      (fun _ a => (area, a + 64 * w.sealedOffset, 64 * w.sealedWords))
  else .moves []

/-- Move a row's blocks and write its map, unless an address or bank refuses one of them (R44, R105) or a slot under
EXPECT_DRAIN that they reach is not drained (R62). -/
def Dev.walkMoves (d : Dev) (x : CoreSt) (ms : List WalkMove) (map : Nat × List Byte) : Dev × Option RowStop :=
  let st (m : WalkMove) : Nat := orStatus (d.reachStatus m.1 m.2.2) (d.reachStatus m.2.1 m.2.2)
  match (d.reachStatus map.1 map.2.length :: ms.map st).find? (· ≠ 0) with
  | some status => (d, some (.refused status))
  | none =>
    match d.undrainedIn x ((map.1, map.2.length) :: ms.map (fun m => m.2)) with
    | some n => (d, some (.undrained n))
    | none => ((d.each ms (fun d m => d.copyRow 4 m.1 m.2.1 m.2.2)).put map.1 map.2, none)

/-- One row of a walk, and what stopped it. A row with VALID 0 produces no work; a row that is stopped moves nothing. -/
def Dev.walkRow (d : Dev) (mode : Nat) (x : CoreSt) (w : WalkDesc) (y : Desc) (r : Nat) : Dev × Option RowStop :=
  let raw := d.word (w.table + 64 * r)
  let row := batchRowOf raw
  let area := y.dst + (r - w.firstRow) * w.stride
  match d.walkWord (w.table + 64 * r) 64 (!row.valid || batchRowOk raw) with
  | some s => (d, some s)
  | none =>
    if !row.valid then (d, none)
    else
      let res := match mode with
        | 0 => d.gatherRow w y row area
        | 1 => d.appendRow w y row area
        | 2 => d.sealReadRow w row area
        | _ => d.sealWriteRow w row area
      match res with
      | .stop .missing => (d.slugStatus 0x0905 row.seq, some .missing)
      | .stop s => (d, some s)
      | .moves ms =>
        d.walkMoves x ms (if mode = 0 then (w.map + (r - w.firstRow) * mapBytes y.rows, d.gatherMap w y row) else (0, []))

/-- The rows of a walk in order, with what stopped the first row that stopped. -/
def Dev.walkRows (d : Dev) (mode : Nat) (x : CoreSt) (w : WalkDesc) (y : Desc) (rs : List Nat) : Dev × Option RowStop :=
  rs.foldl (fun acc r =>
    let q := acc.1.walkRow mode x w y r
    (q.1, acc.2 <|> q.2)) (d, none)

/-- The end of a walk: what its first stopped row asks for: 0905h charged to hub unit 4 (R289), a slug put out of service
(R211), and the rest as for every transfer. -/
def Dev.walkEnd (d : Dev) (c : Fin 96) (x : CoreSt) (bundle : Nat) (t : Xfer) : Option RowStop → Dev
  | none => d
  | some .missing => (d.faultForme t.forme 0x0905).charge 0x0905 3 4
  | some (.badSlug n) => (d.slugFault n).faultForme t.forme 0x0907
  | some (.bad a) => d.badPaired c x t a
  | some (.refused status) => d.refuseTransfer c t status
  | some (.undrained n) => d.stopUndrained c x bundle t n

/-- D_OP 4: the walk descriptor at SRC gives table, rows, offsets and window; with ROWS or LENGTH 0 it is an empty transfer
(R56). Words that a link dropped keep what they
held (R30). -/
def walkMove (mode : Nat) (d : Dev) (c : Fin 96) (x : CoreSt) (l : Launch) (t : Xfer) : Dev :=
  let y := descOf l.word
  let src := y.src / 64 * 64
  let w := walkDescOf (d.word src)
  if y.rows = 0 ∨ y.length = 0 then d else
  match d.walkWord src 64 (pairsOk (d.word src) [448, 384, 320]) with
  | some s => d.walkEnd c x l.bundle t (some s)
  | none =>
    let r := d.walkRows mode x w y ((List.range w.rowCount).map (· + w.firstRow))
    (r.1.keepDropped d l.dropped).walkEnd c x l.bundle t r.2

/-- The static rules of a walk descriptor (R221): reserved fields, class and layer, row range, and offsets. -/
def Dev.walkOk (d : Dev) (raw : Nat) : Bool :=
  let w := walkDescOf raw
  let c := d.slugClass w.cls
  pairsOk raw [448, 384, 320] && bits raw 205 192 = 0 && bits raw 159 0 = 0 && c.valid && w.layer < c.layers &&
    w.firstRow + w.rowCount ≤ 256 && w.rowCount ≤ 256 && w.stride % 64 = 0 && 1 ≤ w.window && w.window ≤ 4096 &&
    w.globals ≤ 64 && 64 * (w.openOffset + w.openWords) ≤ c.openBytes &&
    (if c.narrow then 64 * (w.sealedOffset + w.sealedWords) ≤ c.sealedBytes
     else w.sealedOffset + w.sealedWords = 0 || 64 * (w.sealedOffset + w.sealedWords) ≤ c.sealedBytes)

end Sys2Proof.Machine
end

