-- ==== Sys2Proof/Machine/Utf8.lean ====
section
/-! DEFINITION. Text streams (R239 to R243): the UTF-8 decoder with its replacements, normalisation, tokenising; and the
checks of fount and grammar images (R237, R244). -/

namespace Sys2Proof.Machine

/-! ## The decoder (R239) -/

/-- The range of a byte that may follow these pending bytes (The Unicode Standard, Table 3-7). -/
def utf8Next : List Nat → Nat × Nat
  | [a] =>
    if a = 0xE0 then (0xA0, 0xBF)
    else if a = 0xED then (0x80, 0x9F)
    else if a = 0xF0 then (0x90, 0xBF)
    else if a = 0xF4 then (0x80, 0x8F)
    else (0x80, 0xBF)
  | _ => (0x80, 0xBF)

/-- Bytes of the sequence that a lead byte begins; 0 for a byte that begins none. -/
def utf8Len (a : Nat) : Nat :=
  if a < 0x80 then 1 else if a < 0xC2 then 0 else if a < 0xE0 then 2 else if a < 0xF0 then 3 else if a < 0xF5 then 4 else 0

/-- U+FFFD in UTF-8. -/
def fffd : List Byte := [0xEF#8, 0xBF#8, 0xBD#8]

/-- A character as it leaves a decoder: its bytes with their captures, whether it is a replacement, and whether the byte
fed last belongs to it. -/
structure OutChar where
  bytes : List (Byte × Nat)
  replaced : Bool
  own : Bool
  deriving DecidableEq, Repr

def replacement (cap : Nat) (own : Bool) : OutChar := ⟨fffd.map (fun b => (b, cap)), true, own⟩

/-- Feed one byte of a capture to a decoder with pending bytes: characters out, bytes pending after. -/
def utf8Feed (pend : List (Byte × Nat)) (b : Byte) (cap : Nat) : List OutChar × List (Byte × Nat) :=
  let start : List OutChar × List (Byte × Nat) :=
    match utf8Len b.toNat with
    | 0 => ([replacement cap true], [])
    | 1 => ([⟨[(b, cap)], false, true⟩], [])
    | _ => ([], [(b, cap)])
  match pend with
  | [] => start
  | p :: _ =>
    let r := utf8Next (pend.map (fun x => x.1.toNat))
    if r.1 ≤ b.toNat ∧ b.toNat ≤ r.2 then
      let all := pend ++ [(b, cap)]
      if all.length = utf8Len p.1.toNat then ([⟨all, false, true⟩], []) else ([], all)
    else (replacement cap false :: start.1, start.2)

/-- A whole stream: its characters, the end flushed (R240). -/
def utf8Stream : List (Byte × Nat) → List Byte → List OutChar
  | [], [] => []
  | p :: r, [] => [replacement ((p :: r).getLastD (0#8, 0)).2 false]
  | pend, b :: r => (utf8Feed pend b 0).1 ++ utf8Stream (utf8Feed pend b 0).2 r

/-- Is a byte string well-formed UTF-8? -/
def utf8Ok (bs : List Byte) : Bool := (utf8Stream [] bs).all (fun c => !c.replaced)

/-- The code point of a well-formed sequence. -/
def codePoint (bs : List Byte) : Nat :=
  match bs.map (fun b => b.toNat) with
  | [a] => a
  | [a, b] => a % 32 * 64 + b % 64
  | [a, b, c] => a % 16 * 4096 + b % 64 * 64 + c % 64
  | [a, b, c, e] => a % 8 * 262144 + b % 64 * 4096 + c % 64 * 64 + e % 64
  | _ => 0

/-- A code point in UTF-8. -/
def utf8Encode (c : Nat) : List Byte :=
  (if c < 0x80 then [c]
   else if c < 0x800 then [0xC0 + c / 64, 0x80 + c % 64]
   else if c < 0x10000 then [0xE0 + c / 4096, 0x80 + c / 64 % 64, 0x80 + c % 64]
   else [0xF0 + c / 262144, 0x80 + c / 4096 % 64, 0x80 + c / 64 % 64, 0x80 + c % 64]).map (BitVec.ofNat 8)

/-- Unicode scalar values. -/
def isScalar (c : Nat) : Bool := c < 0xD800 || (0xE000 ≤ c && c < 0x110000)

/-! ## Tokenising (R241, R242) -/

/-- The token of non-zero length with the longest string that a text begins with: its length and number. -/
def longestToken (f : FountIn) (text : List Byte) : Nat × Nat :=
  (f.tokens.zipIdx).foldl (fun best t =>
    if t.1.length > best.1 && t.1.isPrefixOf text then (t.1.length, t.2) else best) (0, 0)

def tokensFrom (f : FountIn) : Nat → List Byte → List Nat
  | 0, _ => []
  | _, [] => []
  | fuel + 1, text =>
    let t := longestToken f text
    t.2 :: tokensFrom f fuel (text.drop (max 1 t.1))

/-- A character after normalisation. -/
def normalised (f : FountIn) (bs : List Byte) : List Byte :=
  match f.norm.find? (fun n => n.1 = codePoint bs) with
  | some n => (n.2.map utf8Encode).flatten
  | none => bs

/-- The token ids of an input text, and its replacement count. -/
def tokenise (f : FountIn) (text : List Byte) : List Nat × Nat :=
  let cs := utf8Stream [] text
  let bs := (cs.map (fun c => normalised f (c.bytes.map (·.1)))).flatten
  (tokensFrom f bs.length bs, (cs.filter (·.replaced)).length)

/-! ## Images -/

def rising : List Nat → Bool
  | a :: b :: r => a < b && rising (b :: r)
  | _ => true

/-- Two tokens of non-zero length with equal strings? -/
def distinctStrings : List (List Byte) → Bool
  | [] => true
  | a :: r => (a.isEmpty || !r.contains a) && distinctStrings r

/-- Entries of w bytes each, as numbers, from the start of a part of an image. -/
def entriesOf (w : Nat) : Nat → List Byte → List Nat
  | 0, _ => []
  | n + 1, bs => ofLe (bs.take w) :: entriesOf w n (bs.drop w)

/-- TOKENS, POOL_BYTES, NORM_COUNT of a fount image header (Table 12-1). -/
def fountTokens (h : Nat) : Nat := (pairedAt h 448).1
def fountPool (h : Nat) : Nat := (pairedAt h 384).1
def fountNorm (h : Nat) : Nat := (pairedAt h 320).1

/-- The header's own conditions and the reach of its parts in an image of n bytes (R237). -/
def fountHeaderOk (h n : Nat) : Bool :=
  pairsOk h [448, 384, 320] && 257 ≤ fountTokens h && fountTokens h ≤ 131072 && fountPool h ≤ 16 * 2 ^ 20 &&
    fountNorm h ≤ 32768 && 1 ≤ bits h 270 263 && 64 + 4 * fountTokens h + 16 * fountNorm h + fountPool h ≤ n

/-- A normalisation entry keeps its own conditions (R237, Table 12-3): FROM and the used TO_i are scalar values, the
unused ones 0. -/
def normEntryOk (e : Nat) : Bool :=
  isScalar (bits e 20 0) && (List.range 3).all (fun i =>
    let c := bits e (63 + 32 * i) (32 + 32 * i)
    if i < bits e 31 30 then isScalar c else c = 0)

/-- A normalisation entry: FROM, and its replacement code points. -/
def normEntry (e : Nat) : Nat × List Nat :=
  (bits e 20 0, (List.range (bits e 31 30)).map (fun i => bits e (63 + 32 * i) (32 + 32 * i)))

/-- The byte string of a token entry (Table 12-2). -/
def tokenString (pool : List Byte) (e : Nat) : List Byte := (pool.drop (bits e 31 8)).take (bits e 7 0)

/-- The conditions of R237 on a fount's tokens and normalisation table. -/
def fountOk (f : FountIn) : Bool :=
  (f.tokens.take 256).zipIdx.all (fun t => t.1 == [BitVec.ofNat 8 t.2]) &&
    256 ≤ f.eos && f.eos < f.tokens.length && (f.tokens.getD f.eos [0#8]).isEmpty &&
    f.tokens.all (fun t => t.length ≤ f.maxTokenBytes) && distinctStrings f.tokens && rising (f.norm.map (·.1))

/-- The fount of an image; none where R237 refuses it. -/
def fountOf (img : List Byte) : Option FountIn :=
  let h := ofLe (img.take 64)
  if !fountHeaderOk h img.length then none
  else
    let rest := img.drop 64
    let ts := entriesOf 4 (fountTokens h) rest
    let ns := entriesOf 16 (fountNorm h) (rest.drop (4 * fountTokens h))
    let pool := (rest.drop (4 * fountTokens h + 16 * fountNorm h)).take (fountPool h)
    let f : FountIn := ⟨bits h 319 288, bits h 287 271, bits h 270 263, ts.map (tokenString pool), ns.map normEntry⟩
    if ts.all (fun e => bits e 31 8 + bits e 7 0 ≤ fountPool h) && ns.all normEntryOk && fountOk f then some f else none

/-- STATES, FRISKETS, TRANSITIONS of a grammar image header, TOKENS of its fount, and bytes of a frisket (Table 12-5). -/
def grammarStates (h : Nat) : Nat := (pairedAt h 448).1
def grammarFriskets (h : Nat) : Nat := (pairedAt h 384).1
def grammarTrans (h : Nat) : Nat := (pairedAt h 320).1
def friskSize (tokens : Nat) : Nat := (tokens + 511) / 512 * 64

/-- A length rounded up to the 64-byte boundary on which the next part of an image starts. -/
def to64 (n : Nat) : Nat := (n + 63) / 64 * 64

/-- Places of the friskets and of the transitions of a grammar image. -/
def friskPlace (h : Nat) : Nat := 128 + to64 (16 * grammarStates h)
def transPlace (h : Nat) : Nat := friskPlace h + grammarFriskets h * friskSize (bits h 255 239)

/-- The header's own conditions and the reach of its parts in an image of n bytes (R244). -/
def grammarHeaderOk (h n : Nat) : Bool :=
  pairsOk h [448, 384, 320] && 1 ≤ grammarStates h && grammarStates h ≤ 65536 && 1 ≤ grammarFriskets h &&
    grammarFriskets h ≤ 65536 && transPlace h + 8 * grammarTrans h ≤ n

/-- The set bits of a frisket, ascending: bit t is bit t mod 8 of byte t div 8. -/
def friskBits (n w : Nat) : List Nat := (List.range (8 * n)).filter (fun t => w.testBit t)

def transOf (e : Nat) : Transition := ⟨bits e 16 0, bits e 63 48, bits e 23 20⟩

/-- A state entry (Table 12-6) with its transitions. -/
def gstateOf (ts : List Transition) (e : Nat) : GState :=
  ⟨bit e 0, bits e 63 48, (ts.drop (bits e 127 96)).take (bits e 95 64)⟩

/-- NEXT and CAPTURE of a transition, one of TRANSITIONS that no state names among them (R244). -/
def transOk (g : GrammarIn) (t : Transition) : Bool := t.next < g.states.length && t.capture ≤ g.captures

/-- A state's own conditions (R244). -/
def grammarStateOk (g : GrammarIn) (s : GState) : Bool :=
  rising (s.trans.map (·.token)) && s.frisket < g.friskets.length && s.trans.all (transOk g) &&
    (if s.isEnd then s.trans.isEmpty
     else !(g.friskets.getD s.frisket []).isEmpty && g.friskets.getD s.frisket [] == s.trans.map (·.token))

/-- The conditions of R244 on a grammar's states and friskets. -/
def grammarOk (g : GrammarIn) : Bool :=
  g.states.all (grammarStateOk g) && g.friskets.all (fun f => f.all (· < g.tokens))

/-- The grammar of an image; none where R244 refuses it. -/
def grammarOf (img : List Byte) : Option GrammarIn :=
  let h := ofLe (img.take 64)
  if !grammarHeaderOk h img.length then none
  else
    let size := friskSize (bits h 255 239)
    let es := entriesOf 16 (grammarStates h) (img.drop 128)
    let ts := (entriesOf 8 (grammarTrans h) (img.drop (transPlace h))).map transOf
    let g : GrammarIn :=
      { grammarId := bits h 319 288, fountId := bits h 287 256, tokens := bits h 255 239, captures := bits h 238 235,
        names := entriesOf 4 15 (img.drop 64), states := es.map (gstateOf ts),
        friskets := (entriesOf size (grammarFriskets h) (img.drop (friskPlace h))).map (friskBits size) }
    if es.all (fun e => bits e 127 96 + bits e 95 64 ≤ grammarTrans h) && grammarOk g && ts.all (transOk g) then some g else none

end Sys2Proof.Machine
end

