-- ==== Sys2Proof/Machine/Vector.lean ====
section
/-! DEFINITION. Vector engine operations (Table 3-4, R52 to R54, R77 to R84, R90). -/

namespace Sys2Proof.Machine

/-- Lane results that are NaN, and that are infinite (R65). -/
def nanCount (l : List F32) : Nat := (l.filter (fun w => Num.of32 w == .nan)).length
def infCount (l : List F32) : Nat := (l.filter (fun w => Num.of32 w == .inf true || Num.of32 w == .inf false)).length

/-- NAN_PRODUCED and INF_PRODUCED count a result's lanes. R65 does not say which results and when: the model counts those
of the vector engine and of pooling, CVT and MSE among them, when the operation issues, a replayed or later discarded one
too, and not what DRAIN, LOAD and STORE_CONVERT move (DESIGN CHOICE, log entry 126). -/
def Dev.countLanes (d : Dev) (l : List F32) : Dev := (d.bumpBy 0x2403_01 (nanCount l)).bumpBy 0x2403_02 (infCount l)

/-- A vector operation: its result reaches VD after the latency of Table 3-3. -/
def vecOp (a : At) (vd lat : Nat) (f : CoreSt → List F32) (d : Dev) : Dev :=
  d.issue a (fun d x => (d.countLanes (f x)).land a x (a.cycle + lat) (.vreg vd (f x)))

/-- One source, lane by lane. -/
def vec1 (a : At) (lat vd va : Nat) (f : F32 → F32) (d : Dev) : Dev := vecOp a vd lat (fun x => (x.vreg va).map f) d

/-- Two sources, lane by lane. -/
def vec2 (a : At) (lat vd va vb : Nat) (f : F32 → F32 → F32) (d : Dev) : Dev :=
  vecOp a vd lat (fun x => List.zipWith f (x.vreg va) (x.vreg vb)) d

def addOp (a : At) (vd va vb : Nat) (d : Dev) : Dev := vec2 a 4 vd va vb fadd d
def subOp (a : At) (vd va vb : Nat) (d : Dev) : Dev := vec2 a 4 vd va vb fsub d
def mulOp (a : At) (vd va vb : Nat) (d : Dev) : Dev := vec2 a 4 vd va vb fmul d
def maxOp (a : At) (vd va vb : Nat) (d : Dev) : Dev := vec2 a 4 vd va vb fmax d
def minOp (a : At) (vd va vb : Nat) (d : Dev) : Dev := vec2 a 4 vd va vb fmin d
def scorrOp (a : At) (vd va vb : Nat) (d : Dev) : Dev := vec2 a 8 vd va vb fscorr d

/-- FMA: a · b + c rounded once. -/
def fmaOp (a : At) (vd va vb vc : Nat) (d : Dev) : Dev :=
  vecOp a vd 4 (fun x => (List.zipWith (fun p c => ffma p.1 p.2 c) ((x.vreg va).zip (x.vreg vb)) (x.vreg vc))) d

/-- MOVI: the immediate in every lane; an immediate that is a NaN gives the canonical NaN (R52). -/
def moviOp (a : At) (vd : Nat) (imm : F32) (d : Dev) : Dev := vecOp a vd 4 (fun _ => List.replicate 64 (canonical imm)) d

/-- SCALE: a · 2^k, k the signed immediate. -/
def scaleOp (a : At) (vd va : Nat) (imm : BitVec 32) (d : Dev) : Dev := vec1 a 4 vd va (fun w => fscale w imm.toInt) d

def expOp (a : At) (vd va : Nat) (d : Dev) : Dev := vec1 a 8 vd va fexp d
def rcpOp (a : At) (vd va : Nat) (d : Dev) : Dev := vec1 a 8 vd va frcp d
def rsqrtOp (a : At) (vd va : Nat) (d : Dev) : Dev := vec1 a 8 vd va frsqrt d

def rsumOp (a : At) (vd va : Nat) (d : Dev) : Dev := vecOp a vd 6 (fun x => rsumLanes (x.vreg va)) d
def rmaxOp (a : At) (vd va : Nat) (d : Dev) : Dev := vecOp a vd 6 (fun x => rmaxLanes (x.vreg va)) d

/-- STOCHASTIC_CONVERSIONS counts the 64 lanes of a conversion with V_RND 2. -/
def Dev.countStochastic (d : Dev) (rnd : Nat) : Dev := if rnd = 2 then d.bumpBy 0x2440_03 64 else d

/-- CVT: the FP32 value of a converted to the format (R77). -/
def cvtOp (a : At) (vd va fmt rnd : Nat) (imm : BitVec 32) (d : Dev) : Dev :=
  d.issue a (fun d x =>
    let r := (convertLanes fmt rnd x.seed x.step imm.toNat (x.vreg va)).map (codeTo32 fmt)
    ((d.countStochastic rnd).countLanes r).land a x (a.cycle + 3) (.vreg vd r))

/-- MSE in range mode (R84). -/
def mseRangeOp (a : At) (vd va vb fmt : Nat) (split first zp : Bool) (slot : Nat) (d : Dev) : Dev :=
  let o : MseOpt := ⟨split, first, zp, slot⟩
  vecOp a vd 6 (fun x => mseLanes (fun _ s v => mseRangeSeg fmt o s v) o (x.vreg va) (x.vreg vb)) d

/-- The lanes of VB that hold each segment's previous result. -/
def mseBases (o : MseOpt) (vb : List F32) : List (List F32) := if o.split then [vb.take 32, vb.drop 32] else [vb]

/-- MSE in error mode (R84); a scale or zero-point lane outside Table 4-2 gives 0311h (R72). -/
def mseErrorOp (a : At) (vd va vb fmt : Nat) (split first zp : Bool) (slot : Nat) (d : Dev) : Dev :=
  let o : MseOpt := ⟨split, first, zp, slot⟩
  d.issue a (fun d x =>
    if (mseBases o (x.vreg vb)).all (mseScaleOk fmt o) then
      let r := mseLanes (fun k s v => mseErrorSeg fmt k o s v) o (x.vreg va) (x.vreg vb)
      (d.countLanes r).land a x (a.cycle + 6) (.vreg vd r)
    else d.stopCore a.core x 0x0311)

/-- The 64 lanes that 256 bytes hold. -/
def lanesOf (bs : List Byte) : List F32 := (List.range 64).map (fun i => BitVec.ofNat 32 (ofLe ((bs.drop (4 * i)).take 4)))

/-- The 256 bytes of 64 lanes. -/
def lanesBytes (l : List F32) : List Byte := (l.map (fun w => leBytes 4 w.toNat)).flatten

/-- V_MEM LOAD: four words, read one a cycle from the issue on, the last landing W − 1 + L cycles on (R47). -/
def vectorLoadOp (a : At) (reg addr : Nat) (d : Dev) : Dev :=
  d.issueRead a addr 256 (fun d x =>
    let b := galleyAddr a.core addr
    d.land a { x with loads := x.loads ++ [⟨reg, a.cycle + 3 + d.landing, b, a.cycle, 1⟩] } (a.cycle + 3 + d.landing)
      (.vreg reg (lanesOf (memBytes d.mem b 256))))

/-- A core's write of bytes to galley: refused with 04E1h on a die left out (R44, R106), 0401h at a gated bank (R105),
0306h before all consumers of a slot under EXPECT_DRAIN have drained (R62). f is what an accepted write does to the core. -/
def Dev.coreStore (d : Dev) (a : At) (x : CoreSt) (addr : Nat) (bs : List Byte) (f : CoreSt → CoreSt := id) : Dev :=
  if !d.dieIn addr then d.stopCore a.core x 0x04E1
  else if (wordsOf addr bs.length).any (fun w => d.gatedAt (w * 64)) then d.stopCore a.core x 0x0401
  else
    match d.undrained x addr bs.length with
    | some n => d.stopCore a.core x 0x0306 (some n)
    | none => (d.setCore a.core (f x)).put addr bs

/-- Does a store of a register fall on a block of its plate's statistics area (Table 6-5)? -/
def Dev.onStatBlock (d : Dev) (plate die addr : Nat) : Bool :=
  match d.activeSet with
  | none => false
  | some ps => match ps.plates.find? (fun p => bits p.header 319 308 = plate) with
    | none => false
    | some p =>
      let a := die * dieBytes + 16 * bits p.header 302 282
      a ≤ addr && addr + 256 ≤ a + 256 * bits p.header 281 266 && (addr - a) % 256 = 0

/-- V_MEM STORE: the four words of a register (R90); one stored on a statistics block is kept for the fold (R85). -/
def vectorStoreOp (a : At) (reg addr : Nat) (d : Dev) : Dev :=
  d.issue a (fun d x =>
    let b := galleyAddr a.core addr
    let listed (y : CoreSt) : CoreSt :=
      if d.onStatBlock y.plate (coreDie a.core) b then { y with blocks := (y.forme, b) :: y.blocks.filter (· ≠ (y.forme, b)) } else y
    d.coreStore a x b (lanesBytes (x.vreg reg)) listed)

/-- STORE_CONVERT: the lanes packed in V_FMT: two words, one, or half a word (R66, R77). -/
def storeConvertOp (a : At) (reg addr fmt rnd : Nat) (imm : BitVec 32) (d : Dev) : Dev :=
  d.issue a (fun d x =>
    let w := vfmtBits fmt
    let codes := convertLanes fmt rnd x.seed x.step imm.toNat (x.vreg reg)
    (d.countStochastic rnd).coreStore a x (galleyAddr a.core addr) (leBytes (8 * w) (packCodes w codes)))

end Sys2Proof.Machine
end

