-- ==== Sys2Proof/Machine/Text.lean ====
section
/-! DEFINITION. The Text Unit (R237 to R260): requests, founts and grammars in their slots, friskets, the step of a row,
ends of sequences and their field texts. -/

namespace Sys2Proof.Machine

/-! ## Requests (Tables 12-8, 17-5) -/

structure TextReq where
  limit : Nat
  template : Nat
  slugClass : Nat
  seed : Nat
  startState : Nat
  stopCount : Nat
  invTemp : F32
  topP : Nat
  topK : Nat
  fount : Nat
  sampled : Bool
  grammar : Nat
  exclude : Bool
  nameId : Nat
  stops : List (List Byte)
  deriving DecidableEq, Repr

/-- STOP_LEN of stop string i. -/
def stopLen (h i : Nat) : Nat := bits h (134 + 7 * i) (128 + 7 * i)

/-- The fields of a 1,152-byte request table entry (R352). -/
def textReqOf (e : List Byte) : TextReq :=
  let w := ofLe (e.take 64)
  let h := ofLe ((e.drop 64).take 64)
  { limit := bits w 479 448, template := bits w 447 440, slugClass := bits w 439 437, seed := bits h 511 448,
    startState := bits h 415 384, stopCount := bits h 351 320, invTemp := BitVec.ofNat 32 (bits h 319 288),
    topP := bits h 287 272, topK := bits h 265 260, fount := bits h 259 257, sampled := bit h 256,
    grammar := bits h 255 248, exclude := bit h 247, nameId := bits h 127 96,
    stops := (List.range (min 16 (bits h 351 320))).map (fun i => (e.drop (128 + 64 * i)).take (stopLen h i)) }

def Dev.fount? (d : Dev) (slot : Nat) : Option FountIn := (d.text.founts.find? (fun e => e.1 = slot)).map (·.2)
def Dev.grammar? (d : Dev) (slot : Nat) : Option GrammarIn := (d.text.grammars.find? (fun e => e.1 = slot)).map (·.2)

/-- Keys of a fount slot's and a grammar slot's STATE. -/
def fountKey (k sub : Nat) : Nat := dkey (0x3A10 + k) sub
def grammarKey (g sub : Nat) : Nat := dkey (0x3A20 + g) sub

/-- A positive and finite FP32 value. -/
def positiveFinite (w : F32) : Bool := (Num.of32 w).isFin && !(Num.of32 w).isZero && !w.toNat.testBit 31

/-- The conditions of R245 for 0505h. -/
def requestBad (h : Nat) (r : TextReq) (g : Option GrammarIn) : Bool :=
  !pairsOk h [384, 320] || r.stopCount > 16 ||
    (List.range 16).any (fun i => stopLen h i > 64 || (r.stopCount ≤ i && stopLen h i ≠ 0)) ||
    r.stops.any (fun s => !utf8Ok s) || (match g with | some g => r.startState ≥ g.states.length | none => false) ||
    (r.sampled && !positiveFinite r.invTemp) || bits h 271 266 ≠ 0 || bits h 246 240 ≠ 0 || bits h 95 0 ≠ 0

/-- The first fault of a text request block, in the order of R245's table; 0 for none. -/
def Dev.requestStatus (d : Dev) (e : List Byte) : Nat :=
  let r := textReqOf e
  let h := ofLe ((e.drop 64).take 64)
  let f := d.fount? r.fount
  let g := if r.grammar = 255 then none else d.grammar? r.grammar
  let gOk := match g, f with
    | some g, some f => d.rd (grammarKey r.grammar 1) = 2 && g.fountId = f.fountId && g.tokens = f.tokens.length
    | _, _ => false
  if d.rd (fountKey r.fount 1) ≠ 2 ∨ f.isNone then 0x0503
  else if r.grammar ≠ 255 ∧ !(r.grammar < 32 && gOk) then 0x0504
  else if requestBad h r g then 0x0505
  else 0

/-- Text area of n tokens with a fount (R246): token log and text buffer. -/
def textArea (maxBytes n : Nat) : Nat := roundUp64 (4 * n) + roundUp64 (3 * maxBytes * n + 3)

/-- Bytes of the text pool, and those that text areas hold. -/
def Dev.textPool (d : Dev) : Nat := d.layoutBytes 43
def Dev.textUsed (d : Dev) : Nat := (d.pages.map (·.textHeld)).sum

/-! ## Slots (R237, R238, R244, R260) -/

/-- FOUNTS_RESIDENT and GRAMMARS_RESIDENT. -/
def Dev.showResident (d : Dev) : Dev :=
  let mask (n key : Nat) : Nat := (List.range n).foldl (fun m k => if d.rd (key + 256 * k) = 2 then m + 2 ^ k else m) 0
  (d.wr 0x3A00_01 (mask 8 0x3A10_01)).wr 0x3A00_02 (mask 32 0x3A20_01)

/-- Cached friskets of a slot are dropped when its image changes. Keys: grammar slot g, frisket f at 65536·g + f; the open
frisket of fount k at 2^32 + k. -/
def Dev.dropFriskets (d : Dev) (p : Nat → Bool) : Dev :=
  { d with text := { d.text with cache := d.text.cache.filter (fun e => !p e.1) } }

/-- A verified fount enters its slot, and its image the slot's place in DDR5 (Table 18-1). -/
def Dev.putFount (d : Dev) (k : Nat) (image : List Byte) (f : FountIn) : Dev :=
  let d := { d with text := { d.text with founts := kvInsert d.text.founts k f } }
  let d := ((((d.wr (fountKey k 1) 2).wr (fountKey k 2) f.fountId).wr (fountKey k 3) f.tokens.length).wr (fountKey k 4)
    f.maxTokenBytes).wr (fountKey k 5) f.norm.length
  (((d.wr (fountKey k 6) f.eos).dropFriskets (fun c => c = 2 ^ 32 + k)).putImage (d.layoutBase (3 + k)) image).showResident

/-- A verified grammar enters its slot, and its image the slot's place in DDR5 (Table 18-1). -/
def Dev.putGrammar (d : Dev) (k : Nat) (image : List Byte) (g : GrammarIn) : Dev :=
  let d := { d with text := { d.text with grammars := kvInsert d.text.grammars k g } }
  let d := ((((d.wr (grammarKey k 1) 2).wr (grammarKey k 2) g.grammarId).wr (grammarKey k 3) g.fountId).wr
    (grammarKey k 4) g.states.length).wr (grammarKey k 5) g.friskets.length
  (((d.wr (grammarKey k 6) g.captures).dropFriskets (fun c => c / 65536 = k)).putImage (d.layoutBase (11 + k)) image).showResident

/-- Requests that stored tables and live sequences hold. -/
def Dev.requestsHeld (d : Dev) : List TextReq :=
  (d.host.requests.map (fun t => (List.range (t.2.length / 1152)).map (fun c => textReqOf ((t.2.drop (1152 * c)).take 1152)))).flatten ++
    d.liveSeqs.map (fun i => textReqOf (kvGet SeqSt.init d.seqs i).request)

/-- The fount slot that a job descriptor names (Table 17-3): a load names its target. -/
def jobFount (desc : Nat) : Option Nat :=
  match bits desc 31 24 with
  | 2 => some (bits desc 895 893)
  | 3 => some (bits desc 812 810)
  | 4 => some (bits desc 884 882)
  | 6 => if 0x10 ≤ bits desc 895 888 ∧ bits desc 895 888 < 0x18 then some (bits desc 895 888 - 0x10) else none
  | _ => none

/-- The grammar slot that a load job names. -/
def jobGrammar (desc : Nat) : Option Nat :=
  if bits desc 31 24 = 6 ∧ 0x20 ≤ bits desc 895 888 ∧ bits desc 895 888 < 0x40 then some (bits desc 895 888 - 0x20) else none

/-- Descriptors of the admitted jobs that are not complete. -/
def Dev.jobsHeld (d : Dev) : List Nat :=
  ((d.host.lists.map (fun l => (l.2.entries.filter (fun e => e.st = .working)).map (·.desc))).flatten)

/-- An admitted job, a stored table or a live sequence names the slot (R238, R352). -/
def Dev.fountNamed (d : Dev) (k : Nat) : Bool :=
  d.requestsHeld.any (fun r => r.fount = k) || d.jobsHeld.any (fun j => jobFount j = some k)

def Dev.grammarNamed (d : Dev) (g : Nat) : Bool :=
  d.requestsHeld.any (fun r => r.grammar = g) || d.jobsHeld.any (fun j => jobGrammar j = some g)

/-- UNLOAD of a fount slot (R238): back to STATE 0. -/
def fountUnloadDo (k : Nat) (d : Dev) : Dev :=
  let d := { d with text := { d.text with founts := kvErase d.text.founts k } }
  let d := (List.range 6).foldl (fun d s => d.wr (fountKey k (s + 1)) 0) d
  (d.dropFriskets (fun c => c = 2 ^ 32 + k)).showResident

def grammarUnloadDo (g : Nat) (d : Dev) : Dev :=
  let d := { d with text := { d.text with grammars := kvErase d.text.grammars g } }
  let d := (List.range 6).foldl (fun d s => d.wr (grammarKey g (s + 1)) 0) d
  (d.dropFriskets (fun c => c / 65536 = g)).showResident

/-- CLEAR_COUNTERS (R260): 3A00h:03 to 3A00h:0B become 0. -/
def textClearDo (d : Dev) : Dev := (List.range 9).foldl (fun d s => d.wr (0x3A00_03 + s) 0) d

/-! ## Friskets (R248, R253) -/

/-- Tokens a row's frisket allows: those of its grammar state, or every token below TOKENS. -/
def allowedCount (f : FountIn) (g : Option GrammarIn) (st : Nat) : Nat :=
  match g with
  | some g => ((g.states[st]?).map (fun s => (g.friskets.getD s.frisket []).length)).getD 0
  | none => f.tokens.length

def tokenAllowed (f : FountIn) (g : Option GrammarIn) (st token : Nat) : Bool :=
  match g with
  | some g => ((g.states[st]?).map (fun s => (g.friskets.getD s.frisket []).contains token)).getD false
  | none => token < f.tokens.length

/-- Bitmap of a frisket: bit t is bit t mod 8 of byte ⌊t / 8⌋, ⌈TOKENS / 512⌉ · 64 bytes. -/
def friskBytes (f : FountIn) (g : Option GrammarIn) (st : Nat) : List Byte :=
  (List.range ((f.tokens.length + 511) / 512 * 64)).map (fun i =>
    BitVec.ofNat 8 ((List.range 8).foldl (fun m b => if tokenAllowed f g st (8 * i + b) then m + 2 ^ b else m) 0))

/-- Key of a frisket in the cache. -/
def friskKey (r : TextReq) (g : Option GrammarIn) (st : Nat) : Nat :=
  match g with
  | some g => 65536 * r.grammar + ((g.states[st]?).map (·.frisket)).getD 0
  | none => 2 ^ 32 + r.fount

/-- The place of the cache that a miss takes: a free one, else the least recently used. -/
def freePlace (cache : List (Nat × Nat)) : Nat :=
  if cache.length < 1024 then ((List.range 1024).find? (fun p => cache.all (fun e => e.2 ≠ p))).getD 0
  else (cache.getLastD (0, 0)).2

/-- Bring a frisket to the row frisket area of a batch row, through the cache (R248 step 5). -/
def Dev.stageFrisket (d : Dev) (row : Nat) (r : TextReq) (st : Nat) : Dev :=
  match d.fount? r.fount with
  | none => d
  | some f =>
    let g := if r.grammar = 255 then none else d.grammar? r.grammar
    let bs := friskBytes f g st
    let key := friskKey r g st
    let c := d.text.cache
    let d := match c.find? (fun e => e.1 = key) with
      | some e => ({ d with text := { d.text with cache := e :: c.filter (fun x => x.1 ≠ key) } }).bump 0x3A00_03
      | none =>
        let p := freePlace c
        (({ d with text := { d.text with cache := ((key, p) :: c).take 1024 } }).bump 0x3A00_04).put (0x1000_0000 + 0x4000 * p) bs
    d.put (0x1100_0000 + 0x4000 * row) bs

/-! ## Candidate blocks (R249, Table 12-9) -/

structure Cand where
  used : Bool
  token : Nat
  logit : F32
  deriving DecidableEq, Repr

def candBase (row : Nat) : Nat := 0x1140_0000 + 0x200 * row

def Dev.cands (d : Dev) (row : Nat) : List Cand :=
  (List.range 64).map (fun i =>
    let w := d.mrd (candBase row + 8 * i) 8
    ⟨bit w 63, bits w 48 32, BitVec.ofNat 32 (bits w 31 0)⟩)

/-- Exact order of two finite values, zeros equal. -/
def numLt (a b : Num) : Bool := a.le b && !b.le a && !(a.isZero && b.isZero)

/-- Candidates in use stand first, in descending LOGIT and ascending TOKEN. -/
def candOrder : List Cand → Bool
  | a :: b :: r =>
    (if b.used then a.used && (numLt (.of32 b.logit) (.of32 a.logit) ||
        (!numLt (.of32 a.logit) (.of32 b.logit) && a.token < b.token)) else true) && candOrder (b :: r)
  | _ => true

/-- Does a block keep every condition of R249? -/
def candsOk (f : FountIn) (g : Option GrammarIn) (st : Nat) (cs : List Cand) : Bool :=
  let us := cs.filter (·.used)
  us.all (fun c => (Num.of32 c.logit).isFin && tokenAllowed f g st c.token) && candOrder cs &&
    us.length = min 64 (allowedCount f g st)

/-! ## Choice (R250 to R252) -/

/-- Running sums C_0, C_1, … of the weights. -/
def runSums : F32 → List F32 → List F32
  | _, [] => []
  | c, w :: r => fadd c w :: runSums (fadd c w) r

/-- The seeded choice among K candidates with a 32-bit draw u (R251). -/
def seededChoice (r : TextReq) (us : List Cand) (u : Nat) : Nat :=
  let k := min (r.topK + 1) us.length
  let l0 := ((us[0]?).map (·.logit)).getD 0#32
  let ws := (us.take k).map (fun c => fexp (fmul (fsub c.logit l0) r.invTemp))
  let cs := match ws with | [] => [] | w :: rest => w :: runSums w rest
  let last := Num.of32 (cs.getLastD 0#32)
  let lim := Num.mul (.ofInt (r.topP + 1) 0) last
  let m := (cs.findIdx? (fun c => !numLt (Num.mul (.ofInt 65536 0) (.of32 c)) lim)).getD 0
  let s := Num.mul (.ofInt u 0) (.of32 (cs.getD m 0#32))
  let i := ((cs.take (m + 1)).findIdx? (fun c => numLt s (Num.scale (.of32 c) 32))).getD m
  ((us[i]?).map (·.token)).getD 0

/-- The token a row takes after n tokens. -/
def chooseToken (r : TextReq) (us : List Cand) (n : Nat) : Nat :=
  if r.sampled then
    seededChoice r us (philoxWord (philox n 0 0 1 (r.seed % 2 ^ 32) (r.seed / 2 ^ 32)) 0)
  else ((us[0]?).map (·.token)).getD 0

/-! ## Detokenising and stops (R243, R255, R256) -/

/-- What a token's bytes do to a sequence's text: text, pending, replacement count, and the cut with its offset. -/
structure Detok where
  text : List TextByte
  pend : List (Byte × Nat)
  replaced : Nat
  cut : Option Nat
  deriving DecidableEq, Repr

/-- The longest stop string the text now ends with; 0 for none. -/
def stopAt (stops : List (List Byte)) (text : List TextByte) : Nat :=
  stops.foldl (fun m s => if s.length > m && s.isSuffixOf (text.map (·.byte)) then s.length else m) 0

/-- A character's bytes as output text: the first byte of an inserted U+FFFD is marked. -/
def OutChar.output (c : OutChar) : List TextByte := c.bytes.mapIdx (fun i b => ⟨b.1, b.2, c.replaced && i = 0⟩)

/-- One character leaves the decoder; at a completed stop string the text ends. -/
def Detok.char (r : TextReq) (ix : Nat) (x : Detok) (c : OutChar) : Detok :=
  match x.cut with
  | some _ => x
  | none =>
    let text := x.text ++ c.output
    let rep := x.replaced + flag c.replaced
    let n := stopAt r.stops text
    if n = 0 then { x with text := text, replaced := rep }
    else { text := if r.exclude then text.take (text.length - n) else text, pend := [], replaced := rep,
           cut := some (if c.own then ix + 1 else ix) }

/-- A token's bytes, from byte ix on. -/
def Detok.feed (r : TextReq) (cap : Nat) : Nat → Detok → List Byte → Detok
  | _, x, [] => x
  | ix, x, b :: rest =>
    match x.cut with
    | some _ => x
    | none =>
      let o := utf8Feed x.pend b cap
      let y := o.1.foldl (Detok.char r ix) { x with pend := o.2 }
      Detok.feed r cap (ix + 1) y rest

/-! ## Field texts (R258) and ends (R257) -/

/-- The fields of an ended sequence: one per capture, or one for the whole text. -/
def fieldsOf (r : TextReq) (g : Option GrammarIn) (e : SeqEnt) (x : SeqSt) (status : Nat) : List FieldRec :=
  let mk (name : Nat) (text : List TextByte) : FieldRec :=
    { region := x.region, nameId := name, tokens := x.log.length, confidence := 0, status := status, fount := r.fount,
      grammar := r.grammar, stopCut := x.stopCut, deadlineCut := x.deadlineCut,
      inserted := (text.zipIdx.filter (fun b => b.1.inserted)).map (·.2),
      recomputed := e.recomputed, held := x.held, text := text.map (·.byte) }
  match g with
  | some g =>
    if g.captures = 0 then [mk r.nameId x.text]
    else (List.range g.captures).map (fun c => mk (g.names.getD c 0) (x.text.filter (fun b => b.cap = c + 1)))
  | none => [mk r.nameId x.text]

/-- The structuring forme of a page side is queued once its geometry forme has committed and every sequence has ended
(Table 1-1). -/
def Dev.tryStructuring (d : Dev) (ring seq : Nat) : Dev :=
  match d.page? ring seq with
  | some p =>
    if p.geometryDone ∧ p.reading.isEmpty ∧ !p.structuringQueued ∧ p.bare.isNone ∧ p.group.isNone then
      (d.updPage ring seq (fun p => { p with structuringQueued := true })).enqueue
        { Forme.blank 8 with pages := [(ring, seq)], items := p.fields.length, entryTime := p.entryTime }
    else d
  | none => d

/-- A region's reading ends with these fields. -/
def Dev.regionEnds (d : Dev) (x : SeqSt) (fs : List FieldRec) : Dev :=
  (d.updPage x.ring x.page (fun p =>
    { p with fields := p.fields ++ fs, reading := p.reading.filter (· ≠ x.region) })).tryStructuring x.ring x.page

/-- A page side's own record of what its sequences' texts hold (REPLACED, Table 1-5). -/
def Dev.noteText (d : Dev) (x : SeqSt) : Dev :=
  d.updPage x.ring x.page (fun p => { p with seqReplaced := p.seqReplaced || x.text.any (·.inserted) })

/-- Flush a decoder at the end of its stream (R240): the replacement belongs to the last token's capture (R258). -/
def Dev.flushSeq (d : Dev) (x : SeqSt) : Dev × SeqSt :=
  match x.pendingBytes with
  | [] => (d, x)
  | _ :: _ =>
    (d.bump 0x3A00_06, { x with text := x.text ++ (replacement x.lastCap true).output, pendingBytes := [],
                                replaced := x.replaced + 1 })

/-- A sequence ends (R257): decoder flushed except at a stop cut, fields given to its page side, list and slugs released
at the next lead-in (R228). -/
def Dev.endSeq (d : Dev) (i status : Nat) (x : SeqSt) : Dev :=
  let r := textReqOf x.request
  let g := if r.grammar = 255 then none else d.grammar? r.grammar
  let fx := if x.stopCut then (d, x) else d.flushSeq x
  let d := (if x.stopCut then fx.1.bump 0x3A00_08 else fx.1).noteText fx.2
  let fs := fieldsOf r g (d.seqEnt i) fx.2 status
  let d := { d with seqs := kvPut SeqSt.init d.seqs i { fx.2 with due := false, checked := false, ready := false } }
  ((d.giveUpList i 6).leaveFormes i).regionEnds fx.2 fs

/-- A sequence ends at the cut-off (R15): 03F0h, DEADLINE_CUT. -/
def Dev.cutSeq (d : Dev) (i : Nat) : Dev :=
  let x := kvGet SeqSt.init d.seqs i
  d.endSeq i 0x03F0 { x with deadlineCut := true }

/-- A region that has no sequence ends without tokens (R15, R293): its fields carry the status. -/
def Dev.endRegion (d : Dev) (p : PageSide) (region status : Nat) : Dev :=
  match p.regions.find? (fun r => r.index = region) with
  | none => d
  | some g =>
    match d.requestOf p g.cls with
    | none => d.updPage p.ring p.seq (fun p => { p with reading := p.reading.filter (· ≠ region) })
    | some e =>
      let r := textReqOf e
      let x := { SeqSt.init with ring := p.ring, page := p.seq, region := region, request := e,
                                 deadlineCut := status = 0x03F0 }
      d.regionEnds x (fieldsOf r (if r.grammar = 255 then none else d.grammar? r.grammar) (seqEntOf 0) x status)

/-! ## One row of a committed step (R248) -/

/-- Sequences whose step has committed and whose rows wait for the Text Unit. -/
def Dev.dueSeqs (d : Dev) : List Nat := d.liveSeqs.filter (fun i => (kvGet SeqSt.init d.seqs i).due)

/-- Is a due row's candidate block free of faults? -/
def Dev.rowCandsOk (d : Dev) (i : Nat) : Bool :=
  let x := kvGet SeqSt.init d.seqs i
  let r := textReqOf x.request
  match d.fount? r.fount with
  | some f => candsOk f (if r.grammar = 255 then none else d.grammar? r.grammar) x.gstate (d.cands (d.seqEnt i).row)
  | none => false

/-- The slot groups of the imposition in force (R280). -/
def Dev.groups (d : Dev) : List GroupEntry :=
  match d.activeArea with
  | some a => (kvGet [] d.plate.groups a).getD (d.rd 0x2504_01) []
  | none => []

/-- The plate that the lowest-numbered core of a group runs in the group's slot, and the die of that core (Table 14-6). -/
def Dev.groupPlate (d : Dev) (g : GroupEntry) : Nat × Nat :=
  let c := g.cores.foldl min 95
  match (d.slotList c).find? (fun s => s.slotType = g.slotType) with
  | some s => (s.plate, c / 16)
  | none => (0, c / 16)

/-- Due sequences of the step that sequence i waits on: those that took it in the same frame (LAST_STEP). -/
def Dev.stepOf (d : Dev) (i : Nat) : List Nat := d.dueSeqs.filter (fun j => (d.seqEnt j).lastStep = (d.seqEnt i).lastStep)

/-- The decode forme whose step is rejected is treated as one that faulted with 0508h: it restarts at the next frame start
(R249, R291). -/
def Dev.restartStep (d : Dev) (i : Nat) : Dev :=
  match d.text.steps.find? (fun s => s.1 = (d.seqEnt i).lastStep) with
  | none => d
  | some s =>
    let d := d.wr 0x2120_05 s.2.id
    { d with text := { d.text with steps := d.text.steps.filter (fun t => t.1 ≠ s.1),
                                   rejected := d.text.rejected ++ [{ s.2 with fault := 0x0508 }] } }

/-- A row takes its step again: its position, the marks of its blocks and the FILL of its last slugs are as before. -/
def Dev.stepBack (d : Dev) (i : Nat) : Dev :=
  let x := kvGet SeqSt.init d.seqs i
  let p := (d.seqEnt i).position - 1
  let d := { d with seqs := kvPut SeqSt.init d.seqs i { x with due := false, checked := false, ready := true } }
  ((d.updSeqEnt i (fun e => { e with position := p })).sealRevert i).fillBlocks i (p + 1) p

/-- A faulty block rejects the whole step (R249): nothing of it is applied, the decode forme restarts with 0508h, charged to its
plate, and the rows take the step again. -/
def Dev.rejectStep (d : Dev) (i : Nat) : Dev :=
  let due := d.stepOf i
  let d := ((d.bump 0x3A00_09).wr 0x3A00_0C 0x0508).wr 0x3A00_0D i
  let d := (d.restartStep i).each due Dev.stepBack
  match d.groups.find? (fun g => g.kind = 7) with
  | some g => d.charge 0x0508 1 (d.groupPlate g).1 (d.groupPlate g).2
  | none => d.charge 0x0508 1 0

/-- After a step the row's frisket is staged and the slugs of the next step are prepared (R224). -/
def Dev.rowGoesOn (d : Dev) (i : Nat) (x : SeqSt) (r : TextReq) (next : Nat) : Dev :=
  let d := { d with seqs := kvPut SeqSt.init d.seqs i { x with gstate := next, due := false, checked := false, ready := true } }
  (d.stageFrisket (d.seqEnt i).row r next).prepareStep i

/-- Token log entry (Table 12-12). -/
def logEntry (token : Nat) (cut : Option Nat) : Nat :=
  match cut with
  | some o => token + 2 ^ 17 * (o % 256) + 2 ^ 31
  | none => token

/-- A row takes its token: steps 2 to 5 of R248. -/
def Dev.takeToken (d : Dev) (i : Nat) (x : SeqSt) (r : TextReq) (f : FountIn) (g : Option GrammarIn) : Dev :=
  let e := d.seqEnt i
  let us := (d.cands e.row).filter (·.used)
  let tok : Nat := chooseToken r us x.log.length
  let tr : Option Transition := match g with
    | some g => (g.states[x.gstate]?).bind (fun s => s.trans.find? (fun t => t.token = tok))
    | none => none
  let cap := (tr.map (·.capture)).getD 0
  let next := (tr.map (·.next)).getD x.gstate
  let dt := Detok.feed r cap 0 ⟨x.text, x.pendingBytes, x.replaced, none⟩ (f.tokens.getD tok [])
  let log := x.log ++ [logEntry tok dt.cut]
  let stopped : Bool := dt.cut.isSome && decide (tok ≠ f.eos)
  let before := x.replaced
  let x : SeqSt := { x with text := dt.text, pendingBytes := dt.pend, replaced := dt.replaced, log := log, stopCut := stopped,
                            lastCap := cap }
  let d : Dev := ((d.bump 0x3A00_0A).bumpBy 0x3A00_06 (dt.replaced - before)).noteText x
  let ends : Bool := match g with | some g => ((g.states[next]?).map (·.isEnd)).getD false | none => false
  if tok = f.eos ∨ x.stopCut ∨ ends ∨ x.log.length ≥ e.limit - e.prefixLen then d.endSeq i 0 x
  else if x.cut then d.endSeq i 0x03F0 { x with deadlineCut := true }
  else d.rowGoesOn i x r next

/-- Does a due row stand before another in their row engine (R254): an earlier step first, then the lower row? -/
def Dev.rowBefore (d : Dev) (j i : Nat) : Bool :=
  (d.seqEnt j).row % 4 = (d.seqEnt i).row % 4 &&
    ((d.seqEnt j).lastStep < (d.seqEnt i).lastStep ||
      ((d.seqEnt j).lastStep = (d.seqEnt i).lastStep && (d.seqEnt j).row < (d.seqEnt i).row))

/-- The blocks of a step have been found free of faults. -/
def Dev.checkStep (d : Dev) (i : Nat) : Dev :=
  let steps := d.text.steps.filter (fun s => s.1 ≠ (d.seqEnt i).lastStep)
  Dev.each { d with text := { d.text with steps := steps } } (d.stepOf i) (fun d j => { d with seqs := kvPut SeqSt.init d.seqs j { kvGet SeqSt.init d.seqs j with checked := true } })

/-- TEXT_ROW_PROCESS (R248): the row's engine serves it in its turn (R254), and the blocks of the whole step are checked
before any of it is applied (R249). -/
def textRowProcess (row : Nat) (d : Dev) : Dev :=
  match d.dueSeqs.find? (fun i => (d.seqEnt i).row = row && d.dueSeqs.all (fun j => !d.rowBefore j i)) with
  | none => d
  | some i =>
    match (d.stepOf i).find? (fun j => !(kvGet SeqSt.init d.seqs j).checked && !d.rowCandsOk j) with
    | some j => d.rejectStep j
    | none =>
      let d := d.checkStep i
      let x := kvGet SeqSt.init d.seqs i
      let r := textReqOf x.request
      match d.fount? r.fount with
      | some f => d.takeToken i x r f (if r.grammar = 255 then none else d.grammar? r.grammar)
      | none => d

/-- DECODE_CUTOFF (R15, R293): a sequence in the decode batch ends at the next decode step boundary; one that is not in
it ends now. -/
def decodeCutoff (i : Nat) (d : Dev) : Dev :=
  if !d.liveSeqs.contains i then d
  else
    let x := kvGet SeqSt.init d.seqs i
    let e := d.seqEnt i
    if e.state = 2 ∨ e.state = 3 then { d with seqs := kvPut SeqSt.init d.seqs i { x with cut := true } }
    else d.cutSeq i

/-- Sequences held when the cut-off passed end at the frame start without a further token, those whose row the Text Unit
has not finished among them (R257). -/
def Dev.cutHeld (d : Dev) : Dev :=
  d.each (d.liveSeqs.filter (fun i =>
    let x := kvGet SeqSt.init d.seqs i
    let st := (d.seqEnt i).state
    x.cut && (!x.ready || (st ≠ 2 && st ≠ 3) || !d.stepPrepared i))) Dev.cutSeq

end Sys2Proof.Machine
end

