-- ==== Sys2Proof/Machine/Jobs.lean ====
section
/-! DEFINITION. Job lists while they run (R345 to R347): entries, their completion and CONS. -/

namespace Sys2Proof.Machine

/-- Dictionary index of a job list. -/
def listIx (n : Nat) : Nat := 0x4010 + n

def Dev.list (d : Dev) (n : Nat) : ListRt := kvGet ListRt.init d.host.lists n

def Dev.setList (d : Dev) (n : Nat) (x : ListRt) : Dev :=
  { d with host := { d.host with lists := kvPut ListRt.init d.host.lists n x } }

/-- Change one fetched entry of a list. -/
def Dev.updEntry (d : Dev) (n k : Nat) (f : JobEntry → JobEntry) : Dev :=
  let x := d.list n
  d.setList n { x with entries := updIf (fun e => e.k = k) f x.entries }

def Dev.entry? (d : Dev) (n k : Nat) : Option JobEntry := (d.list n).entries.find? (fun e => e.k = k)

/-- KIND of a descriptor. -/
def jobKind (desc : Nat) : Nat := bits desc 31 24

/-- Address of descriptor k of a list. -/
def Dev.descAddr (d : Dev) (n k : Nat) : Nat := d.addrPair (listIx n) 2 + 128 * (k % max 1 (d.rdp (dkey (listIx n) 1)))

/-- Completion words, bits [1023:896] of a descriptor. -/
def completionBytes (status count : Nat) : List Byte := leBytes 16 (pairOf (1 + 2 ^ 16 * status) + 2 ^ 64 * pairOf count)

/-- CONS: the entries from the last CONS on that are done, in order. -/
def consAfter : Nat → Nat → List JobEntry → Nat
  | 0, c, _ => c
  | fuel + 1, c, es => if es.any (fun e => e.k = c && e.st = .done) then consAfter fuel (c + 1) es else c

/-- Write CONS and forget the entries it has passed. -/
def Dev.writeCons (d : Dev) (n : Nat) : Dev :=
  let x := d.list n
  let c := consAfter x.entries.length x.cons x.entries
  let d := d.setList n { x with cons := c, entries := x.entries.filter (fun e => !(e.k < c)) }
  d.emit (.hostWrite (d.addrPair (listIx n) 6) (leBytes 8 (pairOf (c % 2 ^ 32))))

/-- Write one entry's completion words, then CONS, then the list's message where IRQ is 1 (R347). -/
def Dev.writeCompletion (d : Dev) (n : Nat) (e : JobEntry) : Dev :=
  match e.result with
  | none => d
  | some r =>
    let d := d.emit (.hostWrite (d.descAddr n e.k + 112) (completionBytes r.1 r.2))
    let d := (d.updEntry n e.k (fun e => { e with st := .done, result := none })).writeCons n
    if h : n < 16 then (if bit e.desc 23 then d.notify (.list ⟨n, h⟩) else d) else d

/-- Completions that wait for bus mastering are written once it is on (R343). -/
def Dev.flushList (d : Dev) (n : Nat) : Dev :=
  if d.busOn then d.each (d.list n).entries (fun d e => d.writeCompletion n e) else d

/-- An entry completes with a status and a count (R347). -/
def Dev.completeEntry (d : Dev) (n k status count : Nat) : Dev :=
  (d.updEntry n k (fun e => { e with st := .working, result := some (status, count) })).flushList n

/-- An entry refused at admission (R346): counted, and complete with COUNT 0. -/
def Dev.refuseEntry (d : Dev) (n k status : Nat) : Dev :=
  (((d.bump (dkey (listIx n) 13)).wr 0x4000_0D status).completeEntry n k status 0)

/-- Complete the job entry of a page side or decode, where it has one. -/
def Dev.completeJob (d : Dev) (job : Option (Nat × Nat)) (status count : Nat) : Dev :=
  match job with
  | some j => d.completeEntry j.1 j.2 status count
  | none => d

end Sys2Proof.Machine
end

