-- ==== Sys2Proof/Machine/Images.lean ====
section
/-! DEFINITION. Image decoding (R265 to R269, R440): JPEG's inverse transform, stored lines from images, the decoder
engines, deferral and abandonment. -/

namespace Sys2Proof.Machine

/-! ## JPEG (R266) -/

/-- round(4096 · cos(k π / 16)) for k = 0 to 8. -/
def cosTable : List Int := [4096, 4017, 3784, 3406, 2896, 2276, 1567, 799, 0]

/-- round(4096 · cos(k π / 16)) for any k. -/
def cos16 (k : Nat) : Int :=
  let k := k % 32
  if k ≤ 8 then cosTable.getD k 0
  else if k ≤ 16 then -cosTable.getD (16 - k) 0
  else if k ≤ 24 then -cosTable.getD (k - 16) 0
  else cosTable.getD (32 - k) 0

/-- A[x][u]: 8192 · a(u) · cos((2x + 1) u π / 16), rounded. -/
def idctA (x u : Nat) : Int := if u = 0 then 2896 else cos16 ((2 * x + 1) * u)

def sumTo (n : Nat) (f : Nat → Int) : Int := (List.range n).foldl (fun s i => s + f i) 0

/-- Sample (x, y) of a block of dequantised coefficients F[v][u]. -/
def idctSample (b : DctBlock) (x y : Nat) : Nat :=
  let r (v : Nat) : Int := asr (sumTo 8 (fun u => idctA x u * b.getD (8 * v + u) 0) + 1024) 11
  (clampInt 0 255 (asr (sumTo 8 (fun v => idctA y v * r v) + 16384) 15 + 128)).toNat

/-- Sample (x, y) of a component whose blocks stand in raster order, n to a row. -/
def compSample (blocks : List DctBlock) (n x y : Nat) : Nat :=
  idctSample (blocks.getD (y / 8 * n + x / 8) []) (x % 8) (y % 8)

/-- RGB of a pixel. -/
def ycc (y cb cr : Nat) : List Nat :=
  let b : Int := (cb : Int) - 128
  let r : Int := (cr : Int) - 128
  let f (v : Int) : Nat := (clampInt 0 255 ((y : Int) + asr (v + 32768) 16)).toNat
  [f (91881 * r), f (-22554 * b - 46802 * r), f (116130 * b)]

/-- Samples of a JPEG row, planes interleaved per pixel. -/
def jpegRow (width : Nat) (sub : Bool) (comps : List (List DctBlock)) (y : Nat) : List Nat :=
  let mcus := if sub then (width + 15) / 16 else (width + 7) / 8
  let n := if sub then 2 * mcus else mcus
  match comps with
  | [c0, c1, c2] =>
    ((List.range width).map (fun x =>
      let cx := if sub then x / 2 else x
      let cy := if sub then y / 2 else y
      ycc (compSample c0 n x y) (compSample c1 mcus cx cy) (compSample c2 mcus cx cy))).flatten
  | c0 :: _ => (List.range width).map (fun x => compSample c0 n x y)
  | [] => []

/-! ## Decoded images -/

/-- An image as the decoder delivers it: rows of samples, planes interleaved per pixel. -/
structure Pic where
  width : Nat
  height : Nat
  planes : Nat
  wide : Bool
  rows : List (List Nat)
  deriving DecidableEq, Repr

/-- A picture within R265 whose rows are whole. -/
def Pic.ok (p : Pic) : Bool :=
  1 ≤ p.width && p.width ≤ 16384 && 1 ≤ p.height && p.height ≤ 65535 && (p.planes = 1 || p.planes = 3) &&
    p.rows.length = p.height &&
    p.rows.all (fun r => r.length = p.width * p.planes && r.all (· < (if p.wide then 65536 else 256)))

/-- Samples of raw bytes, 1 or 2 bytes each, little-endian. -/
def rawSamples (wide : Bool) (bs : List Byte) (n : Nat) : List Nat :=
  (List.range n).map (fun i => if wide then ofLe ((bs.drop (2 * i)).take 2) else ofLe ((bs.drop i).take 1))

/-- The picture of an image file; a raw image takes its layout from the job item. None: corrupt (R268). -/
def picOf (img : ImageIn) (width height planes : Nat) (wide : Bool) : Option Pic :=
  let p : Option Pic := match img with
    | .raw bs =>
      let row := width * planes * (if wide then 2 else 1)
      if bs.length < row * height then none
      else some ⟨width, height, planes, wide,
        (List.range height).map (fun y => rawSamples wide ((bs.drop (y * row)).take row) (width * planes))⟩
    | .samples w h n wd rows => some ⟨w, h, n, wd, rows⟩
    | .bilevel w h rows => some ⟨w, h, 1, false, rows.map (fun r => r.map (fun b => if b then 0 else 255))⟩
    | .jpeg w h sub comps =>
      if comps.length = 1 ∨ comps.length = 3 then
        some ⟨w, h, comps.length, false, (List.range h).map (jpegRow w sub comps)⟩
      else none
    | .corrupt => none
  p.filter Pic.ok

/-! ## Stored lines of a picture (R267) -/

def Pic.planeBytes (p : Pic) : Nat := 64 * ((p.width * (if p.wide then 16 else 8) + 511) / 512)
def Pic.pitch (p : Pic) : Nat := p.planes * p.planeBytes + 64

/-- Bytes of one plane of a row, padded. -/
def Pic.planeRow (p : Pic) (row : List Nat) (c : Nat) : List Byte :=
  let bs := ((List.range p.width).map (fun x => leBytes (if p.wide then 2 else 1) (row.getD (x * p.planes + c) 0))).flatten
  bs ++ List.replicate (p.planeBytes - bs.length) 0#8

/-- A stored line with its trailer (Table 7-5). -/
def Pic.line (p : Pic) (y : Nat) : List Byte :=
  let bs := ((List.range p.planes).map (p.planeRow (p.rows.getD y []))).flatten
  bs ++ leBytes 64 (crc32c bs + 2 ^ 32 * y)

/-- The measurement record (Table 7-6) of a decoded image. -/
def Pic.measurement (p : Pic) (skew : Int) (seq lead edge : Nat) : List Byte :=
  leBytes 128 (packFields
    [(0, 509), (flag p.wide, 1), (0, 2), (if p.planes = 3 then 3 else 1, 2), (0, 78), (p.width, 16), (p.width - 1, 16),
     (0, 16), (unsigned 16 skew, 16), (0, 16), (0, 32), (pairOf p.pitch, 64), (pairOf p.height, 64), (pairOf seq, 64),
     (lead, 64), (edge, 64)])

/-! ## Engines (R440, R268, R269) -/

/-- An image file as its entry bounds it: a raw file ends at LEN, and the picture is of the declared FORMAT, 0 raw, 1 PNG,
2 JPEG, 3 TIFF, within what Table 13-1 supports of it; everything else is corrupt (R265, R268). -/
def boundImage (desc : Nat) (img : ImageIn) : ImageIn :=
  match bits desc 815 813, img with
  | 0, .raw bs => .raw (bs.take (bits desc 415 384))
  | 1, .samples .. => img
  | 1, .bilevel .. => img
  | 2, .jpeg .. => img
  | 3, .samples _ _ 1 false _ => img
  | 3, .bilevel .. => img
  | _, _ => .corrupt

/-- Width, height, planes and sample width that an image entry declares for a raw file (Table 17-3). -/
def rawLayout (desc : Nat) : Nat × Nat × Nat × Bool :=
  (bits desc 847 832, bits desc 863 848, bits desc 811 810, bit desc 812)

/-- The picture of a decode. -/
def Dev.picture (d : Dev) (x : Decode) : Option Pic :=
  let l := match x.job with
    | some j => ((d.entry? j.1 j.2).map (fun (e : JobEntry) => rawLayout e.desc)).getD (0, 0, 0, false)
    | none => (0, 0, 0, false)
  picOf x.img l.1 l.2.1 l.2.2.1 l.2.2.2

def Dev.setDecodes (d : Dev) (l : List Decode) : Dev := { d with batch := { d.batch with decodes := l } }

def Dev.decodeAt (d : Dev) (e : Nat) : Option Decode := d.batch.decodes.find? (fun x => x.engine = e)

/-- The lowest-numbered engine that holds no decode. -/
def Dev.freeEngine (d : Dev) : Option Nat := (List.range 8).find? (fun e => (d.decodeAt e).isNone)

/-- LAST_STATUS and LAST_PAGE_SEQ of the decoders. -/
def Dev.imageStatus (d : Dev) (status seq : Nat) : Dev := (d.wr 0x3E01_08 status).wr 0x3E01_09 seq

/-- A decode ends without an image (R268): its reservation is released, its page side commits its page record alone, its
job entry completes. Its last row never enters the pool, for which R12 gives no edge time: the model takes the moment of
the failure (DESIGN CHOICE, log entry 125). -/
def Dev.failDecode (d : Dev) (x : Decode) (status counter : Nat) : Dev :=
  let d := (d.setDecodes (d.batch.decodes.filter (fun y => y.engine ≠ x.engine))).imageStatus status x.seq
  let d := if counter = 0 then d else d.bump counter
  let d := d.updPage x.ring x.seq (fun p => { p with rawAddr := 0, rawBytes := 0, lineCount := 0 })
  ((d.passEdge x.ring x.seq).bareGroup x.ring x.seq status).completeJob x.job status x.seq

/-- MEAN of the last 64 times (R268). -/
def meanOf (ts : List Nat) : Nat := if ts.isEmpty then 0 else ts.sum / ts.length

/-- Reserve 128 + height · LINE_PITCH bytes of the raw page pool; without the space the decode waits (R267). -/
def Dev.reserveImage (d : Dev) (x : Decode) (p : Pic) : Dev :=
  let n := 128 + p.height * p.pitch
  let put (w : Bool) (d : Dev) : Dev :=
    d.setDecodes (updIf (fun y => y.engine = x.engine) (fun y => { y with waits := w }) d.batch.decodes)
  match d.poolPlace [] n with
  | some a => put false (d.updPage x.ring x.seq (fun q => { q with rawAddr := a, rawBytes := n, linePitch := p.pitch }))
  | none => put true d

/-- Decodes that wait for space try again. -/
def Dev.retryImages (d : Dev) : Dev :=
  d.each (d.batch.decodes.filter (·.waits)) (fun d x =>
    match d.picture x with
    | some p => d.reserveImage x p
    | none => d)

/-- IMAGE_DECODE_START (R440): the first item that waits goes to the lowest free engine, which reads its file; none is read
while the part issues no host access (R343). -/
def imageDecodeStart (img : ImageIn) (d : Dev) : Dev :=
  match d.busOn, d.batch.images, d.freeEngine with
  | true, (ring, seq) :: rest, some e =>
    let job := (d.page? ring seq).bind (·.job)
    let desc := ((job.bind (fun j => d.entry? j.1 j.2)).map (·.desc)).getD 0
    let x : Decode := ⟨e, ring, seq, boundImage desc img, d.now, max (8 * meanOf d.batch.times) 2000000, false, false, job⟩
    let d := { d with batch := { d.batch with images := rest, decodes := d.batch.decodes ++ [x] } }
    let d := (d.bump 0x3E01_01).updPage ring seq (fun p => { p with engine := some e })
    match d.picture x with
    | some p => d.reserveImage x p
    | none => d.failDecode x 0x0811 0x3E01_04
  | _, _, _ => d

/-- The time of a decode within its budget counts in MEAN (R268). -/
def Dev.countDecode (d : Dev) (x : Decode) : Dev :=
  if x.deferred then d
  else
    let ts := ((d.now - x.start) :: d.batch.times).take 64
    ({ d with batch := { d.batch with times := ts } }).wr 0x3E01_05 (meanOf ts / 1000)

/-- The rows and the measurement record are in the pool: edge time and bands (R12, R267). -/
def Dev.placeImage (d : Dev) (x : Decode) (pg : PageSide) (p : Pic) : Dev :=
  let d := (List.range p.height).foldl (fun d y => d.put (pg.rawAddr + 128 + y * p.pitch) (p.line y)) d
  let d := d.put pg.rawAddr (p.measurement pg.skew x.seq x.start d.now)
  let n := (p.height + d.bandHeight - 1) / d.bandHeight
  let d := d.updPage x.ring x.seq (fun q =>
    { q with lineCount := p.height, width := p.width, bandsTotal := some n,
             poolBands := List.range n, lastBandLines := p.height - (n - 1) * d.bandHeight, deferred := x.deferred })
  (List.range n).foldl (fun d _ => d.bandComplete x.ring x.seq) (d.passEdge x.ring x.seq)

/-- DECODE_DEFERRED (R269): the decode has reached its budget; its page side carries DEFERRED. -/
def decodeDeferred (e : Nat) (d : Dev) : Dev :=
  match d.decodeAt e with
  | none => d
  | some x =>
    if x.deferred ∨ d.now < x.start + x.budget then d
    else
      let d := d.setDecodes (updIf (fun y => y.engine = e) (fun y => { y with deferred := true }) d.batch.decodes)
      (d.bump 0x3E01_02).updPage x.ring x.seq (fun p => { p with deferred := true })

/-- DECODE_ABANDONED (R269): a deferred decode has run DECODE_LIMIT_MS. -/
def decodeAbandoned (e : Nat) (d : Dev) : Dev :=
  match d.decodeAt e with
  | some x => if x.deferred ∧ x.start + d.rdp 0x3E01_06 * 1000000 ≤ d.now then d.failDecode x 0x0812 0x3E01_03 else d
  | none => d

/-- IMAGE_DECODE_COMPLETE: the last row enters the pool. A decode that waits for space has none to complete; one that has
reached its budget by now is deferred first, and abandoned at its limit. -/
def imageDecodeComplete (e : Nat) (d : Dev) : Dev :=
  let d := decodeAbandoned e (decodeDeferred e d)
  match d.decodeAt e with
  | none => d
  | some x =>
    match x.waits, d.picture x, d.page? x.ring x.seq with
    | false, some p, some pg =>
      let d := (d.countDecode x).setDecodes (d.batch.decodes.filter (fun y => y.engine ≠ e))
      let d := if pg.bare.isSome then d.passEdge x.ring x.seq else d.placeImage x pg p
      d.completeJob x.job 0 x.seq
    | _, _, _ => d

end Sys2Proof.Machine
end

