-- ==== Sys2Proof/Machine/Batches.lean ====
section
/-! DEFINITION. The prepared batch queue (R261 to R264) and adaptation runs (R270 to R279): order and makeup, augmentation,
the update step, the adapter store. -/

namespace Sys2Proof.Machine

/-! ## The queue (R261, R262) -/

def Dev.setQueue (d : Dev) (l : List Batch) : Dev := { d with batch := { d.batch with queue := l } }

def Dev.updBatch (d : Dev) (id : Nat) (f : Batch → Batch) : Dev := d.setQueue (updIf (fun b => b.id = id) f d.batch.queue)

def Dev.batch? (d : Dev) (id : Nat) : Option Batch := d.batch.queue.find? (fun b => b.id = id)

/-- Entries neither held nor reserved. -/
def Dev.freeEntries (d : Dev) : Nat := 64 - d.batch.queue.length - (d.batch.reserved.map (·.2)).sum

/-- ⌈c / READ_BATCH⌉. -/
def entriesFor (c readBatch : Nat) : Nat := (c + readBatch - 1) / max 1 readBatch

/-- Reading entries that waiting geometry formes ask for. -/
def Dev.entriesAsked (d : Dev) : Nat :=
  ((d.formes.filter (fun f => f.kind = 2 && !f.admitted)).map (fun f =>
    match f.pages.head?.bind (fun pg => d.page? pg.1 pg.2) with
    | some p => entriesFor (d.cropCount p f) (d.rd 0x3E00_04)
    | none => 0)).sum

/-- The reading batch that is open. -/
def Dev.openBatch (d : Dev) : Option Batch := d.batch.queue.find? (fun b => !b.closed && !b.adapt)

/-- Close a batch: it is queued and its encoder forme becomes eligible (Table 1-1). -/
def Dev.closeBatch (d : Dev) (b : Batch) : Dev :=
  let pages := (b.members.map (fun m => (m.1, m.2.1))).eraseDups
  let t := ((pages.head?.bind (fun pg => d.page? pg.1 pg.2)).map (·.entryTime)).getD 0
  (d.updBatch b.id (fun b => { b with closed := true })).enqueue
    { Forme.blank 3 with pages := pages, items := b.members.length, ref := b.id, entryTime := t }

/-- A crop enters the open batch, or one that a reserved entry of its forme opens. -/
def Dev.addCrop (d : Dev) (f : Forme) (m : Nat × Nat × Nat) : Dev :=
  let d := match d.openBatch with
    | some b => d.updBatch b.id (fun b => { b with members := b.members ++ [m] })
    | none =>
      let b : Batch := ⟨d.batch.nextBatch, f.readBatch, [m], false, false, 0, 0, [], [], [], [], 0⟩
      let left := kvGet 0 d.batch.reserved f.id - 1
      { d with batch := { d.batch with queue := d.batch.queue ++ [b], nextBatch := d.batch.nextBatch + 1,
                                       reserved := kvPut 0 d.batch.reserved f.id left } }
  match d.openBatch with
  | some b => if b.members.length ≥ b.size then d.closeBatch b else d
  | none => d

/-- Bytes of a crop by its header (Table 9-5). -/
def cropSpan (h : Nat) : Nat := 64 + (if bits h 343 342 = 3 then 3 else 1) * bits h 399 384 * bits h 383 368

/-- Is a crop corrupt: its header's pair not well formed, or a word of it one that a DDR5 read reports (R264)? -/
def Dev.cropCorrupt (d : Dev) (c : Crop) : Bool :=
  let h := d.cropHead c
  !(pairedAt h 448).2 || (wordsOf c.addr (cropSpan h)).any (fun w => d.poisoned.contains w)

/-- A DDR5 read of a crop: an uncorrectable word is counted and charged to its channel (R289, R367), a poisoned one counted
(R366). -/
def Dev.cropRead (d : Dev) (c : Crop) (uncorrectable : Bool) : Dev :=
  if uncorrectable then d.ddrUncorrectable 0 c.addr
  else match (wordsOf c.addr (cropSpan (d.cropHead c))).find? (fun w => ddrBase ≤ w * 64 && d.poisoned.contains w) with
    | some w => d.ddrPoison (w * 64)
    | none => d

/-- A corrupt crop is skipped; its region is cut again once, and the second time is not read: 0813h (R264). -/
def Dev.skipCrop (d : Dev) (p : PageSide) (region : Nat) : Dev :=
  let d := d.bump 0x3E01_07
  if p.cropFaults.contains region then
    (d.imageStatus 0x0813 p.seq).updPage p.ring p.seq (fun q =>
      { q with regions := updIf (fun r => r.index = region) (fun r => { r with status := 0x0813, read := false }) q.regions,
               reading := q.reading.filter (· ≠ region), crops := q.crops.filter (fun c => c.region ≠ region) })
  else
    (d.updPage p.ring p.seq (fun q => { q with cropFaults := q.cropFaults ++ [region] })).enqueue
      { Forme.blank 2 with pages := [(p.ring, p.seq)], items := 1, entryTime := p.entryTime, only := some region }

/-- The handoff delivers a geometry forme's crops, in their order, when the forme commits; bad: regions whose crop a DDR5 read
reported. -/
def Dev.deliver (d : Dev) (f : Forme) (p : PageSide) (bad : List Nat) : Dev :=
  let cs := p.crops.filter (fun c => f.only.isNone || f.only = some c.region)
  d.each cs (fun d c =>
    let d := d.cropRead c (bad.contains c.region)
    if bad.contains c.region || d.cropCorrupt c then d.skipCrop p c.region else d.addCrop f (p.ring, p.seq, c.region))

/-- Entries that a forme reserved and did not open are released. -/
def Dev.dropEntries (d : Dev) (id : Nat) : Dev := { d with batch := { d.batch with reserved := kvErase d.batch.reserved id } }

/-- A geometry forme has left: the open batch closes unless another geometry forme is admitted (R262). -/
def Dev.closeIdle (d : Dev) : Dev :=
  if d.formes.any (fun f => f.kind = 2 && f.admitted) then d
  else match d.openBatch with
    | some b => if b.members.isEmpty then d else d.closeBatch b
    | none => d

/-- An entry is freed. -/
def Dev.freeBatch (d : Dev) (id : Nat) : Dev := d.setQueue (d.batch.queue.filter (fun b => b.id ≠ id))

/-- Has a page side committed its layout finish forme and not yet queued all its crops (R263)? -/
def Dev.hungry (d : Dev) : Bool :=
  let open_ := (d.openBatch.map (·.members)).getD []
  d.pages.any (fun p =>
    p.layoutDone && p.bare.isNone && (!p.geometryDone || open_.any (fun m => m.1 = p.ring && m.2.1 = p.seq)))

/-- The low-water alarm at a frame start (R263). -/
def Dev.lowWaterAlarm (d : Dev) : Dev :=
  let few := (d.batch.queue.filter (·.closed)).length < d.rd 0x3E00_02
  let now := few && d.batch.encoderEmpty
  let d := if now && !d.batch.lowWater then ((d.bump 0x3E00_03).imageStatus 0x0810 0).event 0x0810 0 else d
  { d with batch := { d.batch with lowWater := now, encoderEmpty := false } }

/-! ## Order (R270) -/

/-- Swap two places of a list. -/
def swapAt (l : List Nat) (i j : Nat) : List Nat := (l.set i (l.getD j 0)).set j (l.getD i 0)

/-- Places i = n down to 1 of the shuffle of epoch e. -/
def shuffle (e seed : Nat) : Nat → List Nat → List Nat
  | 0, a => a
  | i + 1, a =>
    let w := philoxWord (philox (i + 1) e 0 3 (seed % 2 ^ 32) (seed / 2 ^ 32)) 0
    shuffle e seed i (swapAt a (i + 1) (w % (i + 2)))

/-- π_e. -/
def epochOrder (n e seed : Nat) : List Nat := shuffle e seed (n - 1) (List.range n)

/-- The sample at stream position P. -/
def streamSample (n seed p : Nat) : Nat := if n = 0 then 0 else (epochOrder n (p / n) seed).getD (p % n) 0

/-! ## Augmentation (R273) -/

structure Augment where
  shiftMax : Nat
  gain : Nat
  offset : Nat
  noise : Nat
  deriving DecidableEq, Repr

def Dev.augment (d : Dev) : Augment := ⟨d.rd 0x3E11_01, d.rd 0x3E11_02, d.rd 0x3E11_03, d.rd 0x3E11_04⟩

/-- The draw of sample s at position P for an operation, block k. -/
def augDraw (seed s p op k i : Nat) : Nat := philoxWord (philox s (op + 8 * k) p 2 (seed % 2 ^ 32) (seed / 2 ^ 32)) i

def clampPixel (v : Int) : Nat := (clampInt 0 255 v).toNat

/-- Symmetric draw: (w mod (2 s + 1)) − s. -/
def spread (w s : Nat) : Int := (w % (2 * s + 1) : Nat) - (s : Int)

def translate (a : Augment) (seed s p w : Nat) (px : List Nat) : List Nat :=
  if a.shiftMax = 0 then px else
  let dx := spread (augDraw seed s p 1 0 0) a.shiftMax
  let dy := spread (augDraw seed s p 1 0 1) a.shiftMax
  let h := if w = 0 then 0 else px.length / w
  (List.range px.length).map (fun n =>
    let x := (n % w : Nat) - dx
    let y := (n / w : Nat) - dy
    if 0 ≤ x ∧ x < w ∧ 0 ≤ y ∧ y < h then px.getD (y.toNat * w + x.toNat) 255 else 255)

def gainOp (a : Augment) (seed s p : Nat) (px : List Nat) : List Nat :=
  if a.gain = 0 then px else
  let g := 16384 - a.gain + augDraw seed s p 2 0 0 % (2 * a.gain + 1)
  px.map (fun v => min 255 ((v * g + 8192) / 16384))

def offsetOp (a : Augment) (seed s p : Nat) (px : List Nat) : List Nat :=
  if a.offset = 0 then px else
  let o := spread (augDraw seed s p 3 0 0) a.offset
  px.map (fun v => clampPixel ((v : Int) + o))

def noiseOp (a : Augment) (seed s p : Nat) (px : List Nat) : List Nat :=
  if a.noise = 0 then px else
  px.mapIdx (fun n v =>
    let w := augDraw seed s p 4 (n / 8) (n % 8 / 2)
    let h := if n % 2 = 0 then w % 65536 else w / 65536
    clampPixel ((v : Int) + spread h a.noise))

/-- A member image after the enabled operations, in ascending order. -/
def augmented (a : Augment) (seed s p w : Nat) (px : List Nat) : List Nat :=
  noiseOp a seed s p (offsetOp a seed s p (gainOp a seed s p (translate a seed s p w px)))

/-! ## The sample table (R350, Table 13-2) -/

/-- First byte of the adaptation area, and the bytes that the sample table takes at its head (log entry 26). -/
def Dev.adaptArea (d : Dev) : Nat := d.layoutBase 44
def sampleTableBytes : Nat := 32 * 65536

def Dev.sample? (d : Dev) (i : Nat) : Option Sample := (d.batch.samples.find? (fun s => s.1 = i)).map (·.2)

/-- The entry's 32 bytes. -/
def Sample.word (s : Sample) : Nat :=
  packFields [(0, 30), (s.state, 2), (0, 8), (s.template, 8), (s.targets.length, 16), (pairOf s.tgtOff, 64),
    (pairOf s.imgOff, 64), (pairOf s.imgLen, 64)]

def Dev.putSample (d : Dev) (i : Nat) (s : Sample) : Dev :=
  { d with batch := { d.batch with samples := kvInsert d.batch.samples i s } }.poke (d.adaptArea + 32 * i) (leBytes 32 s.word)

/-- Is the entry well formed, its ranges inside the adaptation area (R271)? -/
def Dev.sampleEntryOk (d : Dev) (i : Nat) : Bool :=
  let w := d.mrd (d.adaptArea + 32 * i) 32
  pairsOk w [192, 128, 64] && bits w 159 128 + bits w 223 192 ≤ d.layoutBytes 44 &&
    bits w 95 64 + 4 * bits w 63 48 ≤ d.layoutBytes 44

/-- STATE of an entry. -/
def Dev.sampleState (d : Dev) (i : Nat) : Nat := bits (d.mrd (d.adaptArea + 32 * i) 32) 31 30

/-- The lowest place of the adaptation area for n bytes, behind the table, beside the other samples and the batch
descriptors (log entry 26). -/
def Dev.samplePlace (d : Dev) (skip n : Nat) : Option Nat :=
  let bs := ((d.batch.samples.filter (fun s => s.1 ≠ skip)).map (fun s =>
    [(s.2.imgOff, s.2.imgLen), (s.2.tgtOff, 4 * s.2.targets.length)])).flatten ++
      d.batch.queue.map (fun b => (b.descAt, b.desc.length))
  let ok (a : Nat) : Bool := sampleTableBytes ≤ a && a + n ≤ d.layoutBytes 44 && bs.all (fun b => !overlap a n b.1 b.2)
  ((sampleTableBytes :: bs.map (fun b => roundUp64 (b.1 + b.2))).filter ok).foldl
    (fun best a => match best with | none => some a | some b => some (min a b)) none

/-- A sample is set to an excluded STATE: 2 corrupt, 3 slow. -/
def Dev.excludeSample (d : Dev) (i state : Nat) : Dev :=
  match d.sample? i with
  | some s => d.putSample i { s with state := state }
  | none => d

/-! ## Building a batch (R271, R272) -/

/-- Statuses of the run. -/
def Dev.runStatusIs (d : Dev) (status : Nat) : Dev := d.wr 0x3E13_05 status

/-- The adaptation batch that is being built. -/
def Dev.building (d : Dev) : Option Batch := d.batch.queue.find? (fun b => b.adapt && !b.closed)

/-- May an adaptation batch take an entry (R261)? -/
def Dev.adaptEntry (d : Dev) : Bool :=
  (d.batch.queue.filter (·.adapt)).length < d.rd 0x3E00_05 && d.freeEntries > d.entriesAsked

/-- STEP of the next batch to open: each batch of the run that waits or runs takes one step. -/
def Dev.nextStep (d : Dev) : Nat := d.batch.step + (d.batch.queue.filter (·.adapt)).length

/-- Open the batch of the next step, if the run has one left. -/
def Dev.openAdapt (d : Dev) : Dev :=
  if d.nextStep > d.rdp 0x3E10_03 then d
  else
    let b : Batch := ⟨d.batch.nextBatch, d.rd 0x3E10_02, [], false, true, d.nextStep, d.batch.pos, [], [], [], [], 0⟩
    { d with batch := { d.batch with queue := d.batch.queue ++ [b], nextBatch := d.batch.nextBatch + 1 } }

/-- RUN_STATE and RUN at a run's end; with AUTO_PUBLISH publication becomes pending (R278). -/
def Dev.runEnds (d : Dev) (state : Nat) : Dev :=
  let d := (d.wr 0x3E12_01 0).wr 0x3E12_02 state
  let d := d.setQueue (d.batch.queue.filter (fun b => !b.adapt))
  let d := { d with formes := d.formes.filter (fun f => f.kind ≠ 9) }
  d.autoPublish

/-- A skip is recorded; N in a row fail the run (R271). -/
def Dev.skipSample (d : Dev) (b : Batch) (s reason : Nat) : Dev :=
  let n := d.rdp 0x3E10_01
  let d := d.updBatch b.id (fun b => { b with skips := b.skips ++ [(s, reason)] })
  let d := { d with batch := { d.batch with pos := d.batch.pos + 1, skips := d.batch.skips + 1 } }
  if d.batch.skips ≥ n then ((d.runStatusIs 0x0819).event 0x0819 0).runEnds 4 else d

/-- The next stream position if its sample is skipped without a decode: its reason. -/
def Dev.skipReason (d : Dev) (s : Nat) : Option Nat :=
  if d.sampleState s ≥ 2 then some 3
  else if d.sampleState s = 0 ∨ !d.sampleEntryOk s then some 1
  else none

/-- The sample at the stream position that comes next. -/
def Dev.nextSample (d : Dev) : Nat := streamSample (d.rdp 0x3E10_01) (d.rd 0x3E10_04) d.batch.pos

/-- Pass over samples that are skipped without a decode. -/
def Dev.passSkips : Nat → Dev → Dev
  | 0, d => d
  | fuel + 1, d =>
    match d.building, d.rd 0x3E12_02 with
    | some b, 1 =>
      match d.skipReason d.nextSample with
      | some r => (d.skipSample b d.nextSample r).passSkips fuel
      | none => d
    | _, _ => d

/-- The batch descriptor with its member and skip words (Tables 13-3, 13-4). -/
def batchDescriptor (seed : Nat) (b : Batch) : List Byte :=
  leBytes 64 (packFields [(0, 288), (b.skips.length, 16), (b.samples.length, 16), (pairOf b.firstPos, 64), (seed, 64),
    (pairOf b.step, 64)]) ++
  (b.samples.map (fun m => leBytes 4 (m.1 + 65536 * flag m.2.2))).flatten ++
  (b.skips.map (fun s => leBytes 4 (s.1 + 65536 * s.2))).flatten

/-- A finished batch's descriptor is written into the adaptation area (R272). -/
def Dev.writeDesc (d : Dev) (id at_ : Nat) (bs : List Byte) : Dev :=
  (d.updBatch id (fun b => { b with desc := bs, descAt := at_ })).poke (d.adaptArea + at_) bs

/-- A batch is finished: its descriptor takes the lowest free place. -/
def Dev.finishBatch (d : Dev) (seed : Nat) (b : Batch) : Dev :=
  let d := d.updBatch b.id (fun b => { b with closed := true })
  let bs := batchDescriptor seed b
  match d.samplePlace 65536 bs.length with
  | some a => d.writeDesc b.id a bs
  | none => d.updBatch b.id (fun b => { b with desc := bs })

/-- A member: its augmented plane, and REPLACEMENT where it stands past the first BATCH_SIZE positions. -/
def Dev.takeSample (d : Dev) (b : Batch) (s w : Nat) (px : List Nat) : Dev :=
  let p := d.batch.pos
  let seed := d.rd 0x3E10_04
  let b := { b with samples := b.samples ++ [(s, p, decide (p ≥ b.firstPos + b.size))],
                    planes := b.planes ++ [(w, augmented d.augment seed s p w px)] }
  let d := { d with batch := { d.batch with pos := p + 1, skips := 0 } }.updBatch b.id (fun _ => b)
  if b.samples.length ≥ b.size then
    (d.finishBatch seed b).enqueue
      { Forme.blank 9 with items := b.size, ref := b.id, seed := seed, step := b.step }
  else d

/-- The 8-bit plane of a stored sample's image; none: corrupt (R271). -/
def Dev.samplePic (d : Dev) (i : Nat) : Option Pic :=
  (d.sample? i).bind (fun s => (picOf s.img s.width s.height 1 false).filter (fun p => p.planes = 1 && !p.wide))

/-- The budget of a sample decode, max(8 · SAMPLE_MEAN, 2 ms), in ns (R271). -/
def Dev.sampleBudget (d : Dev) : Nat := max (8 * meanOf d.batch.sampleTimes) 2000000

/-- A sample's decode ends within its budget: it counts in SAMPLE_MEAN, which is formed like MEAN. -/
def Dev.countSample (d : Dev) (ns : Nat) : Dev :=
  let ts := (ns :: d.batch.sampleTimes).take 64
  { d with batch := { d.batch with sampleTimes := ts } }.wr 0x3E13_04 (meanOf ts / 1000)

/-- A corrupt sample: abandoned, marked and replaced. -/
def Dev.corruptSample (d : Dev) (b : Batch) (s : Nat) : Dev :=
  ((((d.excludeSample s 2).bump 0x3E13_01).runStatusIs 0x0814)).skipSample b s 1

/-- A slow sample: abandoned, marked and replaced. -/
def Dev.slowSample (d : Dev) (b : Batch) (s : Nat) : Dev :=
  (((d.excludeSample s 3).bump 0x3E13_02).runStatusIs 0x0815).skipSample b s 2

/-- One considered sample, whose decode takes a time in ns: corrupt, slow, or a member. -/
def Dev.considerSample (d : Dev) (ns : Nat) : Dev :=
  let d := d.passSkips (2 * d.rdp 0x3E10_01 + 1)
  match d.building, d.rd 0x3E12_02 with
  | some b, 1 =>
    match d.samplePic d.nextSample with
    | none => d.corruptSample b d.nextSample
    | some p =>
      if ns ≥ d.sampleBudget then d.slowSample b d.nextSample
      else (d.countSample ns).takeSample b d.nextSample p.width p.rows.flatten
  | _, _ => d

/-- ADAPT_BATCH_BUILD (R271): a batch takes its entry and considers samples in stream order; times: of the decodes it makes,
in ns. -/
def adaptBatchBuild (times : List Nat) (d : Dev) : Dev :=
  if d.rd 0x3E12_02 ≠ 1 then d
  else
    let d := if d.building.isSome ∨ !d.adaptEntry then d else d.openAdapt
    (d.each times Dev.considerSample).passSkips (2 * d.rdp 0x3E10_01 + 1)

/-- SAMPLE_DECODE_OVER_BUDGET (R271): the sample whose decode runs is abandoned, marked slow and replaced. -/
def sampleOverBudget (d : Dev) : Dev :=
  let d := d.passSkips (2 * d.rdp 0x3E10_01 + 1)
  match d.building, d.rd 0x3E12_02 with
  | some b, 1 => d.slowSample b d.nextSample
  | _, _ => d

/-! ## The update step (R274 to R276) -/

/-- A positive dyadic value as a natural number of units of 2^-k. -/
def dyadicUnits (k : Nat) (v : Num) : Nat :=
  match v with
  | .fin _ m e => if e + k ≥ 0 then m * 2 ^ (e + k).toNat else m / 2 ^ (-(e + k)).toNat
  | _ => 0

/-- Largest FP32 code from bit b down whose square is at most n / q (units: the value times 2^149). -/
def rootBits (n q : Nat) : Nat → Nat → Nat
  | 0, c => c
  | b + 1, c =>
    let t := c + 2 ^ b
    let u := dyadicUnits 149 (fmtF32.decode t)
    rootBits n q b (if t ≤ 0x7F7FFFFF ∧ u * u * q ≤ n then t else c)

/-- √(n / q) rounded once to FP32, nearest even. -/
def rootRatio (n q : Nat) : F32 :=
  let n := n * 2 ^ 298
  let c := rootBits n q 31 0
  let u := dyadicUnits 149 (fmtF32.decode c) + dyadicUnits 149 (fmtF32.decode (c + 1))
  BitVec.ofNat 32 (if u * u * q < 4 * n ∨ (u * u * q = 4 * n ∧ c % 2 = 1) then c + 1 else c)

/-- An FP32 value in units of 2^-149. -/
def units149 (w : F32) : Nat := dyadicUnits 149 (.of32 w)

/-- LR_T: LR · √(1 − β2ᵗ) / (1 − β1ᵗ), rounded once. -/
def lrT (lr b1 b2 : F32) (t : Nat) : F32 :=
  let one := 2 ^ 149
  let l := units149 lr
  let p1 := one ^ t - units149 b1 ^ t
  let p2 := one ^ t - units149 b2 ^ t
  rootRatio (l * l * p2 * one ^ t) (one * one * p1 * p1)

def oneF32 : F32 := 0x3F800000#32

def negF32 (w : F32) : F32 := (Num.of32 w).neg.to32

structure StepConst where
  lrt : F32
  b1 : F32
  b2 : F32
  c1 : F32
  c2 : F32
  eps : F32
  deriving DecidableEq, Repr

def Dev.stepConst (d : Dev) (t : Nat) : StepConst :=
  let f (key : Nat) : F32 := BitVec.ofNat 32 (d.rd key)
  { lrt := lrT (f 0x3E10_05) (f 0x3E10_06) (f 0x3E10_07) t, b1 := f 0x3E10_06, b2 := f 0x3E10_07,
    c1 := fsub oneF32 (f 0x3E10_06), c2 := fsub oneF32 (f 0x3E10_07), eps := f 0x3E10_08 }

/-- The update of one element: first moment, root of the second moment, weight, each in FP32 (R274). -/
def updateElem (k : StepConst) (g m q w : F32) : F32 × F32 × F32 :=
  let m := ffma k.b1 m (fmul k.c1 g)
  let v := ffma k.b2 (fmul q q) (fmul k.c2 (fmul g g))
  let q := if (Num.of32 v).isZero then 0#32 else fmul v (frsqrt v)
  (m, q, ffma (negF32 k.lrt) (fmul m (frcp (fadd q k.eps))) w)

/-- 16-bit draw of element i of a tensor of Table 4-5 as step t stores it: from the run's SEED, STEP t, the tensor's
identifier and the element's vector and lane (R80, R276). The identifiers and places are the builder's (log entry 27). -/
def storeDraw (set seed t tensor i : Nat) : Nat :=
  let p := Config.adapterPlace set tensor i
  laneDraw seed t (p.2 / 64 % 2 ^ 20 + 2 ^ 20 * (p.1 % 2 ^ 12)) (p.2 % 64)

/-- A group of up to 32 stored in an 8-bit format with a new scale under R74, rounded stochastically, as the values it
expands to; fmt is the code of the format for the choice of the scale. -/
def storeGroup (fmt : Nat) (f : Fmt) (draw : Nat → Nat) (xs : List F32) : List F32 :=
  let ns := xs.map (fun x => (Num.of32 x))
  let fin := ns.filter (·.isFin)
  let a := numMax (.fin false 0 0) (fin.map Num.abs)
  let e := (chooseScale fmt false a a a).1
  if e = -128 then xs.map (fun _ => 0#32)
  else ns.mapIdx (fun i v => ((f.decode (f.encode (v.scale (-e)) (.stochastic (draw i)))).scale e).to32)

/-- Elements until the group that begins at element i ends: groups of 32 run along rows of the input dimension (R82). -/
def groupLength (row i : Nat) : Nat := min 32 (max 1 row - i % max 1 row)

/-- A tensor stored group by group, from element i on. -/
def storeGroups (fmt : Nat) (f : Fmt) (draw : Nat → Nat) (row : Nat) : Nat → Nat → List F32 → List F32
  | 0, _, _ => []
  | fuel + 1, i, xs =>
    let n := groupLength row i
    if xs.isEmpty then []
    else storeGroup fmt f (fun k => draw (i + k)) (xs.take n) ++ storeGroups fmt f draw row fuel (i + n) (xs.drop n)

/-- A weight stored in BF16, rounded stochastically. -/
def storeBf16 (r : Nat) (x : F32) : F32 := (fmtBF16.decode (fmtBF16.encode (.of32 x) (.stochastic r))).to32

/-- Weights of a parity, or of the current adapter before the run's first step. -/
def Dev.weightOf (d : Dev) (parity i : Nat) : F32 :=
  let l := kvGet d.batch.current.weights d.batch.working parity
  l.getD i (Config.adapterWeight d.activeSetId i)

/-- The gradients as their E5M2 groups hold them, which is what the update reads (R82, Table 4-5). -/
def storedGrads (set seed t : Nat) (grads : List F32) : List F32 :=
  storeGroups 3 fmtE5M2 (storeDraw set seed t 1) (Config.adapterInput set) grads.length 0 grads

/-- Step t: every element updated from parity (t − 1) mod 2 into parity t mod 2 (R274, R276); seed is the run's. -/
def Dev.adaptUpdate (d : Dev) (seed t : Nat) (grads : List F32) : Dev :=
  let src := (t - 1) % 2
  let set := d.activeSetId
  let row := Config.adapterInput set
  let k := d.stepConst t
  let mq := kvGet ([], []) d.batch.mom src
  let n := grads.length
  let r := (storedGrads set seed t grads).mapIdx (fun i g =>
    updateElem k g (mq.1.getD i 0#32) (mq.2.getD i 0#32) (d.weightOf src i))
  let m := storeGroups 2 fmtE4M3 (storeDraw set seed t 2) row n 0 (r.map (·.1))
  let q := storeGroups 2 fmtE4M3 (storeDraw set seed t 3) row n 0 (r.map (·.2.1))
  let w := r.mapIdx (fun i x => storeBf16 (storeDraw set seed t 0 i) x.2.2)
  { d with batch := { d.batch with mom := kvInsert d.batch.mom (t % 2) (m, q), working := kvInsert d.batch.working (t % 2) w,
                                   lastParity := t % 2, done := some w } }

/-- Does any gradient element stop the update (R275)? -/
def nonfiniteGrad (grads : List F32) : Bool := grads.any (fun g => !(Num.of32 g).isFin)

/-- After a step without an update the batches that wait serve one step earlier, with a new descriptor (R275). -/
def Dev.stepsBack (d : Dev) : Dev :=
  let seed := d.rd 0x3E10_04
  let d := d.setQueue (updIf (fun (b : Batch) => b.adapt) (fun b => { b with step := b.step - 1 }) d.batch.queue)
  let d := d.each (d.batch.queue.filter (fun b => b.adapt && b.closed)) (fun d b => d.writeDesc b.id b.descAt (batchDescriptor seed b))
  { d with formes := updIf (fun (f : Forme) => f.kind = 9) (fun f => { f with step := f.step - 1 }) d.formes }

/-- An adaptation step commits: its update, or with a non-finite gradient none; its entry is freed; the run ends after
STEPS steps, or now when it is stopping. -/
def Dev.adaptCommit (d : Dev) (f : Forme) (loss : F32) (grads : List F32) : Dev :=
  let d := (d.freeBatch f.ref).wr 0x3E12_07 loss.toNat
  let d :=
    if nonfiniteGrad grads then (((d.bump 0x3E13_03).runStatusIs 0x0816).event 0x0816 0).stepsBack
    else
      let d := (d.adaptUpdate f.seed f.step grads).wr 0x3E12_03 f.step
      { d with batch := { d.batch with step := f.step + 1 } }
  if d.rd 0x3E12_02 = 2 then d.runEnds 0
  else if d.batch.step > d.rdp 0x3E10_03 then d.runEnds 3
  else d

/-! ## Runs (R277 to R279) -/

/-- A running adapter import fails: the working copy stays as the last committed step wrote it (R393). -/
def Dev.failImport (d : Dev) : Dev :=
  if d.rd 0x4211_02 = 1 then
    { (d.wr 0x4211_02 3).wr 0x4210_08 0x0608 with fabric := { d.fabric with adapterIn := [], adapterHead := none, adapterTag := none } }
  else d

/-- RUN 1: a run starts; one without samples or steps finishes at once. -/
def adaptStartDo (d : Dev) : Dev :=
  if d.rd 0x3E12_02 = 1 ∨ d.rd 0x3E12_02 = 2 then d
  else
    let d := (((d.wr 0x3E12_01 1).wr 0x3E12_02 1).wr 0x3E12_03 0).failImport
    let d := { d with batch := { d.batch with pos := 0, step := 1, skips := 0, mom := [], working := [], lastParity := 0 } }
    if d.rdp 0x3E10_01 = 0 ∨ d.rdp 0x3E10_03 = 0 then d.runEnds 3 else d

/-- RUN 0: the run stops after the step in flight commits. -/
def adaptStopDo (d : Dev) : Dev :=
  if d.rd 0x3E12_02 = 1 then
    if d.formes.any (fun f => f.kind = 9 && f.group.isSome) then (d.wr 0x3E12_01 0).wr 0x3E12_02 2 else d.runEnds 0
  else d.wr 0x3E12_01 0

/-- PUBLISH 1: publication becomes pending. -/
def publishDo (d : Dev) : Dev := d.wr 0x3E12_06 1

/-- Publication at a frame start (R278). -/
def Dev.tryPublish (d : Dev) : Dev :=
  let bound := d.batch.current.version ≠ d.batch.previous.version &&
    d.liveSeqs.any (fun i => (kvGet SeqSt.init d.seqs i).version = d.batch.previous.version)
  let running := d.formes.any (fun f => f.kind = 9 && f.group.isSome)
  if d.on? 0x3E12_06 ∧ !bound ∧ !running then
    let w := d.batch.done.getD d.batch.current.weights
    let v := match d.rd 0x4211_02, d.fabric.adapterHead with
      | 2, some h => h.2
      | _, _ => d.batch.current.version + 1
    let head := if d.rd 0x4211_02 = 2 then none else d.fabric.adapterHead
    let d := { d with fabric := { d.fabric with adapterHead := head } }
    ({ d with batch := { d.batch with previous := d.batch.current, current := ⟨v, w⟩ } }.wr 0x3E12_05 v).wr 0x3E12_06 0
  else d

/-- Activating a plate set resets the version to 0. -/
def Dev.resetAdapter (d : Dev) : Dev :=
  { d with batch := { d.batch with current := ⟨0, []⟩, previous := ⟨0, []⟩, mom := [], working := [], done := none } }.wr 0x3E12_05 0

end Sys2Proof.Machine
end

