-- ==== Sys2Proof/Machine/Queues.lean ====
section
/-! DEFINITION. The job scheduler's queues (R280 to R283, R205, R206, R443): when a forme may be admitted, what it then
reserves, and the order in which admission is tried. -/

namespace Sys2Proof.Machine

/-! ## Order (R283) -/

/-- The queues in the order in which admission takes them. -/
def queueOrder : List Nat := [8, 5, 3, 4, 6, 2, 1, 0, 9]

/-- First PAGE_SEQ a forme serves. -/
def Forme.firstSeq (f : Forme) : Nat := ((f.pages.head?).map (·.2)).getD 0

/-- Does a stand before b in their queue? Restarted formes come first, in the order of their faults; encoder formes
follow the prepared batch queue; others come in ascending entry time, then PAGE_SEQ. -/
def formeBefore (a b : Forme) : Bool :=
  match a.retry, b.retry with
  | some x, some y => x < y
  | some _, none => true
  | none, some _ => false
  | none, none =>
    if a.kind = 3 then a.ref < b.ref
    else a.entryTime < b.entryTime || (a.entryTime = b.entryTime && a.firstSeq < b.firstSeq)

/-- Insert behind all that do not stand after it. -/
def insertForme (f : Forme) : List Forme → List Forme
  | [] => [f]
  | g :: r => if formeBefore f g then f :: g :: r else g :: insertForme f r

/-- The queue of a kind, in order. -/
def Dev.queueOf (d : Dev) (kind : Nat) : List Forme :=
  (d.formes.filter (fun f => f.kind = kind)).foldl (fun l f => insertForme f l) []

/-! ## Eligibility (Table 1-1, R206) -/

/-- Band stream of a page side (R205): its channel, or 4 plus its decoder engine. -/
def bandStream (p : PageSide) : Option Nat := if p.image then p.engine.map (· + 4) else some p.channel

/-- Page sides numbered before this one, in numbering order. -/
def Dev.pagesBefore (d : Dev) (p : PageSide) : List PageSide := d.pages.takeWhile (fun q => !q.is p.ring p.seq)

/-- Has the layout finish forme of the stream's previous page side committed, or its page side left (R206)? -/
def Dev.streamFree (d : Dev) (p : PageSide) : Bool :=
  (d.pagesBefore p).all (fun q => bandStream q ≠ bandStream p || q.layoutDone || q.bare.isSome || q.group.isSome)

/-- The page side a forme works for. -/
def Dev.pageOf (d : Dev) (f : Forme) : Option PageSide := f.pages.head?.bind (fun pg => d.page? pg.1 pg.2)

/-- Has the producer a live grant of an owner for a template? -/
def Dev.liveGrant (d : Dev) (owner template : Nat) : Bool :=
  d.fabric.grants.any (fun g => g.owner = owner && bits g.word 191 184 = template && !g.dead)

/-- Is an entry of the outstanding table one of an export forme, or of an earlier forme of its span (R389)? -/
def Dev.spanEntry (d : Dev) (f : Forme) (o : Outstanding) : Bool :=
  o.forme = f.id || (o.ty = 1 && o.dest = f.band &&
    d.fabric.grants.any (fun g => g.owner = o.dest && g.window = o.window && bits g.word 191 184 = f.ref))

/-- May the forme be admitted or placed again, its space apart? An export waits for the answers of its old attempt and,
after a timeout, for a new grant (R386, R389). An adaptation step waits for the one before it, whose parity it reads
(R276). -/
def Dev.eligible (d : Dev) (f : Forme) : Bool :=
  match f.kind with
  | 0 => match d.pageOf f with
    | some p => p.bandsCommitted = f.band && (f.band ≠ 0 || d.streamFree p)
    | none => false
  | 6 => (d.fabric.outstanding ++ d.fabric.backlog.map (·.1)).all (fun o => !d.spanEntry f o) && d.liveGrant f.band f.ref
  | 9 => f.step = d.batch.step
  | _ => true

/-! ## Output areas (Table 14-3) -/

/-- The first of some areas that nothing holds. -/
def freeArea (areas taken : List Nat) : Option Nat := areas.find? (fun a => !taken.contains a)

/-- The work areas of the active plate set. -/
def Dev.workAreas (d : Dev) : WorkAreas := match d.activeSet with | some ps => ps.areas | none => ⟨[], [], [], 0, 0⟩

/-- Band 0 reserves its page side's layout output area, which the later bands find reserved. -/
def Dev.admitBand (d : Dev) (f : Forme) (p : PageSide) : Option Dev :=
  if f.band ≠ 0 ∨ p.layoutArea.isSome then some d
  else (freeArea d.workAreas.layout (d.pages.filterMap (·.layoutArea))).map (fun a =>
    d.updPage p.ring p.seq (fun p => { p with layoutArea := some a }))

/-- A layout finish forme reserves a box list buffer. -/
def Dev.admitFinish (d : Dev) (p : PageSide) : Option Dev :=
  if p.boxArea.isSome then some d
  else (freeArea d.workAreas.boxLists (d.pages.filterMap (·.boxArea))).map (fun a =>
    d.updPage p.ring p.seq (fun p => { p with boxArea := some a }))

/-- An encoder or recompute forme reserves an encoder output area. -/
def Dev.takeOutput (d : Dev) (id : Nat) : Option Dev :=
  (freeArea d.workAreas.encoder (d.formes.filterMap (·.area))).map (fun a => d.updForme id (fun f => { f with area := some a }))

/-! ## Geometry (R261, R443) -/

/-- Admit a geometry forme: crop slots and entries for its crops, its unit, DESKEW and FILL_VALUE as they stand. -/
def Dev.admitGeometry (d : Dev) (f : Forme) (p : PageSide) : Option Dev :=
  let rb := d.rd 0x3E00_04
  let n := entriesFor (d.cropCount p f) rb
  match (if n ≤ d.freeEntries then d.cropRun (d.cropCount p f) else none) with
  | none => none
  | some slots =>
    let u := d.unitFor p
    let d := { d with batch := { d.batch with reserved := kvPut 0 d.batch.reserved f.id n } }
    some (d.updForme f.id (fun f =>
      { f with unit := u, deskew := d.on? 0x3800_01, fill := d.rd 0x3800_02, readBatch := rb, items := slots.length,
               slots := slots }))

/-! ## Templates (R234) -/

/-- Queue the prefix forme of a template that is to be built. -/
def Dev.buildTemplate (d : Dev) (t : Nat) : Dev :=
  if d.formes.any (fun f => f.kind = 4 && f.ref = t) then d
  else (d.updTemplate t (fun x => { x with state := 1 })).enqueue
    { Forme.blank 4 with ref := t, items := (d.template t).prefixLen, entryTime := d.now }

/-- A template that a sequence names, at its use: rebuilt if it is stale or needs it. -/
def Dev.useTemplate (d : Dev) (t : Nat) : Dev :=
  let d := d.templateFresh t
  if (d.template t).state = 4 then (d.bump 0x3C02_0B).buildTemplate t else d

/-- A page list entry's stand-in for a template's own list. -/
def Dev.templateSeq (d : Dev) (t : Nat) : SeqEnt :=
  { seqEntOf 0 with list := (d.template t).list, wpl := d.templateWpl (d.template t), cls := (d.template t).cls }

/-- What a template's prefix forme still needs (R224). -/
def Dev.templateNeeds (d : Dev) (t : Nat) : List (Nat × Nat) :=
  let x := d.template t
  let c := d.slugClass x.cls
  if c.tokens = 0 ∨ x.prefixLen = 0 then [] else
  ((List.range c.layers).map (fun l => ((List.range ((x.prefixLen - 1) / c.tokens + 1)).map (fun j =>
    d.slugNeed c 0 x.prefixLen l j (d.templateSeq t))).flatten)).flatten

/-- Prepare the slugs of a template's prefix forme. -/
def Dev.prepareTemplate (d : Dev) (t : Nat) : Dev :=
  let r := (d.templateNeeds t).foldl (Dev.meetNeed (d.template t).cls) (d, 0, 0)
  (r.1.makeRoom 0 r.2.1 4096).makeRoom 1 r.2.2 4096

/-- Admit a prefix build: the template's page list. -/
def Dev.admitPrefix (d : Dev) (f : Forme) : Option Dev :=
  let t := f.ref
  if (d.template t).list ≠ 0 then some d
  else (d.newList (d.templateWords (d.template t))).map (fun r =>
    (r.2.updTemplate t (fun x => { x with list := r.1 })).prepareTemplate t)

/-! ## Encoder and recompute formes (R213 to R216, R232, R234, R245, R246) -/

/-- Width and height of a crop, from its header (Table 9-5). -/
def Dev.cropDims (d : Dev) (c : Crop) : Nat × Nat := let h := d.cropHead c; (bits h 415 400, bits h 399 384)

/-- Positions written before the first decode step: the template's prefix and what the encoder gives the crop. -/
def Dev.prefixOf (d : Dev) (r : TextReq) (c : Crop) : Nat :=
  (if r.template < 255 then (d.template r.template).prefixLen else 0) +
    Config.imagePositions r.slugClass (d.cropDims c).1 (d.cropDims c).2

/-- One member of a reading batch that is still to be read: page side, region, request, crop. -/
structure Member where
  page : PageSide
  region : Nat
  entry : List Byte
  crop : Crop
  deriving DecidableEq, Repr

/-- Has the region a sequence already? -/
def Dev.hasSeq (d : Dev) (ring seq region : Nat) : Bool :=
  d.seqs.any (fun s => s.2.ring = ring && s.2.page = seq && s.2.region = region)

/-- Members of a batch whose page side still waits for them. -/
def Dev.membersOf (d : Dev) (f : Forme) : List Member :=
  match d.batch? f.ref with
  | none => []
  | some b => b.members.filterMap (fun m =>
    match d.page? m.1 m.2.1 with
    | none => none
    | some p =>
      if p.bare.isSome || p.group.isSome || !p.reading.contains m.2.2 || d.hasSeq m.1 m.2.1 m.2.2 then none
      else match p.regions.find? (fun r => r.index = m.2.2), p.crops.find? (fun c => c.region = m.2.2) with
        | some r, some c => (d.requestOf p r.cls).map (fun e => ⟨p, m.2.2, e, c⟩)
        | _, _ => none)

/-- Does the active plate set have the layout class of a member's region (R128)? -/
def Dev.classProvided (d : Dev) (m : Member) : Bool :=
  match d.activeSet, m.page.regions.find? (fun r => r.index = m.region) with
  | some ps, some r => r.cls < ps.classTable.length
  | _, _ => true

/-- Status with which a member is refused at its encoder forme's admission, 0 for none (R128, R216, R234, R245); a LIMIT of 0
is the empty success that R216 makes it whatever its prefix (R6). -/
def Dev.memberStatus (d : Dev) (m : Member) : Nat :=
  let r := textReqOf m.entry
  if d.requestStatus m.entry ≠ 0 then d.requestStatus m.entry
  else if r.limit > 65536 ∨ (r.limit ≠ 0 ∧ d.prefixOf r m.crop > r.limit) then 0x0901
  else if !(d.slugClass r.slugClass).valid then 0x0902
  else if r.template < 255 ∧ (d.template r.template).state = 0 then 0x0903
  else if !d.classProvided m then 0x0318
  else 0

/-- Can one of the forme's sequences reach a walk order that is too long (R221)? Then the forme is refused whole. -/
def Dev.formeTooLong (d : Dev) (ms : List Member) : Bool :=
  ms.any (fun m => let r := textReqOf m.entry; d.memberStatus m = 0 && r.limit ≠ 0 && d.walkTooLong r.slugClass r.limit)

/-- Members that have no sequence: refused ones end with their status, a LIMIT of 0 ends at once (R216). -/
def Dev.endMembers (d : Dev) (f : Forme) : Dev :=
  (d.membersOf f).foldl (fun d m =>
    let st := d.memberStatus m
    if st ≠ 0 ∨ (textReqOf m.entry).limit = 0 then
      let d := if st = 0x0901 ∨ st = 0x0902 ∨ st = 0x0903 then d.slugStatus st 0 else d
      match d.page? m.page.ring m.page.seq with
      | some p => d.endRegion p m.region st
      | none => d
    else d) d

/-- What a member takes: sequence entry, batch row, page list, text area; its template is taken and its first slugs are
prepared. None: something is missing. -/
def Dev.takeMember (d : Dev) (m : Member) : Option (Nat × Dev) :=
  let r := textReqOf m.entry
  let c := d.slugClass r.slugClass
  let p1 := d.prefixOf r m.crop
  let area := textArea (((d.fount? r.fount).map (·.maxTokenBytes)).getD 0) (r.limit - p1)
  match d.freeSeq, d.freeRow, d.newList (c.listWords r.limit) with
  | some i, some row, some l =>
    if d.textUsed + area ≤ d.textPool ∧ (r.template ≥ 255 ∨ (d.template r.template).state = 2) then
      let d := l.2.putSeqEnt i
        { list := l.1, position := 0, limit := r.limit, prefixLen := p1, page := m.page.seq, lastStep := d.frameCount % 2 ^ 32,
          region := m.region, wpl := wpl r.limit c.tokens, template := r.template, row := row, cls := r.slugClass,
          state := 1, recomputed := false, holds := 0 }
      let s := { SeqSt.init with ring := m.page.ring, page := m.page.seq, region := m.region, request := m.entry,
                                 gstate := r.startState, version := d.batch.current.version }
      let d := { d with seqs := kvInsert d.seqs i s }
      let d := d.updPage m.page.ring m.page.seq (fun p => { p with textHeld := p.textHeld + area })
      let d := if r.template < 255 then d.takeTemplate i r.template else d
      some (i, (d.stageFrisket row r r.startState).prepareSeq i (d.seqEnt i).position p1)
    else none
  | _, _, _ => none

/-- Take every member or none. -/
def Dev.takeMembers : List Member → List Nat → Dev → Option (List Nat × Dev)
  | [], acc, d => some (acc, d)
  | m :: r, acc, d =>
    match d.takeMember m with
    | some t => Dev.takeMembers r (acc ++ [t.1]) t.2
    | none => none

/-- Templates that a forme's sequences name are built where they need it. -/
def Dev.wakeTemplates (d : Dev) (f : Forme) : Dev :=
  let ts := if f.kind = 3 then (d.membersOf f).map (fun m => (textReqOf m.entry).template)
    else if f.kind = 5 then f.seqs.map (fun i => (d.seqEnt i).template) else []
  d.each (ts.eraseDups.filter (· < 255)) Dev.useTemplate

/-- Admit an encoder forme. -/
def Dev.admitEncoder (d : Dev) (f : Forme) : Option Dev :=
  ((d.takeOutput f.id).bind (fun d => Dev.takeMembers (d.membersOf f) [] d)).map (fun r =>
    let is := r.1.filter (fun i => (r.2.seqEnt i).state = 1)
    r.2.updForme f.id (fun f => { f with seqs := is, items := is.length }))

/-- Last position a recompute forme writes: the prefix and the tokens emitted so far (R232). -/
def Dev.recomputeEnd (d : Dev) (i : Nat) : Nat := (d.seqEnt i).prefixLen + (kvGet SeqSt.init d.seqs i).log.length

/-- Admit a recompute forme: a new page list, the template taken again, slugs prepared. -/
def Dev.admitRecompute (d : Dev) (f : Forme) : Option Dev :=
  match f.seqs with
  | [] => some d
  | i :: _ =>
    let e := d.seqEnt i
    let c := d.slugClass e.cls
    if e.template < 255 ∧ (d.template e.template).state ≠ 2 then none
    else ((d.takeOutput f.id).bind (fun d => d.newList (c.listWords e.limit))).map (fun r =>
      let d := r.2.updSeqEnt i (fun e => { e with list := r.1, wpl := wpl e.limit c.tokens, state := 1 })
      let d := if e.template < 255 then d.takeTemplate i e.template else d
      d.prepareSeq i (d.seqEnt i).position (d.recomputeEnd i))

/-! ## Structuring (R25, R356) and export (R392) -/

/-- Admit a structuring forme: ring space for the group beyond the page record's reserve. -/
def Dev.admitStructuring (d : Dev) (p : PageSide) : Option Dev :=
  let n := groupRest p.regions.length p.fields
  if p.reserve ≥ 72 ∧ n ≤ d.ringFree p.ring then some (d.updPage p.ring p.seq (fun p => { p with reserve := p.reserve + n }))
  else none

/-- Slugs that a template's list names. -/
def Dev.templateSlugs (d : Dev) (t : Nat) : List Nat := ((d.templateEntries t).map (fun e => e.2.names)).flatten

/-- Admission of an export forme raises each slug's count by one (R392); its template is ref, its importer band. -/
def Dev.admitExport (d : Dev) (f : Forme) : Dev :=
  let ns := d.templateSlugs f.ref
  let d := d.each ns Dev.slugTake
  let ss := updIf (fun (x : Span) => x.owner = f.band && x.template = f.ref) (fun x => { x with held := x.held ++ ns }) d.fabric.spans
  { d with fabric := { d.fabric with spans := ss } }

/-! ## Abandonment and refusal (R128, R292) -/

def Dev.dropForme (d : Dev) (id : Nat) : Dev := { d with formes := d.formes.filter (fun f => f.id ≠ id) }

/-- Band slots of a page side: those of one band, or all. -/
def Dev.freeBands (d : Dev) (ring seq : Nat) (band : Option Nat) : Dev :=
  (List.range 4).foldl (fun d ch => d.updChan ch (fun c =>
    { c with slots := c.slots.filter (fun s =>
        !(s.2.1 = ring && s.2.2.1 = seq && (band.isNone || band = some s.2.2.2))) })) d

/-- The formes of a page side that have not committed leave their queues. -/
def Dev.dropPageFormes (d : Dev) (ring seq : Nat) : Dev :=
  let mine (f : Forme) : Bool := (f.kind ≤ 2 || f.kind = 8) && f.pages.contains (ring, seq)
  let ids := (d.formes.filter mine).map (·.id)
  let d := d.each ids Dev.dropEntries
  (({ d with formes := d.formes.filter (fun f => !mine f) }).freeBands ring seq none).closeIdle

/-- A page side receives a bare group with a status in place of what its formes would have given. -/
def Dev.barePage (d : Dev) (p : PageSide) (status : Nat) : Dev := (d.dropPageFormes p.ring p.seq).bareGroup p.ring p.seq status

/-- A sequence ends at once with a status and the text emitted so far. -/
def Dev.endNow (d : Dev) (status : Nat) (i : Nat) : Dev :=
  if d.liveSeqs.contains i then
    let x := kvGet SeqSt.init d.seqs i
    d.endSeq i status x
  else d

/-- The members of a batch whose encoder forme has not been admitted end, when their template cannot be built. -/
def Dev.endWaiting (d : Dev) (t status : Nat) : Dev :=
  let fs := d.formes.filter (fun f => !f.admitted)
  let ms := ((fs.filter (fun f => f.kind = 3)).map d.membersOf).flatten
  let d := d.each (ms.filter (fun m => (textReqOf m.entry).template = t)) (fun d m =>
    match d.page? m.page.ring m.page.seq with
    | some p => d.endRegion p m.region status
    | none => d)
  let is := ((fs.filter (fun f => f.kind = 5)).map (·.seqs)).flatten.filter (fun i => (d.seqEnt i).template = t)
  d.each is (fun d i =>
    let x := kvGet SeqSt.init d.seqs i
    d.endSeq i status { x with text := [], pendingBytes := [], replaced := 0 })

/-- Complete the job entries that wait for a template. -/
def Dev.endTemplateJobs (d : Dev) (t status : Nat) : Dev :=
  let js := d.host.templateJobs.filter (fun j => j.1 = t)
  let d := { d with host := { d.host with templateJobs := d.host.templateJobs.filter (fun j => j.1 ≠ t) } }
  d.each js (fun d j =>
    d.completeEntry j.2.1 j.2.2.1 (if status = 0 then j.2.2.2 else status) (if status = 0 then (d.template t).prefixLen else 0))

/-- With reading stopped no prefix is built: a template in building takes STATE 4 as its abandoned forme leaves it, and the
jobs that wait for it complete with 0330h (R292, R295). -/
def Dev.stopTemplates (d : Dev) : Dev :=
  if d.readingStopped then
    d.each ((List.range 255).filter (fun t => (d.template t).state = 1)) (fun d t =>
      (({ d with formes := d.formes.filter (fun f => !(f.kind = 4 && f.ref = t)) }).evictTemplate t).endTemplateJobs t 0x0330)
  else d

/-- Jobs whose template has reached STATE 2 complete (Table 17-4). -/
def Dev.settleTemplates (d : Dev) : Dev :=
  d.each ((d.host.templateJobs.map (·.1)).filter (fun t => (d.template t).state = 2)) (fun d t => d.endTemplateJobs t 0)

/-- The members of an encoder forme that has no sequences yet end with a status. -/
def Dev.endMembersWith (d : Dev) (f : Forme) (status : Nat) : Dev :=
  d.each (d.membersOf f) (fun d m =>
    match d.page? m.page.ring m.page.seq with
    | some p => d.endRegion p m.region status
    | none => d)

/-- The results that a forme leaves which will not run, by kind: one abandoned, with 0330h (R292), or one refused at
admission, with the status of the refusal. -/
def Dev.leaveKind (d : Dev) (f : Forme) (status : Nat) : Dev :=
  match f.kind, d.pageOf f with
  | 0, some p => d.barePage p status
  | 1, some p => d.barePage p status
  | 2, some p => d.barePage p status
  | 3, _ => ((d.each f.seqs (Dev.endNow · status)).endMembersWith f status).freeBatch f.ref
  | 4, _ => ((d.evictTemplate f.ref).endWaiting f.ref status).endTemplateJobs f.ref status
  | 5, _ => d.each f.seqs (Dev.endNow · status)
  | 8, some p => d.barePage p (if status = 0x0330 then 0x0332 else status)
  | 9, _ => ((d.freeBatch f.ref).runEnds 4).runStatusIs status
  | _, _ => d

/-- Does the active plate set provide slots for a kind of forme (R128; DEDUCED, log entry 149)? Without an imposition in
force nothing is admitted. -/
def Dev.kindProvided (d : Dev) (kind : Nat) : Bool := d.groups.isEmpty || d.groups.any (fun g => g.kind = kind)

/-- A forme whose slot type the active plate set does not provide is refused with 0318h (R128). -/
def Dev.refuseForme (d : Dev) (f : Forme) (status : Nat) : Dev := ((d.dropForme f.id).dropEntries f.id).leaveKind f status

/-! ## Admission (R282) -/

/-- Take every reservation of a forme. -/
def Dev.tryAdmit (d : Dev) (f : Forme) : Option Dev :=
  match f.kind with
  | 0 => match d.pageOf f with | some p => d.admitBand f p | none => none
  | 1 => match d.pageOf f with | some p => d.admitFinish p | none => none
  | 2 => match d.pageOf f with | some p => d.admitGeometry f p | none => none
  | 3 => d.admitEncoder f
  | 4 => d.admitPrefix f
  | 5 => d.admitRecompute f
  | 6 => some (d.admitExport f)
  | 8 => match d.pageOf f with | some p => d.admitStructuring p | none => none
  | _ => some d

/-- A page side waits for ring space, and with it those behind it on its ring (R25). -/
def markWaited (ring seq : Nat) : Bool → List PageSide → List PageSide
  | _, [] => []
  | seen, p :: r =>
    let seen := seen || p.is ring seq
    (if seen && p.ring = ring then { p with waited := true } else p) :: markWaited ring seq seen r

/-- The first failed try of a forme: counted once, and a structuring forme's page side has waited (R25). -/
def Dev.noteWait (d : Dev) (f : Forme) : Dev :=
  let d := if f.waited then d else (d.updForme f.id (fun f => { f with waited := true })).bump 0x2100_06
  match f.kind, d.pageOf f with
  | 8, some p => { d with pages := markWaited p.ring p.seq false d.pages }
  | _, _ => d

/-- Does a recompute forme's sequence still wait for it, in STATE 4 or 5 (R232)? -/
def Dev.recomputeWanted (d : Dev) (f : Forme) : Bool := f.seqs.all (fun i => (d.seqEnt i).state = 4 || (d.seqEnt i).state = 5)

/-- Take a forme's reservations, or let it wait. -/
def Dev.admitOrWait (d : Dev) (f : Forme) : Dev :=
  let d := d.wakeTemplates f
  match d.tryAdmit f with
  | some e => (e.updForme f.id (fun f => { f with admitted := true })).bump 0x2100_02
  | none => d.noteWait f

/-- Try an encoder forme: refused whole where a walk order is too long (R221), and gone where it has no member left to
read. -/
def Dev.admitReading (d : Dev) (f : Forme) : Dev :=
  if d.formeTooLong (d.membersOf f) then (d.slugStatus 0x0901 0).refuseForme f 0x0901
  else
    let d := d.endMembers f
    if (d.membersOf f).isEmpty then ((d.dropForme f.id).dropEntries f.id).freeBatch f.ref else d.admitOrWait f

/-- Try one forme. -/
def Dev.admitOne (d : Dev) (id : Nat) : Dev :=
  match d.forme? id with
  | none => d
  | some f =>
    if f.admitted || !d.eligible f then d
    else if f.kind = 5 && !d.recomputeWanted f then d.dropForme id
    else if !d.kindProvided f.kind then d.refuseForme f 0x0318
    else if f.kind = 3 then d.admitReading f
    else d.admitOrWait f

/-- Try every queue in the order of R283; none while reading has stopped (R295). -/
def Dev.admitAll (d : Dev) : Dev :=
  if d.readingStopped ∨ d.stage ≠ 3 then d
  else queueOrder.foldl (fun d k => (d.queueOf k).foldl (fun d f => d.admitOne f.id) d) d

/-- What follows every change: decodes that wait for space, admission, rings, feeder inhibit. -/
def Dev.settle (d : Dev) : Dev := (d.retryImages.admitAll.settleRings).fiAll

end Sys2Proof.Machine
end

