-- ==== Sys2Proof/Machine/Fabric.lean ====
section
/-! DEFINITION. The Neine fabric (R99, R100, R235, R376 to R394): ports and links, routes, remote writes, windows and
grants, template import and export, adapter import. -/

namespace Sys2Proof.Machine

/-! ## Addresses and routes (R42, R379 to R381) -/

def Dev.here (d : Dev) : Nat := d.rd 0x4200_01
def Dev.sizeX (d : Dev) : Nat := d.rd 0x4200_02
def Dev.sizeY (d : Dev) : Nat := d.rd 0x4200_03

def posX (a : Nat) : Nat := a / 16 % 16
def posY (a : Nat) : Nat := a % 16
def devAt (x y : Nat) : Nat := 16 * x + y

/-- Does a loopback run on a target (Table 21-2)? -/
def Dev.looped (d : Dev) (t : Nat) : Bool := d.test.loops.any (fun l => l.2.target = t)

/-- The neighbour of a device at a port: FP0 north, FP1 east, FP2 south, FP3 west. -/
def Dev.neighbourOf (d : Dev) (a port : Nat) : Nat :=
  let x := posX a
  let y := posY a
  match port with
  | 0 => devAt x ((y + d.sizeY - 1) % d.sizeY)
  | 1 => devAt ((x + 1) % d.sizeX) y
  | 2 => devAt x ((y + 1) % d.sizeY)
  | _ => devAt ((x + d.sizeX - 1) % d.sizeX) y

/-- The neighbour of this device at a port. -/
def Dev.neighbourAt (d : Dev) (port : Nat) : Nat := d.neighbourOf d.here port

/-- The port by which a packet leaves a device for another (R379), first in x, then in y; none at its destination. -/
def Dev.routeFrom (d : Dev) (a dest : Nat) : Option Nat :=
  let dx := (posX dest + d.sizeX - posX a) % d.sizeX
  let dy := (posY dest + d.sizeY - posY a) % d.sizeY
  if dx ≠ 0 then some (if dx ≤ d.sizeX - dx then 1 else 3)
  else if dy ≠ 0 then some (if dy ≤ d.sizeY - dy then 2 else 0)
  else none

/-- The port by which a packet leaves this device. -/
def Dev.routePort (d : Dev) (dest : Nat) : Option Nat := d.routeFrom d.here dest

/-- Does the way from a device to another lead over a third, the last one included? -/
def Dev.onWay (d : Dev) (dest via : Nat) : Nat → Nat → Bool
  | 0, _ => false
  | fuel + 1, a =>
    match d.routeFrom a dest with
    | none => false
    | some port => d.neighbourOf a port = via || d.onWay dest via fuel (d.neighbourOf a port)

/-- The longest route in hops (R379). -/
def longestRoute : Nat := 16

def portIx (port : Nat) : Nat := 0x4220 + port

/-- STATE of a port: 0 disabled, 1 training, 2 up, 3 down, 4 neighbour mismatch. -/
def Dev.portState (d : Dev) (port : Nat) : Nat := d.rd (dkey (portIx port) 1)

def Dev.port (d : Dev) (port : Nat) : PortSt := kvGet PortSt.init d.fabric.ports port

def Dev.setPort (d : Dev) (port : Nat) (p : PortSt) : Dev :=
  { d with fabric := { d.fabric with ports := kvPut PortSt.init d.fabric.ports port p } }

/-- The first port of the route, if the destination lies in the system and that port is up (R381). -/
def Dev.outPort (d : Dev) (dest : Nat) : Option Nat :=
  if posX dest < d.sizeX ∧ posY dest < d.sizeY then (d.routePort dest).filter (fun p => d.portState p = 2) else none

/-- Is leaving by a port the step over the wrap link of its dimension (R380)? -/
def Dev.wraps (d : Dev) (port : Nat) : Bool :=
  match port with
  | 0 => posY d.here = 0
  | 1 => posX d.here + 1 = d.sizeX
  | 2 => posY d.here + 1 = d.sizeY
  | _ => posX d.here = 0

/-- Dateline class of a packet that leaves by a port, having come by another or from here. -/
def Dev.outClass (d : Dev) (came : Option Nat) (port cls : Nat) : Nat :=
  if d.wraps port then 1
  else match came with
    | some q => if q % 2 = port % 2 then cls else 0
    | none => 0

/-! ## Packets (Tables 19-2, 19-3) -/

structure Hdr where
  dest : Nat
  source : Nat
  ty : Nat
  vc : Nat
  cls : Nat
  words : Nat
  window : Nat
  offset : Nat
  era : Nat
  status : Nat
  seq : Nat
  ack : Nat
  deriving DecidableEq, Repr

def hdrOf (w : Nat) : Hdr :=
  { dest := bits w 127 120, source := bits w 119 112, ty := bits w 111 108, vc := bits w 107 106, cls := bits w 105 105,
    words := bits w 104 102, window := bits w 101 94, offset := bits w 93 60, era := bits w 59 44, status := bits w 43 28,
    seq := bits w 27 16, ack := bits w 15 4 }

def Hdr.word (h : Hdr) : Nat :=
  packFields [(0, 4), (h.ack, 12), (h.seq, 12), (h.status, 16), (h.era, 16), (h.offset, 34), (h.window, 8), (h.words, 3),
    (h.cls, 1), (h.vc, 2), (h.ty, 4), (h.source, 8), (h.dest, 8)]

/-- Virtual channel of a packet type (Table 19-3). -/
def typeVc (ty : Nat) : Nat := if ty = 0 then 3 else if ty = 1 then 0 else if ty = 2 ∨ ty = 7 then 2 else 1

/-- A packet from here. -/
def Dev.packet (d : Dev) (ty dest window offset era status : Nat) (payload : List Nat) : PacketIn :=
  ⟨Hdr.word ⟨dest, d.here, ty, typeVc ty, 0, payload.length, window, offset, era, status, 0, 0⟩, payload⟩

/-- Buffer slots per port input and dateline class (Table 19-4). -/
def vcSlots (vc : Nat) : Nat := if vc = 1 then 8 else 32

def Dev.fabStatus (d : Dev) (status : Nat) : Dev := d.wr 0x4210_08 status

/-! ## Links (R382, R383) -/

/-- A LINK packet: credits by 2 · VC + dateline class, and a status. -/
def Dev.sendLink (d : Dev) (port : Nat) (credits : Kv Nat) (status : Nat) : Dev :=
  if d.portState port ≠ 2 then d
  else
    let c := packFields ((List.range 6).map (fun k => (kvGet 0 credits k, 4)))
    let p := d.port port
    let h : Hdr := ⟨d.neighbourAt port, d.here, 0, 3, 0, 0, c / 2 ^ 16, c % 2 ^ 16 * 2 ^ 18, 0, status, p.nextSeq, p.lastRx⟩
    d.emit (.packet port h.word [])

/-- An input buffer slot is free again: its credit returns to the neighbour. -/
def Dev.freeCredit (d : Dev) (code : Nat) : Dev :=
  if code = 0 then d else d.sendLink ((code - 1) / 8) [((code - 1) % 8, 1)] 0

/-- A packet leaves a port: it takes the next LINK_SEQ and a place in the replay buffer of 64. -/
def Dev.transmit (d : Dev) (port : Nat) (pk : PacketIn) (k : Nat) : Dev :=
  let p := d.port port
  let h := { hdrOf pk.header with seq := p.nextSeq, ack := p.lastRx }
  let q : PacketIn := ⟨h.word, pk.payload⟩
  let sent := p.sent ++ [(p.nextSeq, q)]
  let p := { p with nextSeq := (p.nextSeq + 1) % 4096, sent := sent.drop (sent.length - 64),
                    used := kvPut 0 p.used k (kvGet 0 p.used k + 1) }
  ((d.setPort port p).bump (dkey (portIx port) 8)).emit (.packet port q.header q.payload)

/-- Class of a packet's buffer: 2 · VC + dateline class. -/
def bufClass (pk : PacketIn) : Nat := 2 * (hdrOf pk.header).vc + (hdrOf pk.header).cls

/-- A packet goes to a port with its class set: it leaves if a credit is held, and waits in order if not. -/
def Dev.sendOn (d : Dev) (port : Nat) (pk : PacketIn) (code : Nat) : Dev :=
  let p := d.port port
  let k := bufClass pk
  if kvGet 0 p.used k < vcSlots (k / 2) ∧ p.waiting.all (fun w => bufClass w.1 ≠ k) then (d.transmit port pk k).freeCredit code
  else d.setPort port { p with waiting := p.waiting ++ [(pk, code)] }

/-- Packets that waited try again, in order. -/
def Dev.drainPort (d : Dev) (port : Nat) : Dev :=
  let ws := (d.port port).waiting
  (d.setPort port { d.port port with waiting := [] }).each ws (fun d w => d.sendOn port w.1 w.2)

/-- A packet of this device enters the fabric; with no route it is lost. -/
def Dev.inject (d : Dev) (pk : PacketIn) : Dev :=
  let h := hdrOf pk.header
  match d.outPort h.dest with
  | some port => d.sendOn port ⟨Hdr.word { h with cls := d.outClass none port 0 }, pk.payload⟩ 0
  | none => d

/-- A port goes down (R383): what its replay buffer held, and what waited for it, is lost. -/
def Dev.portDown (d : Dev) (port : Nat) : Dev :=
  if d.portState port ≠ 2 then d
  else
    let codes := (d.port port).waiting.map (·.2)
    let d := ((d.wr (dkey (portIx port) 1) 3).setPort port PortSt.init).bump (dkey (portIx port) 7)
    let d := ((d.setReady (29 + port) false).fabStatus 0x0607).event 0x0607 0
    d.each codes Dev.freeCredit

/-- The sender resends what follows ACK_SEQ; more than RETRY_LIMIT replays in 1 ms take the port down. -/
def Dev.replay (d : Dev) (port ack : Nat) : Dev :=
  let p := d.port port
  let d := d.bump (dkey (portIx port) 6)
  let ts := d.now :: p.replays.filter (fun t => d.now < t + 1000000)
  if ts.length > d.rd 0x4202_01 then d.portDown port
  else
    let later := match p.sent.findIdx? (fun e => e.1 = ack) with
      | some i => p.sent.drop (i + 1)
      | none => p.sent
    (d.setPort port { p with replays := ts }).each later (fun d e =>
      d.emit (.packet port (Hdr.word { hdrOf e.2.header with ack := p.lastRx }) e.2.payload))

/-- A receiver discards a packet and all later ones and asks for a replay. -/
def Dev.askReplay (d : Dev) (port : Nat) : Dev := (d.setPort port { d.port port with dropping := true }).sendLink port [] 1

/-- A CRC mismatch: counted, and the packet discarded. -/
def fabricCrcMismatch (port : Nat) (d : Dev) : Dev :=
  if d.portState port ≠ 2 then d else (d.bump (dkey (portIx port) 5)).askReplay port

/-- A packet comes in by a port: in LINK_SEQ order it is taken, a reserved type dropped, out of order a replay asked for; f says
what the packet does, once its buffer slot is free. -/
def Dev.receive (d : Dev) (port : Nat) (pk : PacketIn) (ok : Hdr → Bool) (f : Dev → Hdr → Dev) : Dev :=
  let h := hdrOf pk.header
  let p := d.port port
  if d.portState port ≠ 2 then d
  else if h.seq ≠ (p.lastRx + 1) % 4096 then (if p.dropping then d else d.askReplay port)
  else
    let d := (d.setPort port { p with lastRx := h.seq, dropping := false }).bump (dkey (portIx port) 9)
    if h.ty ≥ 8 then (d.bump 0x4210_07).freeCredit (1 + 8 * port + 2 * h.vc + h.cls)
    else if ok h then f d h
    else d.freeCredit (1 + 8 * port + 2 * h.vc + h.cls)

/-- A packet for this device: its slot is free as soon as it is taken. -/
def Dev.receiveHere (d : Dev) (port : Nat) (pk : PacketIn) (ty : Nat) (f : Dev → Hdr → Dev) : Dev :=
  d.receive port pk (fun h => h.ty = ty && h.dest = d.here)
    (fun d h => f (d.freeCredit (1 + 8 * port + 2 * h.vc + h.cls)) h)

/-- A LINK packet: credits return, and a replay request is met. -/
def fabricLinkReceived (port : Nat) (pk : PacketIn) (d : Dev) : Dev :=
  let h := hdrOf pk.header
  if d.portState port ≠ 2 ∨ h.ty ≠ 0 then d
  else
    let c := h.window * 2 ^ 16 + h.offset / 2 ^ 18
    let p := d.port port
    let used := (List.range 6).foldl (fun m k => kvPut 0 m k (kvGet 0 p.used k - c / 16 ^ k % 16)) p.used
    let d := (d.setPort port { p with used := used }).drainPort port
    if h.status = 1 then d.replay port h.ack else d

/-! ## Answers -/

/-- A response to a request: it echoes WINDOW, WORD_OFFSET and INSTANCE. -/
def Dev.respond (d : Dev) (h : Hdr) (status : Nat) : Dev :=
  d.inject (d.packet (if h.ty = 1 then 2 else 7) h.source h.window h.offset h.era status [])

/-- A packet of another device passes on (R379 to R381); with no way onward it is answered in its destination's place. -/
def fabricPacketForward (port : Nat) (pk : PacketIn) (d : Dev) : Dev :=
  d.receive port pk (fun h => h.ty ≠ 0 && h.dest ≠ d.here) (fun d h =>
    let code := 1 + 8 * port + 2 * h.vc + h.cls
    match d.outPort h.dest with
    | some q => d.sendOn q ⟨Hdr.word { h with cls := d.outClass (some port) q h.cls }, pk.payload⟩ code
    | none =>
      let d := d.freeCredit code
      if h.ty = 2 ∨ h.ty = 7 then d else d.respond h 0x0603)

/-! ## The outstanding table (R382, R386) -/

/-- Enter a packet in the table and send it. -/
def Dev.launchPacket (d : Dev) (o : Outstanding) (pk : PacketIn) : Dev :=
  let o := { o with tag := d.fabric.nextTag, due := d.now + d.rdp 0x4202_03 * 1000 }
  ({ d with fabric := { d.fabric with outstanding := d.fabric.outstanding ++ [o], nextTag := d.fabric.nextTag + 1 } }).inject pk

/-- Send a request once the table has an entry for it. -/
def Dev.request (d : Dev) (o : Outstanding) (pk : PacketIn) : Dev :=
  if d.fabric.outstanding.length < 2048 ∧ d.fabric.backlog.isEmpty then d.launchPacket o pk
  else { d with fabric := { d.fabric with backlog := d.fabric.backlog ++ [(o, pk)] } }

/-- A packet of the backlog whose route has gone is answered here (R381). -/
def Dev.keepUnreached (d : Dev) (o : Outstanding) : Dev :=
  { d with fabric := { d.fabric with unreached := d.fabric.unreached ++ [{ o with tag := d.fabric.nextTag }],
                                     nextTag := d.fabric.nextTag + 1 } }

/-- Entries have come free: packets that waited for them leave, or find no way out. -/
def Dev.drainBacklog : Nat → Dev → Dev
  | 0, d => d
  | fuel + 1, d =>
    match d.fabric.backlog with
    | [] => d
    | b :: r =>
      if d.fabric.outstanding.length < 2048 then
        let e : Dev := { d with fabric := { d.fabric with backlog := r } }
        (if (e.outPort b.1.dest).isSome then e.launchPacket b.1 b.2 else e.keepUnreached b.1).drainBacklog fuel
      else d

/-- An entry leaves the table. -/
def Dev.freeEntry (d : Dev) (tag : Nat) : Dev :=
  let d := { d with fabric := { d.fabric with outstanding := d.fabric.outstanding.filter (fun o => o.tag ≠ tag) } }
  d.drainBacklog (d.fabric.backlog.length)

/-- A management message; with no route it is answered here (R381), which the caller sees to. -/
def Dev.sendMgmt (d : Dev) (ty dest window offset era : Nat) (payload : List Nat) : Dev :=
  if (d.outPort dest).isSome then
    d.request ⟨0, ty, dest, window, offset, payload.length, era, 96, 0, 0, 0, 0⟩ (d.packet ty dest window offset era 0 payload)
  else d.fabStatus 0x0603

/-! ## Remote writes (R384, R385, R389) -/

/-- The live grant of a (DEVICE, WINDOW). -/
def Dev.grantOf (d : Dev) (owner window : Nat) : Option Grant :=
  d.fabric.grants.find? (fun g => g.owner = owner && g.window = window && !g.dead)

def Dev.updGrant (d : Dev) (owner window : Nat) (f : Grant → Grant) : Dev :=
  { d with fabric := { d.fabric with
      grants := updIf (fun (g : Grant) => g.owner = owner && g.window = window) f d.fabric.grants } }

def grantEra (w : Nat) : Nat := bits w 479 448

/-- A remote write ends once nothing of it is outstanding: its tag completes, and PUBLISH publishes unless its forme has
faulted. -/
def Dev.finishRemote (d : Dev) (core ctag forme : Nat) : Dev :=
  if (d.fabric.outstanding ++ d.fabric.unreached ++ d.fabric.backlog.map (·.1)).any
      (fun o => o.core = core && o.ctag = ctag && o.ty = 1) then d
  else if h : core < 96 then
    let x := d.core ⟨core, h⟩
    match x.tags.find? (fun t => t.1 = ctag && t.2.op = 5 && t.2.forme = forme) with
    | none => d
    | some t =>
      let d := d.setCore ⟨core, h⟩ { x with tags := kvErase x.tags ctag }
      let bad := match d.forme? forme with | some f => f.fault ≠ 0 | none => true
      if t.2.publish && !bad then d.publishFill t.2.pubSlot t.2.pubEpoch else d
  else d

/-- Words of a remote write that fail: the forme restarts with the status, charged to its plate (Table 14-6). -/
def Dev.remoteFault (d : Dev) (core plate forme status : Nat) : Dev :=
  ((d.fabStatus status).faultForme forme status).charge status 1 plate (core / 16)

/-- The words of a transfer's rows with their word offsets in the window. -/
def Dev.remoteWords (d : Dev) (y : Desc) : List (Nat × Nat) :=
  let off := bits y.dst 39 0
  ((List.range y.rows).map (fun r => (List.range ((y.length + 63) / 64)).map (fun i =>
    (off / 64 + r * y.dstPitch + i, d.word (y.src + r * y.srcPitch * 64 + 64 * i))))).flatten

/-- Pack consecutive words into packets of up to four. -/
def packWords : List (Nat × Nat) → List (Nat × List Nat) → List (Nat × List Nat)
  | [], acc => acc.reverse
  | (o, w) :: r, (p, ws) :: acc =>
    if o = p + ws.length ∧ ws.length < 4 then packWords r ((p, ws ++ [w]) :: acc) else packWords r ((o, [w]) :: (p, ws) :: acc)
  | (o, w) :: r, [] => packWords r [(o, [w])]

/-- Send packets to an instance; n is the place of the next word among those issued to it. -/
def Dev.sendPackets (core ctag forme : Nat) (g : Grant) : Nat → List (Nat × List Nat) → Dev → Dev
  | _, [], d => d
  | n, p :: r, d =>
    Dev.sendPackets core ctag forme g (n + p.2.length) r
      (d.request ⟨0, 1, g.owner, g.window, p.1, p.2.length, grantEra g.word, core, ctag, forme, 0, n⟩
        (d.packet 1 g.owner g.window p.1 (grantEra g.word) 0 p.2))

/-- Words of an instance are acknowledged: ACKED is the first of them in issue order without a gap (R389). -/
def Grant.advance : Nat → Grant → Grant
  | 0, g => g
  | fuel + 1, g =>
    match g.ahead.find? (fun a => a.1 ≤ g.acked) with
    | some a => Grant.advance fuel { g with acked := max g.acked (a.1 + a.2), ahead := g.ahead.filter (fun b => b ≠ a) }
    | none => g

def Grant.ack (g : Grant) (place n : Nat) : Grant :=
  Grant.advance (g.ahead.length + 1) { g with ahead := g.ahead ++ [(place, n)] }

/-- Send the words of a transfer under a grant, but for those that the instance has acknowledged before (R389). -/
def Dev.sendWords (d : Dev) (core : Fin 96) (ctag forme : Nat) (g : Grant) (ws : List (Nat × Nat)) : Dev :=
  let skip := min ws.length (g.acked - g.issued)
  let d := d.updGrant g.owner g.window (fun g => { g with issued := g.issued + ws.length })
  let d := d.bumpBy 0x4210_06 skip
  (Dev.sendPackets core.val ctag forme g (g.issued + skip) (packWords (ws.drop skip) []) d).finishRemote core.val ctag forme

/-- D_OP 5 (R384, R385): words into another device's window under a live grant; without one 0605h, without a route
0603h. -/
def remoteWriteMove (d : Dev) (c : Fin 96) (_x : CoreSt) (l : Launch) (t : Xfer) : Dev :=
  let y := descOf l.word
  let owner := bits y.dst 55 48
  let window := bits y.dst 47 40
  let n := spanOf y.rows y.length y.srcPitch
  if d.reachStatus y.src n ≠ 0 then d.refuseTransfer c t (d.reachStatus y.src n)
  else
    let ws := (d.remoteWords y).filter (fun w => 2 ^ 34 * bits y.dst 63 40 + w.1 ∉ l.dropped)
    let d := d.each (wordsOf y.src n) (fun d w => d.readCheck 5 w)
    if ws.isEmpty then d.finishRemote c.val l.tag t.forme
    else match d.grantOf owner window with
      | none => (d.remoteFault c.val t.plate t.forme 0x0605).finishRemote c.val l.tag t.forme
      | some g =>
        if (d.outPort owner).isSome then d.sendWords c l.tag t.forme g ws
        else (d.remoteFault c.val t.plate t.forme 0x0603).finishRemote c.val l.tag t.forme

/-- Plate of a core's outstanding transfer. -/
def Dev.transferPlate (d : Dev) (o : Outstanding) : Nat :=
  if h : o.core < 96 then
    match (d.core ⟨o.core, h⟩).tags.find? (fun t => t.1 = o.ctag) with
    | some t => t.2.plate
    | none => 0
  else 0

/-- The words of one packet are answered (R385, R389). -/
def Dev.answerWrite (d : Dev) (o : Outstanding) (status : Nat) : Dev :=
  let plate := d.transferPlate o
  let d := d.freeEntry o.tag
  let d := if status = 0 then
      d.updGrant o.dest o.window (fun g => if grantEra g.word = o.era then g.ack o.place o.words else g)
    else d.remoteFault o.core plate o.forme status
  d.finishRemote o.core o.ctag o.forme

/-- The entry that a response answers: the oldest that it echoes, of a packet to its sender, or for 0603h to a destination
whose way leads over its sender (R381). -/
def Dev.answered (d : Dev) (h : Hdr) (write : Bool) : Option Outstanding :=
  d.fabric.outstanding.find? (fun o => (o.ty = 1) == write && o.window = h.window && o.offset = h.offset && o.era = h.era &&
    (o.dest = h.source || (h.status = 0x0603 && d.onWay o.dest h.source longestRoute d.here)))

/-! ## Windows at their owner (R99, R100, R388 to R391) -/

def Dev.window (d : Dev) (n : Nat) : Window := kvGet Window.init d.fabric.windows n

/-- Change a window; WINDOWS_OPEN counts those that are open. -/
def Dev.setWindow (d : Dev) (n : Nat) (w : Window) : Dev :=
  let d := { d with fabric := { d.fabric with windows := kvPut Window.init d.fabric.windows n w } }
  d.wr 0x4210_01 ((d.fabric.windows.filter (fun e => e.2.isOpen)).length)

/-- A WRITE at its target (R99, R385): 0402h for a window closed, of another instance or of another source, 0403h beyond
SIZE; else its words are written and counted (R100). -/
def Dev.windowWrite (d : Dev) (h : Hdr) (ws : List Nat) : Dev :=
  let w := d.window h.window
  if !w.isOpen ∨ w.era ≠ h.era ∨ (!w.anySource ∧ w.source ≠ h.source) then (d.bump 0x2306_02).respond h 0x0402
  else if 64 * (h.offset + ws.length) > w.size then (d.bump 0x2306_03).respond h 0x0403
  else
    let d := d.each ws.zipIdx (fun d e => d.putWord (w.base + 64 * (h.offset + e.2)) e.1)
    (d.setWindow h.window { w with quoin := (w.quoin + ws.length) % 2 ^ 32 }).respond h 0

def fabricWriteReceived (port : Nat) (pk : PacketIn) (d : Dev) : Dev :=
  d.receiveHere port pk 1 (fun d h => d.windowWrite h pk.payload)

/-- The word of a GRANT or CLOSE (Table 19-5). -/
def grantWord (era words slotBytes prefixLen setId version template window reason part cls : Nat) : Nat :=
  packFields [(0, 168), (cls, 3), (part, 1), (reason, 4), (window, 8), (template, 8), (version, 32), (setId, 32),
    (pairOf prefixLen, 64), (pairOf slotBytes, 64), (pairOf words, 64), (pairOf era, 64)]

def grantWordOk (w : Nat) : Bool := pairsOk w [448, 384, 320, 256]

def grantWords (w : Nat) : Nat := bits w 415 384

/-- Has the window the words that complete its instance? -/
def Window.full (w : Window) : Bool := w.quoin ≥ grantWords w.grant

/-- Windows of a template's import. -/
def Dev.windowsOf (d : Dev) (t : Nat) : List (Nat × Window) := d.fabric.windows.filter (fun e => e.2.template = t)

def Dev.importOf (d : Dev) (t : Nat) : Option Import := d.fabric.imports.find? (fun i => i.template = t)

/-- A window is closed at its owner. -/
def Dev.closeWindow (d : Dev) (n : Nat) : Dev := d.setWindow n { d.window n with isOpen := false }

/-- CLOSE an instance, which the owner has closed before. -/
def Dev.sendClose (d : Dev) (n reason : Nat) : Dev :=
  let w := d.window n
  d.sendMgmt 4 w.source n 0 w.era [w.grant + reason * 2 ^ 172]

/-- Blocks of a prefix, and those of them that are sealed (R218). -/
def prefixBlocks (tokens p : Nat) : Nat := if tokens = 0 then 0 else (p + tokens - 1) / tokens
def sealedBlocks (c : SlugClass) (p : Nat) : Nat :=
  if c.narrow then ((List.range (prefixBlocks c.tokens p)).filter (fun j => c.tokens * (j + 1) < p)).length else 0

/-- Slugs of a part of an import (Table 19-5): layer and block, in ascending layer and then block. -/
def Dev.partSlugs (d : Dev) (im : Import) (part : Nat) : List (Nat × Nat) :=
  let c := d.slugClass im.cls
  let s := sealedBlocks c im.prefixLen
  let js := if part = 1 then List.range s else (List.range (prefixBlocks c.tokens im.prefixLen)).filter (fun j => s ≤ j)
  ((List.range c.layers).map (fun l => js.map (fun j => (l, j)))).flatten

/-- Words of the form of a part's slugs. -/
def Dev.partWords (d : Dev) (im : Import) (part : Nat) : Nat :=
  let c := d.slugClass im.cls
  (if part = 1 then c.sealedBytes else c.openBytes) / 64

/-- A contiguous run of free slots within one die's share (R391), the lowest. -/
def Dev.slotRun (d : Dev) (pool n : Nat) : Option (List Nat) :=
  let used := d.slotsUsed pool
  let free (l : Nat) : Bool := !used.contains l && d.slotUsable pool l
  let die (l : Nat) : Nat := match d.slotFrom pool 6 l with | some p => p.1 | none => 6
  ((List.range (d.poolSlots pool)).find? (fun l =>
    l + n ≤ d.poolSlots pool && die l = die (l + n - 1) && (List.range n).all (fun i => free (l + i)))).map
      (fun l => (List.range n).map (· + l))

/-- The next instance of a window number (R387). -/
def nextEra (e : Nat) : Nat := if (e + 1) % 65536 = 0 then 1 else (e + 1) % 65536

/-- Open a window over a run as a new instance, QUOIN 0, and grant it (R388, R391). -/
def Dev.openAndGrant (d : Dev) (im : Import) (n part : Nat) (locs : List Nat) : Dev :=
  let w := d.window n
  let base := ((locs.head?).bind (d.slotAddr part)).getD 0
  let e := nextEra w.era
  let g := grantWord e ((d.partSlugs im part).length * d.partWords im part) (d.slotSize part) im.prefixLen d.activeSetId
    (d.rd 0x3E12_05) im.template n 0 part im.cls
  let w := { w with base := base, size := locs.length * d.slotSize part, quoin := 0, source := im.source, anySource := false,
                    isOpen := true, era := e, grant := g, grants := w.grants + 1, granted := d.now, template := im.template,
                    pool := part, locs := locs }
  ((d.setWindow n w).bump 0x4210_02).sendMgmt 3 im.source n 0 e [g]

/-- The lowest window number that is closed and serves no import. -/
def Dev.freeWindow (d : Dev) : Option Nat :=
  (List.range 256).find? (fun n => !(d.window n).isOpen && (d.window n).template = 255)

/-- Open the window of one part of an import; none where a run or a window number is missing. -/
def Dev.openPart (d : Dev) (im : Import) (part : Nat) : Option Dev :=
  let n := (d.partSlugs im part).length
  if n = 0 then some d
  else match d.slotRun part n, d.freeWindow with
    | some locs, some w => some ((d.setWindow w { d.window w with grants := 0 }).openAndGrant im w part locs)
    | _, _ => none

/-- Both parts, the sealed run first, and the template's page list. -/
def Dev.openImport (d : Dev) (im : Import) : Option Dev :=
  match (d.newList (d.templateWords { d.template im.template with prefixLen := im.prefixLen, cls := im.cls })) with
  | none => none
  | some l =>
    match l.2.openPart im 1 with
    | none => none
    | some e => (e.openPart im 0).map (fun d =>
      let d := { d with fabric := { d.fabric with
        imports := updIf (fun i => i.template = im.template) (fun i => { i with opened := true }) d.fabric.imports } }
      d.putTemplate im.template { d.template im.template with
        list := l.1, prefixLen := im.prefixLen, state := 3, source := im.source, cls := im.cls, users := 0,
        window := ((d.windowsOf im.template).head?.map (·.1)).getD 0 })

/-- An import ends without its slugs (R235): windows closed with a REASON, status 0908h, and the template is built here. -/
def Dev.endImport (d : Dev) (t reason : Nat) : Dev :=
  match d.importOf t with
  | none => d
  | some im =>
    let d := d.each (d.windowsOf t) (fun d e =>
      let wasOpen := (d.window e.1).isOpen
      let d := d.closeWindow e.1
      let d := if wasOpen then d.sendClose e.1 reason else d
      d.setWindow e.1 { d.window e.1 with locs := [], template := 255, grants := 0 })
    let list := (d.template t).list
    let d := { d with fabric := { d.fabric with imports := d.fabric.imports.filter (fun i => i.template ≠ t) },
                      slug := { d.slug with lists := d.slug.lists.filter (fun l => l.1 ≠ list) } }
    let d := d.slugStatus 0x0908 0
    let d := d.putTemplate t { d.template t with list := 0, state := 4, prefixLen := im.prefixLen, cls := im.cls }
    d.buildTemplate t

/-- Does every window of the import have a way to its builder? -/
def Dev.importRoute (d : Dev) (im : Import) : Bool := (d.outPort im.source).isSome

/-- Start an import that is held: as soon as its runs can be reserved (R391). A builder that cannot be reached ends it. -/
def Dev.tryImport (d : Dev) (im : Import) : Dev :=
  if im.opened then d
  else match d.openImport im with
    | none => d
    | some e => if d.importRoute im then e else e.endImport im.template 2

/-- Try every held import. -/
def Dev.tryImports (d : Dev) : Dev := d.each d.fabric.imports Dev.tryImport

/-- A new import (R351, R391). -/
def Dev.startImport (d : Dev) (t source prefixLen cls : Nat) : Dev :=
  let im : Import := ⟨t, source, prefixLen, cls, false⟩
  Dev.tryImports { d with fabric := { d.fabric with imports := d.fabric.imports ++ [im] } }

/-- Open a window again over a run and grant it; a GRANT that finds no route is refused here (R381), which ends the
import. -/
def Dev.grantAgain (d : Dev) (im : Import) (n part : Nat) (locs : List Nat) : Dev :=
  let e := d.openAndGrant im n part locs
  if d.importRoute im then e else e.endImport im.template 2

/-- Grant a window again over a run, or leave it for a later frame start. -/
def Dev.regrant (d : Dev) (n : Nat) : Dev :=
  let w := d.window n
  match d.importOf w.template with
  | none => d
  | some im =>
    if !w.locs.isEmpty then d.grantAgain im n w.pool w.locs
    else match d.slotRun w.pool (d.partSlugs im w.pool).length with
      | some locs => d.grantAgain im n w.pool locs
      | none => d

/-- An instance is revoked (R390): granted again, up to GRANT_LIMIT grants in all; beyond that the span is abandoned. -/
def Dev.revoke (d : Dev) (n : Nat) (dropRun : Bool) : Dev :=
  let w := d.window n
  let d := ((d.bump 0x4210_04).fabStatus 0x0605).closeWindow n
  if w.grants < d.rd 0x4203_02 then
    let d := d.sendClose n 1
    let d := if dropRun then d.setWindow n { d.window n with locs := [] } else d
    d.regrant n
  else
    let d := d.sendClose n 3
    ((d.fabStatus 0x0606).event 0x0606 0).endImport w.template 3

/-- WINDOW_DEADLINE_MS after a GRANT its QUOIN has not reached WORDS. -/
def windowDeadline (n : Nat) (d : Dev) : Dev :=
  let w := d.window n
  if w.isOpen ∧ w.template ≠ 255 ∧ !w.full then d.revoke n false else d

/-- A switch leaves out the die that holds the window (R390). -/
def Dev.revokeDie (d : Dev) (die : Nat) : Dev :=
  d.each ((d.fabric.windows.filter (fun e => e.2.isOpen && e.2.template ≠ 255 && e.2.base / dieBytes = die)).map (·.1))
    (fun d n => d.revoke n true)

/-- Put the slugs of one part in place (R235, R391). -/
def Dev.installPart (d : Dev) (im : Import) (w : Window) : Dev :=
  let c := d.slugClass im.cls
  let x := d.template im.template
  d.each ((d.partSlugs im w.pool).zip w.locs) (fun d e =>
    match d.freeSlugNo with
    | none => d
    | some n =>
      let fill := min c.tokens (im.prefixLen - c.tokens * e.1.2)
      (d.putSlug n ⟨e.2, 1, 0, fill, im.cls, w.pool, 1, true⟩).putEntry (entryAddr x.list (d.templateWpl x) e.1.1 e.1.2) ⟨n, true, 0, 0⟩)

/-- Has the importer's plate set or adapter changed since it granted a window (R235)? -/
def Dev.grantStale (d : Dev) (w : Window) : Bool :=
  w.isOpen && (bits w.grant 255 224 ≠ d.activeSetId || bits w.grant 223 192 ≠ d.rd 0x3E12_05)

/-- An import whose windows are all complete is installed in the lead-in: its windows close, REASON 0. One whose SET_ID or
ADAPTER_VERSION no longer matches ends with REASON 2. -/
def Dev.installImport (d : Dev) (im : Import) : Dev :=
  let ws := d.windowsOf im.template
  if im.opened ∧ ws.any (fun e => d.grantStale e.2) then d.endImport im.template 2
  else if im.opened ∧ ws.all (fun e => e.2.isOpen && e.2.full) then
    let d := d.each ws (fun d e => d.installPart im e.2)
    let d := d.each ws (fun d e =>
      let d := (d.closeWindow e.1).sendClose e.1 0
      d.setWindow e.1 { d.window e.1 with locs := [], template := 255, grants := 0 })
    let d := { d with fabric := { d.fabric with imports := d.fabric.imports.filter (fun i => i.template ≠ im.template) } }
    (d.bump 0x3C02_0A).updTemplate im.template (fun x =>
      { x with state := 2, imported := true, setId := d.activeSetId, version := d.rd 0x3E12_05,
               lastUse := d.frameCount % 2 ^ 32 })
  else d

/-- Windows of imports that wait for a run of slots. -/
def Dev.retryWindows (d : Dev) : Dev :=
  d.each ((d.fabric.windows.filter (fun e => !e.2.isOpen && e.2.template ≠ 255)).map (·.1)) Dev.regrant

/-! ## Grants at their producer (R388 to R392) -/

def Dev.updSpan (d : Dev) (owner t : Nat) (f : Span → Span) : Dev :=
  { d with fabric := { d.fabric with spans := updIf (fun (x : Span) => x.owner = owner && x.template = t) f d.fabric.spans } }

/-- Does the builder's template answer the grant, with the set and adapter it was built under (R392)? -/
def Dev.grantMatches (d : Dev) (w : Nat) : Bool :=
  let x := d.template (bits w 191 184)
  bits w 191 184 < 255 && x.state = 2 && bits w 255 224 = x.setId && bits w 223 192 = x.version &&
    bits w 287 256 = x.prefixLen && bits w 170 168 = x.cls

/-- Queue a template export forme of a span. -/
def Dev.queueExport (d : Dev) (owner t attempt : Nat) : Dev :=
  let d := { d with formes := d.formes.filter (fun f => !(f.kind = 6 && f.ref = t && f.band = owner)) }
  (d.enqueue { Forme.blank 6 with ref := t, band := owner, attempt := attempt, items := (d.templateSlugs t).length, entryTime := d.now }).updSpan owner t
    (fun x => { x with attempt := attempt, again := false })

/-- Is an export forme of the span queued or placed? -/
def Dev.exportStands (d : Dev) (owner t : Nat) : Bool := d.formes.any (fun f => f.kind = 6 && f.ref = t && f.band = owner)

/-- The grant is kept: a first one of its span queues the export forme; one after a revocation, or one that finds no forme
of its span any more, queues it afresh with ATTEMPT one greater (R386, R390). -/
def Dev.takeGrant (d : Dev) (owner window w : Nat) : Dev :=
  let t := bits w 191 184
  let gs := d.fabric.grants.filter (fun g => !(g.owner = owner && g.window = window))
  let g : Grant := ⟨owner, window, w, 0, [], 0, false⟩
  let d : Dev := { d with fabric := { d.fabric with grants := gs ++ [g] } }
  match d.fabric.spans.find? (fun (x : Span) => x.owner = owner && x.template = t) with
  | none =>
    let sp : Span := ⟨owner, t, 0, false, []⟩
    Dev.queueExport { d with fabric := { d.fabric with spans := d.fabric.spans ++ [sp] } } owner t 0
  | some x => if x.again || !d.exportStands owner t then d.queueExport owner t ((x.attempt + 1) % 65536) else d

def fabricGrantReceived (port : Nat) (pk : PacketIn) (d : Dev) : Dev :=
  d.receiveHere port pk 3 (fun d h =>
    let w := pk.payload.headD 0
    let d := d.bump 0x4210_03
    if !grantWordOk w then d.respond h 0x0102
    else if !d.grantMatches w then d.respond h 0x0908
    else (d.takeGrant h.source h.window w).respond h 0)

/-- A CLOSE ends its instance at the producer; a revocation waits for a new grant. -/
def Dev.dropGrant (d : Dev) (owner window w : Nat) : Dev :=
  let t := bits w 191 184
  let keep (g : Grant) : Bool := !(g.owner = owner && g.window = window && grantEra g.word = grantEra w)
  let had := d.fabric.grants.any (fun g => !keep g)
  let d := { d with fabric := { d.fabric with grants := d.fabric.grants.filter keep } }
  if had ∧ bits w 175 172 = 1 then d.updSpan owner t (fun x => { x with again := true }) else d

def fabricCloseReceived (port : Nat) (pk : PacketIn) (d : Dev) : Dev :=
  d.receiveHere port pk 4 (fun d h =>
    let w := pk.payload.headD 0
    if !grantWordOk w then d.respond h 0x0102 else (d.dropGrant h.source h.window w).respond h 0)

/-- Has a span no grant left? -/
def Dev.spanIdle (d : Dev) (x : Span) : Bool :=
  d.fabric.grants.all (fun g => !(g.owner = x.owner && bits g.word 191 184 = x.template))

/-- The counts that an export raised are lowered at the lead-in after its CLOSE (R392); a span that waits for no new grant
is over, and a forme of it that still waits leaves its queue. -/
def Dev.lowerSpan (d : Dev) (x : Span) : Dev :=
  if d.spanIdle x then
    let d := (d.each x.held Dev.slugDrop).updSpan x.owner x.template (fun y => { y with held := [] })
    if x.again then d
    else { d with fabric := { d.fabric with spans := d.fabric.spans.filter (fun y => !(y.owner = x.owner && y.template = x.template)) },
                  formes := d.formes.filter (fun f => !(f.kind = 6 && f.group.isNone && f.ref = x.template && f.band = x.owner)) }
  else d

/-- The fabric's part of the lead-in. -/
def Dev.fabricLeadIn (d : Dev) : Dev :=
  let d := d.each d.fabric.spans Dev.lowerSpan
  let d := d.each d.fabric.imports Dev.installImport
  (d.retryWindows).tryImports

/-- A new attempt of an export issues its words from the first (R389). -/
def Dev.exportAttempt (d : Dev) (owner t : Nat) : Dev :=
  { d with fabric := { d.fabric with
      grants := updIf (fun (g : Grant) => g.owner = owner && bits g.word 191 184 = t) (fun g => { g with issued := 0 })
        d.fabric.grants } }

/-! ## Adapter import (R393) -/

/-- Abort code of a write of ADAPTER_IMPORT_FROM (R5), 0 for none. -/
def Dev.adapterImportCheck (d : Dev) : Nat :=
  if d.rd 0x3E12_02 = 1 ∨ d.rd 0x3E12_02 = 2 ∨ d.rd 0x4211_02 = 1 then 0x0800_0022 else 0

/-- Ask a device for its adapter. -/
def adapterImportDo (source : Nat) (d : Dev) : Dev :=
  let d := ((d.wr 0x4211_01 source).wr 0x4211_02 1)
  let d := { d with fabric := { d.fabric with adapterIn := [], adapterHead := none, adapterTag := none } }
  if (d.outPort source).isSome then d.sendMgmt 5 source 0 0 0 [] else (d.fabStatus 0x0603).failImport

/-- Words of an adapter copy: BF16 elements in ascending order, 32 to a word (R274). -/
def adapterWordCount (elements : Nat) : Nat := (elements + 31) / 32

/-- The current adapter in its stored layout. -/
def Dev.adapterWords (d : Dev) : List Nat :=
  let n := Config.adapterElements d.activeSetId
  let e (i : Nat) : Nat := if i < n then (d.batch.current.weights.getD i (Config.adapterWeight d.activeSetId i)).toNat / 65536 else 0
  (List.range (adapterWordCount n)).map (fun w => packFields ((List.range 32).map (fun i => (e (32 * w + i), 16))))

/-- Words in groups of four. -/
def fours : Nat → List Nat → List (List Nat)
  | 0, _ => []
  | fuel + 1, ws => if ws.isEmpty then [] else ws.take 4 :: fours fuel (ws.drop 4)

/-- The source sends its current adapter: a word with SET_ID and ADAPTER_VERSION, then the copy. -/
def Dev.sendAdapter (d : Dev) (dest : Nat) : Dev :=
  let head := pairOf (d.rd 0x3E12_05) * 2 ^ 384 + pairOf d.activeSetId * 2 ^ 448
  let ws := d.adapterWords
  let ps := (0, [head]) :: (fours ws.length ws).mapIdx (fun i p => (1 + 4 * i, p))
  d.each ps (fun d p => d.sendMgmt 6 dest 0 p.1 0 p.2)

def fabricAdapterReqReceived (port : Nat) (pk : PacketIn) (d : Dev) : Dev :=
  d.receiveHere port pk 5 (fun d h => (d.respond h 0).sendAdapter h.source)

/-- Elements of a stored word. -/
def adapterElems (w : Nat) : List F32 := (List.range 32).map (fun i => BitVec.ofNat 32 (bits w (16 * i + 15) (16 * i) * 65536))

/-- The last packet is written: publication becomes pending. -/
def Dev.adapterDone (d : Dev) : Dev :=
  let n := Config.adapterElements d.activeSetId
  if d.fabric.adapterIn.length ≥ adapterWordCount n then
    let ws := ((d.fabric.adapterIn.map adapterElems).flatten).take n
    let d := { d with batch := { d.batch with working := kvInsert d.batch.working d.batch.lastParity ws, done := some ws },
                      fabric := { d.fabric with adapterIn := [], adapterTag := none } }
    (d.wr 0x4211_02 2).wr 0x3E12_06 1
  else d

/-- The importer waits for the next packet of the series: RESP_TIMEOUT_US without it, and the import fails (DESIGN CHOICE, log
entry 167). -/
def Dev.awaitSeries (d : Dev) : Dev :=
  { d with fabric := { d.fabric with adapterTag := some d.fabric.nextTag, nextTag := d.fabric.nextTag + 1 } }

/-- WORD_OFFSET of the packet that comes next in the series. -/
def Dev.seriesPlace (d : Dev) : Nat := if d.fabric.adapterHead.isNone then 0 else 1 + d.fabric.adapterIn.length

/-- One packet of the series; one that does not begin where the last ended shows that a packet is lost. -/
def Dev.adapterPacket (d : Dev) (h : Hdr) (ws : List Nat) : Dev :=
  if d.rd 0x4211_02 ≠ 1 ∨ d.rd 0x4211_01 ≠ h.source then d.respond h 0x0608
  else if h.offset ≠ d.seriesPlace then d.failImport.respond h 0x0608
  else match d.fabric.adapterHead with
    | none =>
      let w := ws.headD 0
      if pairsOk w [448, 384] ∧ bits w 479 448 = d.activeSetId then
        ((({ d with fabric := { d.fabric with adapterHead := some (bits w 479 448, bits w 415 384) } } : Dev).awaitSeries).adapterDone).respond
          h 0
      else d.failImport.respond h 0x0608
    | some _ =>
      ((({ d with fabric := { d.fabric with adapterIn := d.fabric.adapterIn ++ ws } } : Dev).awaitSeries).adapterDone).respond h 0

def fabricAdapterDataReceived (port : Nat) (pk : PacketIn) (d : Dev) : Dev :=
  d.receiveHere port pk 6 (fun d h => d.adapterPacket h pk.payload)

/-! ## Management answers and timeouts -/

/-- Packets of an adapter series that are not sent any more. -/
def Dev.stopSeries (d : Dev) (dest : Nat) : Dev :=
  { d with fabric := { d.fabric with backlog := d.fabric.backlog.filter (fun b => !(b.1.ty = 6 && b.1.dest = dest)) } }

/-- A management message is answered: a refused GRANT ends the import with REASON 2 (R392). -/
def Dev.answerMgmt (d : Dev) (o : Outstanding) (status : Nat) : Dev :=
  let d := d.freeEntry o.tag
  if status = 0 then (if o.ty = 5 ∧ d.rd 0x4211_02 = 1 ∧ d.fabric.adapterTag.isNone then d.awaitSeries else d)
  else
    let d := d.fabStatus status
    if o.ty = 3 then
      (if (d.window o.window).era = o.era then d.endImport (d.window o.window).template 2 else d)
    else if o.ty = 5 then d.failImport
    else if o.ty = 6 then d.stopSeries o.dest
    else d

/-- Packets that found no way out of the backlog are answered here with 0603h (R381). -/
def Dev.answerUnreached : Nat → Dev → Dev
  | 0, d => d
  | fuel + 1, d =>
    match d.fabric.unreached with
    | [] => d
    | o :: r =>
      let d := { d with fabric := { d.fabric with unreached := r } }
      Dev.answerUnreached fuel (if o.ty = 1 then d.answerWrite o 0x0603 else d.answerMgmt o 0x0603)

def Dev.backlogSettled (d : Dev) : Dev := Dev.answerUnreached (d.fabric.unreached.length + d.fabric.backlog.length) d

def fabricWriteRespReceived (port : Nat) (pk : PacketIn) (d : Dev) : Dev :=
  d.receiveHere port pk 2 (fun d h =>
    match d.answered h true with
    | some o => (d.answerWrite o h.status).backlogSettled
    | none => d)

def fabricMgmtRespReceived (port : Nat) (pk : PacketIn) (d : Dev) : Dev :=
  d.receiveHere port pk 7 (fun d h =>
    match d.answered h false with
    | some o => (d.answerMgmt o h.status).backlogSettled
    | none => d)

/-- WRITEs of this device to an instance given up that wait for a credit are not sent either (R386). -/
def Dev.cutWaiting (d : Dev) (o : Outstanding) : Dev :=
  let dead (w : PacketIn × Nat) : Bool :=
    let h := hdrOf w.1.header
    h.ty = 1 && h.source = d.here && h.dest = o.dest && h.window = o.window && h.era = o.era
  (List.range 4).foldl (fun d n =>
    let p := d.port n
    d.setPort n { p with waiting := p.waiting.filter (fun w => !dead w) }) d

/-- A WRITE that timed out (R386): its grant is given up and its words end with 0604h; words that wait for an entry of the
table under that instance are not sent, and the other formes that wait for them restart with 0605h (R384). -/
def Dev.giveUpGrant (d : Dev) (o : Outstanding) : Dev :=
  let dead (b : Outstanding × PacketIn) : Bool := b.1.ty = 1 && b.1.dest = o.dest && b.1.window = o.window && b.1.era = o.era
  let cut := (d.fabric.backlog.filter dead).map (·.1)
  let d := d.updGrant o.dest o.window (fun g => if grantEra g.word = o.era then { g with dead := true } else g)
  let d : Dev := { d with fabric := { d.fabric with backlog := d.fabric.backlog.filter (fun b => !dead b) } }
  ((d.cutWaiting o).answerWrite o 0x0604).each cut (fun d b =>
    (if b.forme = o.forme then d else d.remoteFault b.core (d.transferPlate b) b.forme 0x0605).finishRemote b.core b.ctag
      b.forme)

/-- An entry without an answer in RESP_TIMEOUT_US (R386): after a WRITE its instance is given up. -/
def fabricRespTimeout (tag : Nat) (d : Dev) : Dev :=
  match d.fabric.outstanding.find? (fun o => o.tag = tag) with
  | none => if d.fabric.adapterTag = some tag then d.failImport else d
  | some o =>
    let d := (d.bump 0x4210_05).fabStatus 0x0604
    (if o.ty = 1 then d.giveUpGrant o
    else
      let d := d.freeEntry tag
      if o.ty = 5 then d.failImport else if o.ty = 6 then d.stopSeries o.dest else d).backlogSettled

/-! ## Ports (R377, R378, R383) -/

/-- Abort code of a write of FABRIC_ENABLE, with the status it leaves (R378). -/
def Dev.fabricConsistent (d : Dev) : Bool :=
  let mask := d.rd 0x4201_01
  posX d.here < d.sizeX && posY d.here < d.sizeY && !(d.sizeX = 1 && (bit mask 1 || bit mask 3)) &&
    !(d.sizeY = 1 && (bit mask 0 || bit mask 2))

/-- Each port of PORT_MASK trains (R377). -/
def Dev.trainPorts (d : Dev) : Dev :=
  (List.range 4).foldl (fun d n =>
    if d.on? 0x4200_04 && bit (d.rd 0x4201_01) n && d.portState n ≠ 2 && !d.looped (0x40 + n) then d.wr (dkey (portIx n) 1) 1
    else d) d

/-- FABRIC_ENABLE: in Proof the ports train, or are disabled. -/
def fabricEnableDo (v : Nat) (d : Dev) : Dev :=
  let d := d.wr 0x4200_04 v
  if d.stage < 2 then d
  else if v = 1 then d.trainPorts
  else (List.range 4).foldl (fun d n =>
    (((d.wr (dkey (portIx n) 1) 0).setPort n PortSt.init).setReady (29 + n) false)) d

/-- After alignment the ends tell each other their places: this device its own, and the port comes up if the neighbour is the
expected one. -/
def fabricPortAligned (port neighbour sizeX sizeY facing : Nat) (d : Dev) : Dev :=
  if d.portState port ≠ 1 || d.looped (0x40 + port) then d
  else
    let d := (d.emit (.exchange port d.here d.sizeX d.sizeY)).wr (dkey (portIx port) 2) neighbour
    if sizeX = d.sizeX ∧ sizeY = d.sizeY ∧ facing = (port + 2) % 4 ∧ neighbour = d.neighbourAt port then
      ((d.wr (dkey (portIx port) 1) 2).setPort port PortSt.init).setReady (29 + port) true
    else ((d.wr (dkey (portIx port) 1) 4).fabStatus 0x0602).event 0x0602 0

/-- RETRAIN_MS has passed: a port that is not up trains again. -/
def fabricRetrain (port : Nat) (d : Dev) : Dev :=
  if d.stage ≥ 2 ∧ d.run = .on ∧ d.on? 0x4200_04 ∧ bit (d.rd 0x4201_01) port ∧ (d.portState port = 3 ∨ d.portState port = 4) ∧
      !d.looped (0x40 + port) then
    d.wr (dkey (portIx port) 1) 1
  else d

def fabricAlignmentLost (port : Nat) (d : Dev) : Dev := d.portDown port

def fabricLinkSilent (port : Nat) (d : Dev) : Dev := d.portDown port

end Sys2Proof.Machine
end

