-- ==== Sys2Proof/Machine/PlateCheck.lean ====
section
/-! DEFINITION. The content checks of a plate set (R439, Table 6-13): versions and header, segments, impositions, bundle
encodings, weight scales, the load walk, group use codes, slot lists, scoreboard tables, slot groups, band template, walk
descriptors. -/

namespace Sys2Proof.Machine

/-! ## Plate set header (R113) -/

/-- Highest PAGE_BUDGET, and the least and greatest crop slot. -/
def headerValuesOk (ps : PlateSetIn) : Bool :=
  let h := ps.header
  let frame := bits h 479 448
  let crop := bits h 223 192
  frame % 1000 = 0 && 250000 ≤ frame && frame ≤ 4000000 && bits h 415 384 ≤ 4096 &&
    1 ≤ bits h 319 304 && bits h 319 304 ≤ 4096 && bits h 319 304 = ps.plates.length &&
    bits h 271 256 = ps.classTable.length && crop % 64 = 0 && 128 ≤ crop && crop ≤ 33554432

/-- Every condition of R113 on the header. -/
def headerOk (ps : PlateSetIn) : Bool :=
  pairsOk ps.header [448, 384, 320, 192] && bits ps.header 279 272 = 0 && bits ps.header 191 0 = 0 && headerValuesOk ps

/-- Contract version 1.0. -/
def versionOk (ps : PlateSetIn) : Bool := bits ps.header 287 280 = 1 && bits ps.header 295 288 = 0

/-- No reserved segment type, one header, one layout class table (Table 6-3). -/
def typesOk (ps : PlateSetIn) : Bool :=
  ps.types.all (fun t => 1 ≤ t && t ≤ 7) && ps.types.count 1 = 1 && ps.types.count 6 = 1

/-- Impositions 0 to 20, once each (R114). -/
def impositionsOk (ps : PlateSetIn) : Bool :=
  bits ps.header 303 296 = 21 && ps.impositions.length = 21 &&
    (List.range 21).all (fun i => (ps.impositions.filter (fun x => x.number = i)).length = 1)

/-! ## Bundles (R58, R81, R83, R203; Table 3-6) -/

/-- A scoreboard operation. -/
def sbOpOk (s : Nat) : Bool := bits s 31 29 ≤ 6 && bits s 3 0 = 0

/-- Field codes and reserved bits of a bundle (R58). -/
def bundleCodesOk (w : Nat) : Bool :=
  bits w 511 508 ≤ 4 && bits w 481 480 = 0 && sbOpOk (bits w 479 448) && sbOpOk (bits w 447 416) && sbOpOk (bits w 415 384) &&
    bits w 383 381 ≤ 2 && bits w 380 378 ≤ 3 && bits w 377 376 ≤ 2 && bits w 360 358 ≤ 4 && bits w 357 355 ≤ 4 &&
    bits w 342 320 = 0 && bits w 277 256 = 0 && bits w 255 250 ≤ 0x10 && bits w 229 227 ≤ 5 && bits w 226 224 ≤ 2 &&
    bits w 170 168 ≤ 3 && bits w 162 128 = 0 && bits w 127 124 ≤ 5 && bits w 77 64 = 0 && bits w 63 60 ≤ 6 && bits w 31 0 = 0

/-- LOAD_WORD within the tile of its format; D_DESC 64-byte aligned. -/
def bundlePlacesOk (w : Nat) : Bool :=
  (bits w 380 378 ≠ 1 || bits w 349 344 < (match bits w 357 355 with | 0 => 64 | 4 => 16 | _ => 32)) &&
    (bits w 63 60 = 0 || bits w 59 39 % 4 = 0)

/-- Rounding and MSE options (R81, R83). -/
def bundleVectorOk (w : Nat) : Bool :=
  let op := bits w 255 250
  let fmt := bits w 229 227
  let sc2 := bits w 170 168 = 3 && bits w 226 224 = 2
  !(sc2 && (op = 7 || op = 8 || op = 0x10 || op = 0xF)) &&
    (op ≠ 0x10 || (fmt ≥ 2 && bits w 226 224 = 0 && !(bit w 195 && fmt < 4) && bits w 223 202 = 0))

/-- The window engine's rules (R58, R203). -/
def bundleWindowOk (w : Nat) : Bool :=
  let op := bits w 127 124
  let y := bits w 123 120
  let x := bits w 119 116
  let h := bits w 115 112
  let v := bits w 111 108
  let t := bits w 107 106 + 1
  (op = 0 || (h ≠ 0 && v ≠ 0)) && (!(op = 1 || op = 3) || (y < h && x < v)) && (op ≠ 1 || bits w 98 78 % 4 = 0) &&
    (op ≠ 2 || bits w 105 104 + 1 < v) && (!(op = 4 || op = 5) || (y + (h - 1) * t ≤ 14 && x + (v - 1) * t ≤ 14)) &&
    (!bit w 343 || op = 3) && (op ≠ 3 || (bits w 383 381 ≠ 0 && bits w 360 358 = 0))

/-- A bundle whose encoding the part accepts. -/
def bundleOk (w : Nat) : Bool := bundleCodesOk w && bundlePlacesOk w && bundleVectorOk w && bundleWindowOk w

/-- A scale byte of a weights segment (R71). -/
def scaleByteOk (fmt b : Nat) : Bool := scaleValid fmt (toSigned 8 b) 0

/-! ## Plate headers (Table 6-5) -/

def plateBundles (h : Nat) : Nat := bits h 479 448
def platePath (h : Nat) : Nat := bits h 415 384
def plateSpan (h : Nat) : Nat := bits h 351 320
def plateNo (h : Nat) : Nat := bits h 319 308
def plateType (h : Nat) : Nat := bits h 307 304
def plateRestorable (h : Nat) : Bool := bit h 303
/-- First byte of the statistics area in the die. -/
def plateStat (h : Nat) : Nat := 16 * bits h 302 282
def plateStatBlocks (h : Nat) : Nat := bits h 281 266

def plateOf (ps : PlateSetIn) (n : Nat) : Option PlateSeg := ps.plates.find? (fun p => plateNo p.header = n)

/-! ## The load walk (R115) -/

/-- One issue of the walk: its cycle, counted from 0 at the slot start, and its bundle. -/
structure Issue where
  cycle : Nat
  w : Nat
  deriving DecidableEq, Repr

/-- Index of the LOOP_END that matches a LOOP_BEGIN of a level: the next of that level. -/
def loopEndOf (bs : List Nat) (level start : Nat) : Option Nat :=
  ((bs.drop start).findIdx? (fun w => bits w 511 508 = 2 && bits w 507 506 = level)).map (· + start)

/-- Walk in issue order from a bundle to END, exactly as the sequencer runs; none: END is not reached. -/
def walkPlate (bs : List Nat) : Nat → Nat → Nat → Kv LoopCtr → Option (List Issue)
  | 0, _, _, _ => none
  | fuel + 1, i, c, loops =>
    match bs[i]? with
    | none => none
    | some w =>
      let level := bits w 507 506
      let count := bits w 504 482
      let rest : Option (List Issue) :=
        match bits w 511 508 with
        | 1 =>
          if count = 0 then (loopEndOf bs level (i + 1)).bind (fun e => walkPlate bs fuel (e + 1) (c + 1) loops)
          else walkPlate bs fuel (i + 1) (c + 1) (kvInsert loops level ⟨count, i + 1⟩)
        | 2 =>
          let l := kvGet (⟨0, 0⟩ : LoopCtr) loops level
          if l.left > 1 then walkPlate bs fuel l.start (c + 1) (kvInsert loops level ⟨l.left - 1, l.start⟩)
          else walkPlate bs fuel (i + 1) (c + 1) (kvErase loops level)
        | 3 => walkPlate bs fuel (i + 1) (max (c + 1) count) loops
        | 4 => some []
        | _ => walkPlate bs fuel (i + 1) (c + 1) loops
      rest.map (fun l => ⟨c, w⟩ :: l)

def Issue.replay (x : Issue) : Bool := bit x.w 505

/-- The walk of a plate, with at most PATH issues. -/
def walkOf (p : PlateSeg) : Option (List Issue) := walkPlate p.bundles (platePath p.header + 1) 0 0 []

/-- Cycles of the replay points and of END, in order. -/
def spanMarks (l : List Issue) : List Nat := (l.filter Issue.replay).map (·.cycle) ++ (l.getLast?.map (·.cycle)).toList

/-- The largest step between neighbours of a rising list. -/
def largestStep : List Nat → Nat
  | a :: b :: r => max (b - a) (largestStep (b :: r))
  | _ => 0

/-- BUNDLES, PATH, SPAN and the first replay point agree with the walk (R115). -/
def walkAgrees (p : PlateSeg) (l : List Issue) : Bool :=
  plateBundles p.header = p.bundles.length && (l.getLast?.map (fun x => x.cycle + 1)).getD 0 = platePath p.header &&
    largestStep (spanMarks l) = plateSpan p.header && plateSpan p.header ≤ 65536 && (l.head?.map Issue.replay).getD false

/-! ## What a bundle reads and writes in galley (R116) -/

/-- Byte ranges, first byte and length, at local addresses. -/
abbrev Ranges := List (Nat × Nat)

/-- The static descriptor of a bundle on a die: none for an operand block's, or one outside the images. -/
def staticDesc (ps : PlateSetIn) (operands : Ranges) (die w : Nat) : Option Desc :=
  let a := die * dieBytes + 16 * bits w 59 39
  if bits w 63 60 = 0 || operands.any (fun r => r.1 ≤ a && a < r.1 + r.2) then none
  else (imageBytes ps a 64).map (fun bs => descOf (ofLe bs))

/-- The rows of one side of a transfer. -/
def descRows (base pitch : Nat) (x : Desc) : Ranges := (List.range x.rows).map (fun r => (base + r * pitch * 64, x.length))

/-- Galley ranges that a static descriptor reads; of a walk, its walk descriptor. -/
def descReads (op : Nat) (x : Desc) : Ranges :=
  let rows := if x.isFill && op = 1 then [(x.src / 64 * 64, 64)] else if op = 4 || op = 6 then [(x.src / 64 * 64, 64)]
    else if op = 1 || op = 3 || op = 5 then descRows x.src x.srcPitch x else []
  rows.filter (fun r => inGalley r.1)

/-- Galley ranges that a static descriptor writes. -/
def descWrites (op : Nat) (x : Desc) : Ranges :=
  (if op = 1 || op = 2 then descRows x.dst x.dstPitch x else []).filter (fun r => inGalley r.1)

/-- The walk descriptor of a slug walk, where an image holds it. -/
def walkOfDesc (ps : PlateSetIn) (op : Nat) (x : Desc) : Option WalkDesc :=
  if op = 4 then (imageBytes ps x.src 64).map (fun bs => walkDescOf (ofLe bs)) else none

/-- Places of a walk's row areas: each row's first byte, in order. -/
def walkAreas (w : WalkDesc) (x : Desc) : List Nat := (List.range w.rowCount).map (fun r => x.dst + r * w.stride)

/-- Galley ranges that a slug walk reads of its row areas: positions to append, words to seal (R218). -/
def walkReads (ps : PlateSetIn) (op : Nat) (x : Desc) : Ranges :=
  match walkOfDesc ps op x with
  | none => []
  | some w =>
    ((walkAreas w x).map (fun a =>
      if w.mode = 1 then (List.range x.rows).map (fun k => (a + 64 * k * x.srcPitch, x.length))
      else if w.mode = 3 then [(a, 64 * w.sealedWords)] else [])).flatten

/-- Galley ranges that a slug walk writes of its row areas, and the maps of a gather (R218, R219). -/
def walkWrites (ps : PlateSetIn) (op : Nat) (x : Desc) : Ranges :=
  match walkOfDesc ps op x with
  | none => []
  | some w =>
    let maps := if w.mode = 0 then [(w.map, w.rowCount * mapBytes x.rows)] else []
    maps ++ ((walkAreas w x).map (fun a =>
      if w.mode = 0 then (List.range x.rows).map (fun i => (a + 64 * i * x.dstPitch, 64 * max w.openWords w.sealedWords))
      else if w.mode = 2 then [(a, 64 * w.openWords)] else [])).flatten

/-- Rows of the tables in galley that a slug walk reads: TABLE_ADDR of its walk descriptor (R217). -/
def tableReads (ps : PlateSetIn) (op : Nat) (x : Desc) : Ranges :=
  match walkOfDesc ps op x with
  | some w => [(w.table + 64 * w.firstRow, 64 * w.rowCount)].filter (fun r => inGalley r.1)
  | none => []

/-- Galley ranges that a bundle reads on a die. -/
def bundleReads (ps : PlateSetIn) (operands : Ranges) (die w : Nat) : Ranges :=
  let at_ (a16 : Nat) : Nat := die * dieBytes + 16 * a16
  (if bits w 383 381 ≠ 0 && !bit w 343 then [(at_ (bits w 319 299), rowBytes (bits w 360 358))] else []) ++
  (if bits w 380 378 = 1 || bits w 380 378 = 2 then [(at_ (bits w 298 278), 64)] else []) ++
  (if bits w 170 168 = 1 then [(at_ (bits w 191 171), 256)] else []) ++
  (if bits w 127 124 = 1 then [(at_ (bits w 98 78), 64)] else []) ++
  (if bits w 63 60 ≠ 0 then [(at_ (bits w 59 39), 64)] else []) ++
  (match staticDesc ps operands die w with | some x => descReads (bits w 63 60) x ++ walkReads ps (bits w 63 60) x ++ tableReads ps (bits w 63 60) x | none => [])

/-- Bytes that STORE_CONVERT writes in a format (Table 3-6). -/
def storeBytes (fmt : Nat) : Nat := 64 * vfmtBits fmt / 8

/-- Galley ranges that a bundle writes on a die. -/
def bundleWrites (ps : PlateSetIn) (operands : Ranges) (die w : Nat) : Ranges :=
  let a := die * dieBytes + 16 * bits w 191 171
  (if bits w 170 168 = 2 then [(a, 256)] else if bits w 170 168 = 3 then [(a, storeBytes (bits w 229 227))] else []) ++
  (match staticDesc ps operands die w with | some x => descWrites (bits w 63 60) x ++ walkWrites ps (bits w 63 60) x | none => [])

/-- Do two ranges share a galley word? -/
def shareWord (r s : Nat × Nat) : Bool :=
  r.2 ≠ 0 && s.2 ≠ 0 && r.1 / 64 ≤ (s.1 + s.2 - 1) / 64 && s.1 / 64 ≤ (r.1 + r.2 - 1) / 64

/-- No bundle writes a word that an earlier bundle of its replay span reads (R116). -/
def inputsProtected (ps : PlateSetIn) (operands : Ranges) (die : Nat) : Ranges → List Issue → Bool
  | _, [] => true
  | read, x :: l =>
    let read := if x.replay then [] else read
    !(bundleWrites ps operands die x.w).any (fun w => read.any (shareWord w)) &&
      inputsProtected ps operands die (bundleReads ps operands die x.w ++ read) l

/-! ## DRAINED after the last read (R116) -/

/-- Scoreboard slots that a bundle names with an operation. -/
def sbNamed (op w : Nat) : List Nat :=
  ([bits w 479 448, bits w 447 416, bits w 415 384].filter (fun s => bits s 31 29 = op)).map (fun s => bits s 28 20)

/-- Slots that a bundle's scoreboard operations name, CHECK_TAG apart. -/
def sbNamedAny (w : Nat) : List Nat :=
  ([bits w 479 448, bits w 447 416, bits w 415 384].filter (fun s => bits s 31 29 ≠ 0 && bits s 31 29 ≠ 5)).map
    (fun s => bits s 28 20)

/-- Cycle of the first replay point after a cycle. -/
def replayAfter (l : List Issue) (c : Nat) : Option Nat := (l.find? (fun x => x.replay && x.cycle > c)).map (·.cycle)

/-- Cycle of the plate's last read of a range. -/
def lastRead (ps : PlateSetIn) (operands : Ranges) (die : Nat) (l : List Issue) (r : Nat × Nat) : Option Nat :=
  ((l.filter (fun x => (bundleReads ps operands die x.w).any (fun q => overlap q.1 q.2 r.1 r.2))).getLast?).map (·.cycle)

/-- No DRAINED of a slot stands before the first replay point after the plate's last read of its range. -/
def drainedLate (ps : PlateSetIn) (operands : Ranges) (sb : List SbSlot) (die : Nat) (l : List Issue) : Bool :=
  l.all (fun x => (sbNamed 4 x.w).all (fun n =>
    match sb.find? (fun s => s.slot = n) with
    | none => true
    | some s =>
      match lastRead ps operands die l (s.base, s.size) with
      | none => true
      | some c => match replayAfter l c with
        | none => false
        | some q => q ≤ x.cycle))

/-! ## Window and array (R204) -/

/-- Landing latency of a frequency point (Table 3-2). -/
def landingAt (fp : Nat) : Nat := match fp with | 0 => 20 | 1 => 16 | _ => 13

/-- Cycles in which a walk's streamed rows land. -/
def rowLandings (lat : Nat) (l : List Issue) : List Nat :=
  (l.filter (fun x => bits x.w 383 381 ≠ 0)).map (fun x => x.cycle + (if bit x.w 343 then 2 else lat))

/-- No two streamed rows land in one cycle. -/
def landingsApart (lat : Nat) (l : List Issue) : Bool := decide (rowLandings lat l).Nodup

def isPool (w : Nat) : Bool := bits w 127 124 = 4 || bits w 127 124 = 5

/-- No pooling operation issues while an earlier one holds the unit. -/
def poolFree_ : Nat → List Issue → Bool
  | _, [] => true
  | free, x :: l =>
    if isPool x.w then free ≤ x.cycle && poolFree_ (x.cycle + (bits x.w 115 112 * bits x.w 111 108 + 15) / 16) l
    else poolFree_ free l

/-- Window positions, 16y + x, that a bundle reads. -/
def windowReads (w : Nat) : List Nat :=
  let y := bits w 123 120
  let x := bits w 119 116
  let t := bits w 107 106 + 1
  if bits w 127 124 = 3 then [16 * y + x]
  else if isPool w then
    ((List.range (bits w 115 112)).map (fun i => (List.range (bits w 111 108)).map (fun j => 16 * (y + i * t) + x + j * t))).flatten
  else []

/-- Positions written in the span after a SHIFT: the active window takes those of s columns on. -/
def shiftWritten (w : Nat) (written : List Nat) : List Nat :=
  let h := bits w 115 112
  let v := bits w 111 108
  let s := bits w 105 104 + 1
  let moved := ((List.range h).map (fun y => (List.range (v - s)).map (fun x => 16 * y + x))).flatten
  written.filter (fun p => !moved.contains p) ++ moved.filter (fun p => written.contains (p + s))

/-- Every window position read in a replay span was written in it: positions written, landings to come. -/
def windowLoaded (lat : Nat) : List Nat → List (Nat × Nat) → List Issue → Bool
  | _, _, [] => true
  | written, coming, x :: l =>
    let written := if x.replay then [] else written
    let coming := if x.replay then [] else coming
    let written := (coming.filter (fun e => e.1 < x.cycle)).map (·.2) ++ written
    let coming := coming.filter (fun e => !(e.1 < x.cycle))
    let after := if bits x.w 127 124 = 2 then shiftWritten x.w written else written
    let coming := if bits x.w 127 124 = 1 then coming ++ [(x.cycle + lat, 16 * bits x.w 123 120 + bits x.w 119 116)] else coming
    (windowReads x.w).all (fun p => written.contains p) && windowLoaded lat after coming l

/-! ## Statistics area (R116) -/

/-- Vector register that a bundle's operation of each kind writes, with the cycle of the result and whether it is an
error-mode MSE result. -/
def regWrites (lat : Nat) (x : Issue) : List (Nat × Nat × Bool) :=
  let w := x.w
  let op := bits w 255 250
  let vlat := if op = 0xF then 3 else if 9 ≤ op && op ≤ 0xC then 8 else if op ≥ 0xD then 6 else 4
  (if op ≠ 0 then [(bits w 249 245, x.cycle + vlat, op = 0x10 && bit w 192)] else []) ++
  (if bits w 377 376 ≠ 0 then [(bits w 365 361, x.cycle + 4, false)] else []) ++
  (if bits w 170 168 = 1 then [(bits w 167 163, x.cycle + 3 + lat, false)] else []) ++
  (if isPool w then [(bits w 103 99, x.cycle + 4 + (bits w 115 112 * bits w 111 108 + 15) / 16, false)] else [])

/-- Does a register hold an error-mode MSE result in a cycle: is its latest result by then one? -/
def holdsMse (r c : Nat) (ws : List (Nat × Nat × Bool)) : Bool :=
  ((ws.filter (fun e => e.1 = r && e.2.1 ≤ c)).foldl (fun (best : Nat × Bool) e =>
    if best.1 ≤ e.2.1 then (e.2.1, e.2.2) else best) (0, false)).2

/-- Every stored MSE result block lies in the statistics area. -/
def statStores (lat h : Nat) (l : List Issue) : Bool :=
  let ws := (l.map (regWrites lat)).flatten
  l.all (fun x =>
    let a := 16 * bits x.w 191 171
    bits x.w 170 168 ≠ 2 || !holdsMse (bits x.w 167 163) x.cycle ws ||
      (plateStat h ≤ a && a + 256 ≤ plateStat h + 256 * plateStatBlocks h))

/-! ## Group use (R101, R119) -/

def impUse (i : ImpositionSeg) (die g : Nat) : Nat := i.groupUse.getD (64 * die + g) 0

/-- Is a range of a die's galley inside resident groups, of which it may straddle two (DESIGN CHOICE, log entry 150)? -/
def impResident (i : ImpositionSeg) (a n : Nat) : Bool :=
  n = 0 || (inGalley a && (a + n - 1) / dieBytes = a / dieBytes &&
    (List.range ((a + n - 1) / groupBytes8 + 1 - a / groupBytes8)).all (fun k =>
      impUse i ((a / groupBytes8 + k) / 64) ((a / groupBytes8 + k) % 64) = 1))

/-- RD of an imposition (R114): the die it leaves out, plus one. -/
def impRd (i : ImpositionSeg) : Nat := i.number % 7

def impDies (i : ImpositionSeg) : List Nat := (List.range 6).filter (fun n => (impRd i) ≠ n + 1)

/-- Operand blocks of an imposition: first byte and length (Table 6-6). -/
def impOperands (i : ImpositionSeg) : Ranges :=
  (i.slots.map (fun c => c.2.map (fun (e : SlotEntry) => (c.1 / 16 * dieBytes + 16 * e.operandAddr, 64 * e.operandWords)))).flatten

/-- Dies on which an imposition runs a plate. -/
def impDiesOf (i : ImpositionSeg) (plate : Nat) : List Nat :=
  (List.range 6).filter (fun n => i.slots.any (fun c => c.1 / 16 = n && c.2.any (fun (e : SlotEntry) => e.plate = plate)))

/-- Dies for which an imposition's checks take a plate: those that run it, every die in use for a plate that no slot of the
set names. -/
def checkDies (ps : PlateSetIn) (i : ImpositionSeg) (plate : Nat) : List Nat :=
  if ps.impositions.all (fun i => (impDiesOf i plate).isEmpty) then impDies i else impDiesOf i plate

/-- The walk's rules for a plate on one die of one imposition (R116, R204). -/
def placeOk (ps : PlateSetIn) (i : ImpositionSeg) (p : PlateSeg) (l : List Issue) (die : Nat) : Bool :=
  let ops := (impOperands i)
  let lat := landingAt (i.number / 7)
  inputsProtected ps ops die [] l && drainedLate ps ops i.sbSlots die l && landingsApart lat l &&
    windowLoaded lat [] [] l && statStores lat p.header l &&
    (plateStatBlocks p.header = 0 || (plateStat p.header % 64 = 0 &&
      impResident i (die * dieBytes + plateStat p.header) (256 * plateStatBlocks p.header)))

/-- Restrictions of a slot type on its plates (Table 6-1). -/
def typeAllows (ty w : Nat) : Bool :=
  let op := bits w 63 60
  !(ty = 6 && op = 5) && !(ty = 7 && (op = 2 || op = 3 || op = 4))

/-- Plate structure and load walk of one plate (R115, R116, R204). -/
def plateOk (ps : PlateSetIn) (p : PlateSeg) : Bool :=
  pairsOk p.header [448, 384, 320] && bits p.header 265 0 = 0 && plateType p.header ≤ 7 &&
    p.bundles.all (typeAllows (plateType p.header)) &&
    (match walkOf p with
     | none => false
     | some l => walkAgrees p l && poolFree_ 0 l &&
       ps.impositions.all (fun i => (checkDies ps i (plateNo p.header)).all (placeOk ps i p l)))

/-! ## Slot lists (R117 to R119) -/

/-- Guaranteed cycles of a slot: the largest c with max(1.03c, c + 30f) ≤ U · f, U = LENGTH − 20 ns. f is in hundredths
of a GHz. -/
def guaranteed (length f100 : Nat) : Nat :=
  let uf := (length - 20) * f100
  min (uf / 103) ((uf - 30 * f100) / 100)

/-- Frequency of a point in hundredths of a GHz (R114). -/
def freq100 (fp : Nat) : Nat := match fp with | 0 => 125 | 1 => 100 | _ => 80

/-- Least BUDGET of a plate at a frequency point (R118). -/
def leastBudget (fp h : Nat) : Nat :=
  platePath h + plateSpan h + landingAt fp + (if plateRestorable h then (1500 * freq100 fp + 99) / 100 else 0)

/-- One slot entry with the end of the entry before it (R117, R118). -/
def slotOk (ps : PlateSetIn) (i : ImpositionSeg) (frame die before : Nat) (e : SlotEntry) : Bool :=
  e.wellFormed && 1000 ≤ e.start && before ≤ e.start && e.start + e.length ≤ frame && 1 ≤ e.operandWords && e.operandWords ≤ 15 &&
    e.operandAddr % 4 = 0 && impResident i (die * dieBytes + 16 * e.operandAddr) (64 * e.operandWords) &&
    (match plateOf ps e.plate with
     | none => false
     | some p => plateType p.header = e.slotType && leastBudget (i.number / 7) p.header ≤ e.budget &&
       20 ≤ e.length && e.budget ≤ guaranteed e.length (freq100 (i.number / 7)))

/-- A core's slot list in order. -/
def slotsOk (ps : PlateSetIn) (i : ImpositionSeg) (frame die : Nat) : Nat → List SlotEntry → Bool
  | _, [] => true
  | before, e :: l => slotOk ps i frame die before e && slotsOk ps i frame die (e.start + e.length) l

def impList (i : ImpositionSeg) (c : Nat) : List SlotEntry := kvGet [] i.slots c

def ofType (ty : Nat) (l : List SlotEntry) : List SlotEntry := l.filter (fun e => e.slotType = ty)

def lengthOf (l : List SlotEntry) : Nat := (l.map (·.length)).sum

/-- Intersection of two lists of intervals (start, end). -/
def meetIntervals (a b : List (Nat × Nat)) : List (Nat × Nat) :=
  ((a.map (fun x => b.map (fun y => (max x.1 y.1, min x.2 y.2)))).flatten).filter (fun x => x.1 < x.2)

/-- Intervals in which all 16 cores of a die are in background slots. -/
def impCommon (i : ImpositionSeg) (die : Nat) : List (Nat × Nat) :=
  let of (c : Nat) := (ofType 6 (impList i c)).map (fun e => (e.start, e.start + e.length))
  (List.range 15).foldl (fun acc k => meetIntervals acc (of (16 * die + k + 1))) (of (16 * die))

/-- Start of a die's scrub window: the first common interval of at least 1,000 ns (R117). -/
def scrubStart (i : ImpositionSeg) (die : Nat) : Option Nat :=
  (((impCommon i die).filter (fun x => 1000 ≤ x.2 - x.1)).map (·.1)).foldl
    (fun best a => match best with | none => some a | some b => some (min a b)) none

/-- Refresh shadow slots of a core. -/
def impShadows (i : ImpositionSeg) (c : Nat) : List (Nat × Nat) :=
  (ofType 7 (impList i c)).map (fun e => (e.start, e.start + e.length))

def impCores (i : ImpositionSeg) : List Nat := (List.range 96).filter (fun c => (impRd i) ≠ c / 16 + 1)

/-- Every pair of a list of ranges apart. -/
def rangesApart : Ranges → Bool
  | [] => true
  | r :: l => l.all (fun s => !overlap r.1 r.2 s.1 s.2) && rangesApart l

/-- R117 and R118 for one imposition. -/
def slotListsOk (ps : PlateSetIn) (i : ImpositionSeg) : Bool :=
  let frame := bits ps.header 479 448
  (List.range 96).all (fun c => slotsOk ps i frame (c / 16) 0 (impList i c)) &&
    i.slots.all (fun e => e.1 < 96) &&
    (impCores i).all (fun c => (frame - 1000 + 39) / 40 ≤ lengthOf (ofType 6 (impList i c))) &&
    (impDies i).all (fun n => (scrubStart i n).isSome) &&
    (impCores i).all (fun c => impShadows i c == impShadows i ((impCores i).headD 0) &&
      2000 + (frame + 99) / 100 ≤ lengthOf (ofType 7 (impList i c))) &&
    (List.range 96).all (fun c => (impCores i).contains c || (impList i c).isEmpty) && rangesApart (impOperands i)

/-- A group resident in one imposition is resident in every imposition that does not leave its die out (R119). -/
def residencyOk (ps : PlateSetIn) : Bool :=
  (List.range 384).all (fun k =>
    !ps.impositions.any (fun i => i.groupUse.getD k 0 = 1) ||
      ps.impositions.all (fun i => (impRd i) = k / 64 + 1 || i.groupUse.getD k 0 = 1))

/-! ## Scoreboard tables (R120) -/

/-- One entry: its range in one die, in resident or transient groups; producer and consumers on dies in use. -/
def sbSlotOk (i : ImpositionSeg) (s : SbSlot) : Bool :=
  s.wellFormed && s.slot < 512 && s.producer < 96 && s.size % 64 = 0 && s.base % 64 = 0 && s.consumers.all (· < 96) &&
    (impRd i) ≠ s.producer / 16 + 1 && s.consumers.all (fun c => (impRd i) ≠ c / 16 + 1) &&
    (s.size = 0 || (inGalley s.base && (s.base + s.size - 1) / dieBytes = s.base / dieBytes &&
      (List.range ((s.base + s.size - 1) / groupBytes8 + 1 - s.base / groupBytes8)).all (fun k =>
        let g := s.base / groupBytes8 + k
        impUse i (g / 64) (g % 64) = 1 || impUse i (g / 64) (g % 64) = 2)))

def sbTableOk (i : ImpositionSeg) : Bool :=
  i.sbSlots.length ≤ 512 && decide (i.sbSlots.map (·.slot)).Nodup && i.sbSlots.all (sbSlotOk i) &&
    rangesApart (i.sbSlots.map (fun s => (s.base, s.size)))

/-! ## Slot groups (R280, R281) -/

/-- Slot type of each kind of forme (Table 14-1). -/
def kindType (kind : Nat) : Nat :=
  match kind with
  | 0 => 0 | 1 => 0 | 2 => 1 | 3 => 2 | 4 => 2 | 5 => 2 | 6 => 2 | 7 => 3 | 8 => 4 | 9 => 5 | 10 => 6 | _ => 7

/-- Largest FRAMES of each kind. -/
def kindFrames (kind : Nat) : Nat := if kind = 7 ∨ kind ≥ 10 then 1 else 64

/-- How many groups before this one name the core with the slot type. -/
def groupOrdinal (gs : List GroupEntry) (k core ty : Nat) : Nat :=
  ((gs.take k).filter (fun g => g.slotType = ty && g.cores.contains core)).length

/-- The slot of a core that belongs to group k: the groups that name the core with a slot type take its slots of that
type in order (log entry 29). -/
def groupSlot (i : ImpositionSeg) (gs : List GroupEntry) (k core : Nat) : Option SlotEntry :=
  match gs[k]? with
  | some g => if g.cores.contains core then (ofType g.slotType (impList i core))[groupOrdinal gs k core g.slotType]? else none
  | none => none

def groupEntryOk (i : ImpositionSeg) (g : GroupEntry) : Bool :=
  g.wellFormed && g.kind ≤ 11 && g.slotType = kindType g.kind && 1 ≤ g.frames && g.frames ≤ kindFrames g.kind &&
    (if g.kind ≥ 10 then g.itemsMax = 0 else 1 ≤ g.itemsMax && g.itemsMax ≤ 4096) &&
    g.cores.all (fun c => c < 96 && (impRd i) ≠ c / 16 + 1) && (g.kind ≠ 3 || 256 ≤ g.itemsMax)

/-- The slots of one group have equal START and LENGTH, and every core it names has one. -/
def groupSlotsOk (i : ImpositionSeg) (gs : List GroupEntry) (k : Nat) (g : GroupEntry) : Bool :=
  let ss := g.cores.map (groupSlot i gs k)
  ss.all (·.isSome) && (match ss.filterMap id with
    | [] => true
    | e :: r => r.all (fun x => x.start = e.start && x.length = e.length))

/-- R281 for one imposition. -/
def groupsOk (i : ImpositionSeg) (gs : List GroupEntry) : Bool :=
  let kinds := gs.map (·.kind)
  gs.length ≤ 256 && gs.all (groupEntryOk i) && (gs.zipIdx).all (fun g => groupSlotsOk i gs g.2 g.1) &&
    kinds.count 7 = 1 && [0, 1, 2, 3, 8].all (fun k => kinds.contains k) &&
    (impCores i).all (fun c => (List.range 8).all (fun ty =>
      (ofType ty (impList i c)).length = (gs.filter (fun g => g.slotType = ty && g.cores.contains c)).length))

/-- A slot group entry (Table 14-2). -/
def groupEntryOf (v : Nat) : GroupEntry :=
  { frames := bits v 223 192, cores := (List.range 96).filter (fun n => bit v (96 + n)), slotType := bits v 95 92,
    kind := bits v 91 88, itemsMax := bits v 87 72, wellFormed := pairsOk v [192] && bits v 71 0 = 0 }

/-- n slot group entries of 32 bytes. -/
def groupEntries : Nat → List Byte → List GroupEntry
  | 0, _ => []
  | n + 1, bs => groupEntryOf (ofLe (bs.take 32)) :: groupEntries n (bs.drop 32)

/-- n slot group tables, each behind the paired word that counts its entries (R280); the tables end early where that word is
not well formed or counts more than 256, or where the bytes end. -/
def groupTables : Nat → List Byte → List (List GroupEntry)
  | 0, _ => []
  | n + 1, bs =>
    let w := ofLe (bs.take 8)
    let k := w % 2 ^ 32
    if bs.length < 8 + 32 * k ∨ k > 256 ∨ !(pairedAt w 0).2 then []
    else groupEntries k (bs.drop 8) :: groupTables n (bs.drop (8 + 32 * k))

/-- The slot group tables of a plate set. -/
def groupsIn (ps : PlateSetIn) : List (List GroupEntry) := groupTables 21 ps.constant

def groupTablesOk (ps : PlateSetIn) : Bool :=
  let gs := groupsIn ps
  gs.length = 21 && ps.impositions.all (fun i => groupsOk i (gs.getD i.number []))

/-! ## Band template (R205) -/

/-- Bytes of one carry buffer: LENGTH · ROWS of word 5 of a band template. -/
def carryBytes (t : List Nat) : Nat := let x := descOf (t.getD 4 0); x.length * x.rows

/-- One layout band slot (R205): seven operand words; behind them, in the same group, six descriptors with the set's band
height; 24 carry buffers in resident groups of one die. -/
def bandSlotOk (ps : PlateSetIn) (i : ImpositionSeg) (e : Nat × SlotEntry) : Bool :=
  let a := blockAddr e.1 e.2
  e.2.operandWords = 7 && a / groupBytes8 = (a + 831) / groupBytes8 &&
    (match bandTemplate ps e.1 e.2 with
     | none => false
     | some t => t.all descPairsOk && (descOf (t.getD 1 0)).rows = bandHeightOf ps &&
       impResident i (descOf (t.getD 4 0)).dst (24 * carryBytes t))

/-- R205: the band template stands at every layout band slot, and H_B lies in 1 to 4,096. The manual gives OPERAND_WORDS 7 no
code of its own: the model refuses other values with the template's 0316h (DEDUCED, log entry 131). -/
def bandTemplateOk (ps : PlateSetIn) : Bool :=
  ps.impositions.all (fun i => (layoutSlots i).all (bandSlotOk ps i)) && 1 ≤ bandHeightOf ps && bandHeightOf ps ≤ 4096

/-! ## Walk descriptors (R221) -/

/-- Row areas and map of a gather lie in resident groups: of a walk descriptor's own fields, the map. -/
def walkMapOk (ps : PlateSetIn) (raw : Nat) : Bool :=
  let w := walkDescOf raw
  w.mode ≠ 0 || ps.impositions.all (fun i => (impRd i) = w.map / dieBytes + 1 || impResident i w.map (64 * w.rowCount))

/-- Data engine descriptors of bundles with D_OP 4, each with the die it runs on. -/
def walkLaunches (ps : PlateSetIn) : List (ImpositionSeg × Desc) :=
  (ps.impositions.map (fun i => (ps.plates.map (fun p => ((checkDies ps i (plateNo p.header)).map (fun die =>
    ((p.bundles.filter (fun w => bits w 63 60 = 4)).filterMap (fun w =>
      (staticDesc ps (impOperands i) die w).map (fun x => (i, x)))))).flatten)).flatten)).flatten

/-- What the rows of a gather reach: each of their ROWS places, LENGTH bytes long (R218). -/
def gatherReach (w : WalkDesc) (x : Desc) : Ranges :=
  if w.mode = 0 then
    ((walkAreas w x).map (fun a => (List.range x.rows).map (fun i => (a + 64 * i * x.dstPitch, x.length)))).flatten
  else []

/-- LENGTH of a gather, and the row areas, with all that the rows reach, and the map of a walk (R221). -/
def walkLaunchOk (ps : PlateSetIn) (i : ImpositionSeg) (x : Desc) : Bool :=
  match imageBytes ps x.src 64 with
  | none => true
  | some bs =>
    let w := walkDescOf (ofLe bs)
    (w.mode ≠ 0 || 64 * max w.openWords w.sealedWords ≤ x.length) && impResident i x.dst (w.rowCount * w.stride) &&
      (gatherReach w x ++ walkReads ps 4 x ++ walkWrites ps 4 x).all (fun r => impResident i r.1 r.2) &&
      (w.mode ≠ 0 || impResident i w.map (w.rowCount * mapBytes x.rows))

def Dev.walksOk (d : Dev) (ps : PlateSetIn) : Bool :=
  ps.walks.all (fun w => d.walkOk w && walkMapOk ps w) && (walkLaunches ps).all (fun e => walkLaunchOk ps e.1 e.2)

/-! ## The order of the checks (Table 6-13) -/

/-- Static descriptors of a plate set with their D_OP, for every die on which they may run (R56). -/
def staticDescs (ps : PlateSetIn) : List (Nat × Desc) :=
  (ps.impositions.map (fun i => (ps.plates.map (fun p => ((checkDies ps i (plateNo p.header)).map (fun die =>
    p.bundles.filterMap (fun w => (staticDesc ps (impOperands i) die w).map (fun x => (bits w 63 60, x))))).flatten)).flatten)).flatten

/-- Does a range of DDR5 lie in the spill region or in the set's own area (R369)? -/
def Dev.ownDdr (d : Dev) (area a n : Nat) : Bool :=
  n = 0 || addrSpace a ≠ 0 || a < ddrBase ||
    [0, 1 + area].any (fun r => d.layoutBase r ≤ a && a + n ≤ d.layoutBase r + d.layoutBytes r)

/-- The code of a static descriptor's first failed check at plate load (R43, R45, R92, R369), or 0. -/
def Dev.staticStatus (d : Dev) (area : Nat) (e : Nat × Desc) : Nat :=
  if !(d.ownDdr area e.2.src (e.2.srcSpan e.1) && (e.1 = 5 || d.ownDdr area e.2.dst (e.2.dstSpan e.1))) then 0x04E0
  else d.descStatus e.1 e.2

/-- The code of a walk descriptor's addresses (R43, R217): its table's rows and its map. -/
def Dev.walkStatus (d : Dev) (raw : Nat) : Nat :=
  let w := walkDescOf raw
  if d.localOk w.table (64 * (w.firstRow + w.rowCount)) && (w.mode ≠ 0 || d.localOk w.map (64 * w.rowCount)) then 0 else 0x04E0

/-- The codes of a set's static descriptors and walk descriptors: the first that is not 0. Table 6-13 has no place for them; the model takes them
behind its checks (DEDUCED, log entry 132). -/
def Dev.staticsStatus (d : Dev) (area : Nat) (ps : PlateSetIn) : Nat :=
  ((staticDescs ps).map (d.staticStatus area) ++ ps.walks.map d.walkStatus).foldl orStatus 0

/-- Status of the first content check that fails, for a load into an area, or 0. -/
def Dev.plateSetStatus (d : Dev) (area : Nat) (ps : PlateSetIn) : Nat :=
  if !versionOk ps then 0x0312
  else if !headerOk ps then 0x0314
  else if !typesOk ps then 0x0316
  else if !impositionsOk ps then 0x0313
  else if !ps.plates.all (fun p => p.bundles.all bundleOk) then 0x0301
  else if !ps.weights.all (fun w => w.scales.all (scaleByteOk w.fmt)) then 0x0310
  else if !ps.plates.all (plateOk ps) then 0x0316
  else if !ps.impositions.all (fun i => i.groupUse.all (· < 3)) then 0x0301
  else if !(ps.impositions.all (slotListsOk ps) && residencyOk ps) then 0x0315
  else if !ps.impositions.all sbTableOk then 0x0317
  else if !groupTablesOk ps then 0x0320
  else if !bandTemplateOk ps then 0x0316
  else if !d.walksOk ps then 0x0904
  else d.staticsStatus area ps

end Sys2Proof.Machine
end

