-- ==== Sys2Proof/Machine/Plates.lean ====
section
/-! DEFINITION. Plate set areas and the imposition in force (R89, R102 to R106, R114, R122, R123, R126, R127, R129, R315,
R316): activation, galley views, the resident load, scoreboards, gating. -/

namespace Sys2Proof.Machine

/-! ## Plate set areas (Table 6-11) -/

/-- Keys of an area's SET_ID, STATE and STATUS. -/
def areaKey (a sub : Nat) : Nat := dkey (0x2501 + a) sub

def Dev.areaState (d : Dev) (a : Nat) : Nat := d.rd (areaKey a 2)

def Dev.areaSet (d : Dev) (a : Nat) : Option PlateSetIn := (d.plate.areas.find? (fun e => e.1 = a)).map (·.2)

/-- The images of a plate set lie in its area of DDR5 (R95, R119, Table 18-1). -/
def Dev.putImages (d : Dev) (a : Nat) (ps : PlateSetIn) : Dev :=
  d.each ((ps.images.zip ps.imageOffs).filter (fun i => i.2 + i.1.2.length ≤ d.layoutBytes (1 + a))) (fun d i =>
    d.putImage (d.layoutBase (1 + a) + i.2) i.1.2)

/-- A plate set takes its place in an area, verified. -/
def Dev.putArea (d : Dev) (a : Nat) (ps : PlateSetIn) : Dev :=
  let d := { d with plate := { d.plate with areas := kvInsert d.plate.areas a ps,
                                            groups := kvInsert d.plate.groups a (groupsIn ps) } }.putImages a ps
  (d.wr (areaKey a 1) (bits ps.header 351 320)).wr (areaKey a 2) 2

/-! ## Dies, views and scoreboards -/

/-- Dies that the imposition in force uses. -/
def Dev.usedDies (d : Dev) : List Nat := (List.range 6).filter (fun n => d.rd 0x2504_02 ≠ n + 1)

/-- A die's view changes: every bank is filled with zero (R89). -/
def Dev.setView (d : Dev) (die : Nat) (uni : Bool) : Dev :=
  let d := d.zeroDie die
  let u := if uni then setAdd die d.plate.unified else d.plate.unified.filter (· ≠ die)
  { d with plate := { d.plate with unified := u, gated := d.plate.gated.filter (fun b => b / 512 ≠ die) } }

/-- VIEW, 2300h:01, as read. The manual holds the view for each die (R89) and gives VIEW one value: the model reads 1 while
the unified view is in force on some die (DESIGN CHOICE, log entry 134). -/
def Dev.viewNow (d : Dev) : Nat := if d.plate.unified.isEmpty then 0 else 1

/-- The resident groups of a die are loaded from the set's images and initial galley images. -/
def Dev.loadDie (d : Dev) (ps : PlateSetIn) (die : Nat) : Dev :=
  d.each (ps.images.filter (fun i => i.1 / dieBytes = die && inGalley i.1)) (fun d i => d.put i.1 i.2)

/-- Every scoreboard entry of every core takes epoch 0, with no drains recorded (R64). -/
def Dev.resetScoreboards (d : Dev) : Dev := (List.range 96).foldl (fun d c => d.atCore c (fun x => { x with sb := [] })) d

/-- In Press, CD5–CD0 show the dies of the imposition (Table 15-2). -/
def Dev.dieBits (d : Dev) : Dev := (List.range 6).foldl (fun d n => d.setReady (20 + n) (d.usedDies.contains n)) d

/-- The imposition of the point in force and the left-out die is entered (R114, R64). -/
def Dev.enterImposition (d : Dev) : Dev :=
  ((d.wr 0x2504_01 (7 * d.rd 0x2201_02 + d.rd 0x2504_02)).resetScoreboards).dieBits

/-! ## Activation (R126, R127) -/

/-- CLASS_SLICE_LIMIT of a class: the smallest SLICE_LIMIT among its gather descriptors (R221). -/
def sliceLimit (ps : PlateSetIn) (cls : Nat) : Nat :=
  let ws := (ps.walks.map walkDescOf).filter (fun (w : WalkDesc) => w.cls = cls && w.mode = 0)
  match ws with
  | [] => 0
  | w :: r => r.foldl (fun m (x : WalkDesc) => min m x.sliceLimit) w.sliceLimit

def Dev.sliceLimits (d : Dev) (ps : PlateSetIn) : Dev :=
  (List.range 8).foldl (fun d k => d.wr (dkey (0x3C10 + k) 7) (sliceLimit ps k)) d

/-- What the header of the active set gives the dictionary. -/
def Dev.activeValues (d : Dev) (a : Nat) (ps : PlateSetIn) : Dev :=
  ((((((d.wr 0x2500_01 (bits ps.header 351 320)).wr 0x2500_02 a).wrp 0x2504_03 (bits ps.header 479 448)).wr 0x2504_04
    (bits ps.header 415 384)).wr 0x2503_02 0).wr 0x2505_01 0).sliceLimits ps

/-- An area becomes active and the other, if it was, verified and inactive. The adapter version returns to 0 (R278). The checks
of band rings and slug regions follow in the imposition that is then in force (R153, R212). -/
def Dev.makeActive (d : Dev) (a : Nat) : Dev :=
  match d.areaSet a with
  | none => d
  | some ps =>
    let d := if d.areaState (1 - a) = 3 then d.wr (areaKey (1 - a) 2) 2 else d
    let d := { d with plate := { d.plate with pendingArea := none } }
    (((d.wr (areaKey a 2) 3).activeValues a ps).resetAdapter).followBits

/-- An entry takes a free value below n. -/
def Dev.wrOpen (d : Dev) (key n : Nat) : Dev := d.drawn.wr key (d.draw % n)

/-- What 4601h and 4602h show of a failed test whose place no operand gives. -/
def Dev.failedAt (d : Dev) (die : Nat) : Dev :=
  ((((((d.wr (dkey 0x4601 (die + 1)) 3).wr 0x4602_01 die).wrOpen 0x4602_02 512).wrOpen 0x4602_03 1024).wrOpen 0x4602_04
    256).wrOpen 0x4602_05 256).wrOpen 0x4602_06 256

/-- A die readmitted at an activation: its decision and its history are cleared (R123, R287). In Proof its view stays
tiered and its bit shows the test passed. -/
def Dev.readmit (d : Dev) (die : Nat) : Dev :=
  let d := { d with lasting := d.lasting.filter (· ≠ srcKey 0 die), faults := kvErase d.faults (srcKey 0 die) }
  let d := ((d.wr 0x2110_04 (setBit (d.rd 0x2110_04) die false)).wr 0x2504_02 0).setView die (d.stage = 3)
  if d.stage = 3 then d else d.setReady (20 + die) true

/-- The left-out die's galley test at an activation (R123, R417): it comes back, or stays out with 0452h and the lasting
decision of a failed test, kept where it had one. The row gives no operand for where the test failed: 4602h takes the die and
free values (log entry 163). -/
def Dev.testLeftOut (d : Dev) (pass : Bool) : Dev :=
  if d.rd 0x2504_02 = 0 then d
  else if pass then d.readmit (d.rd 0x2504_02 - 1)
  else
    let die := d.rd 0x2504_02 - 1
    let d := (d.failedAt die).setFailed (20 + die)
    (d.emergency 0x0452 clsLasting die).lastingUnit 0 die

/-- The pending activation takes effect at a frame start (R127); its resident load follows its imposition. -/
def Dev.activateNow (d : Dev) : Dev :=
  match d.plate.pendingArea with
  | none => d
  | some a => (d.testLeftOut d.plate.pendingTest).makeActive a

/-- The load time of a lengthened lead-in: the manual bounds it by 2 ms and leaves its value open. -/
def Dev.takeSlip (d : Dev) : Dev := { d.drawn with plate := { d.plate with slip := d.draw % 2000001 } }

/-- A die joins (R316): unified view, resident groups loaded, the full imposition. One that an activation at the same frame
start has readmitted is in already, and one that failed the test made there, or that has a lasting decision, stays out. -/
def Dev.joinNow (d : Dev) : Dev :=
  let out := d.rd 0x2504_02
  let d := { d with plate := { d.plate with pendingJoin := false } }
  if out = 0 then d.bump 0x2002_04
  else if d.isLasting 0 (out - 1) then d
  else
    let d := (d.setView (out - 1) true).wr 0x2504_02 0
    (match d.activeSet with | some ps => d.loadDie ps (out - 1) | none => d).bump 0x2002_04

/-! ## Gating (R102 to R106) -/

/-- The groups, numbered 64 · die + g, of some galley ranges. -/
def groupsIn8 (rs : List (Nat × Nat)) : List Nat :=
  ((rs.filter (fun r => r.2 ≠ 0 && inGalley r.1)).map (fun r =>
    (List.range ((r.1 + r.2 - 1) / groupBytes8 + 1 - r.1 / groupBytes8)).map (· + r.1 / groupBytes8))).flatten.eraseDups

/-- Groups of a die that a plate's bundles name, its operand block's group among them. -/
def Dev.groupsOf (d : Dev) (c : Nat) (e : SlotEntry) : List Nat :=
  match d.activeSet, d.imposition with
  | some ps, some i =>
    match plateOf ps e.plate with
    | some p =>
      let die := c / 16
      groupsIn8 ((die * dieBytes + 16 * e.operandAddr, 64 * e.operandWords) ::
        (p.bundles.map (fun w => bundleReads ps (impOperands i) die w ++ bundleWrites ps (impOperands i) die w)).flatten)
    | none => []
  | _, _ => []

/-- The banks of a group in the unified view, numbered 512 · die + bank. -/
def groupBanks (g : Nat) : List Nat := (List.range 8).map (fun b => 512 * (g / 64) + 8 * (g % 64) + b)

/-- Does a range hold a word of a bank of the unified view? Any fifteen words of a group in a row stand in all its banks
(R87). -/
def onBank (b a n : Nat) : Bool :=
  let g := (64 * (b / 512) + b % 512 / 8) * groupBytes8
  let lo := max a g
  let hi := min (a + n) (g + groupBytes8)
  lo < hi && ((wordsOf lo (hi - lo)).take 15).any (fun w => (unifiedBank (w * 64 % dieBytes)).1 = b % 512)

/-- Does a transfer run at the bank controllers: a copy or fill within one die (R92)? -/
def Xfer.atBanks (t : Xfer) : Bool :=
  let y := descOf t.desc
  t.op = 1 && inGalley y.src && inGalley y.dst && y.src / dieBytes = y.dst / dieBytes

/-- Is the outstanding-write counter of a bank not zero: does a bank-controller transfer still run whose destination covers
it (R102)? Words on their way from elsewhere do not count (R105). -/
def Dev.bankBusy (d : Dev) (b : Nat) : Bool :=
  d.cores.any (fun e => e.2.tags.any (fun t => t.2.atBanks && (descOf t.2.desc).writes.any (fun r => onBank b r.1 r.2)))

/-- Does an open window cover a bank? -/
def Dev.windowOver (d : Dev) (b : Nat) : Bool := d.fabric.windows.any (fun e => e.2.isOpen && onBank b e.2.base e.2.size)

/-- GATE_IDLE_ENABLE and GATE_IDLE_FRAMES as taken at the last frame start (R108). -/
def Dev.gateIdle (d : Dev) : Bool := if d.plate.latched = [] then d.on? 0x2302_01 else d.plate.latched.getD 1 0 ≠ 0
def Dev.gateFrames (d : Dev) : Nat := if d.plate.latched = [] then d.rd 0x2302_02 else d.plate.latched.getD 2 0

/-- SCRUB_WORDS as taken at the last frame start. -/
def Dev.scrubWords (d : Dev) : Nat := if d.plate.latched = [] then d.rd 0x2301_01 else d.plate.latched.getD 0 0

/-- The values of 2301h:01 and 2302h are taken at a frame start. -/
def Dev.latch (d : Dev) : Dev :=
  { d with plate := { d.plate with latched := [d.rd 0x2301_01, d.rd 0x2302_01, d.rd 0x2302_02] } }

/-- Is a group, numbered 64 · die + g, idle, unused or on the left-out die, so that its banks may be gated (R102, R106)? An
idle group is one that no slot of the coming frame or of the GATE_IDLE_FRAMES before it names. -/
def Dev.mayGate (d : Dev) (named : List Nat) (g : Nat) : Bool :=
  let use := d.groupUse (g / 64) (g % 64)
  let idle := use = 2 && d.gateIdle && !named.contains g &&
    (match d.plate.groupUsed.find? (fun e => e.1 = g) with
     | some e => d.frameCount > e.2 + d.gateFrames
     | none => true)
  d.rd 0x2504_02 = g / 64 + 1 || use = 0 || idle

/-- Gate the banks of a group whose counters are zero and whose windows are closed. -/
def Dev.gateGroup (d : Dev) (g : Nat) : Dev :=
  let bs := (groupBanks g).filter (fun b => !d.bankBusy b && !d.windowOver b)
  { d with plate := { d.plate with gated := bs.foldl (fun l b => setAdd b l) d.plate.gated } }

/-- Wake a group: its banks come back zero-filled (R104). -/
def Dev.wakeGroup (d : Dev) (g : Nat) : Dev :=
  if (groupBanks g).any (fun b => d.plate.gated.contains b) then
    let d := d.zeroRange (g * groupBytes8) groupBytes8
    { d with plate := { d.plate with gated := d.plate.gated.filter (fun b => !(groupBanks g).contains b) } }
  else d

/-- Groups that the imposition in force declares resident have their banks powered, zero-filled where they were gated. -/
def Dev.wakeResident (d : Dev) : Dev :=
  d.each ((List.range 384).filter (fun g => d.usedDies.contains (g / 64) && d.groupUse (g / 64) (g % 64) = 1)) Dev.wakeGroup

/-- The resident load of the active set (R127, R315). -/
def Dev.loadResident (d : Dev) : Dev :=
  match d.activeSet with
  | some ps => d.wakeResident.each d.usedDies (fun d n => d.loadDie ps n)
  | none => d

/-- GATED_BANKS of each die. -/
def Dev.countGated (d : Dev) : Dev :=
  (List.range 6).foldl (fun d n => d.wr (dkey 0x2303 (n + 1)) (d.plate.gated.filter (fun b => b / 512 = n)).length) d

/-- Evaluate gating at a frame start; named: groups that the occupied slots of the coming frame name. A group in use
again, or no longer unused, wakes. The groups of a die in the tiered view stay as they are (DESIGN CHOICE, log entry
148). -/
def Dev.gateAll (d : Dev) (named : List Nat) : Dev :=
  let d := { d with plate := { d.plate with groupUsed := named.foldl (fun m g => kvInsert m g d.frameCount) d.plate.groupUsed } }
  let views := (List.range 384).filter (fun g => d.plate.unified.contains (g / 64))
  (d.each views (fun d g =>
    if d.mayGate named g then d.gateGroup g
    else if d.groupUse (g / 64) (g % 64) = 1 ∨ named.contains g then d.wakeGroup g else d)).countGated

/-- A write of 1 to CLEAR_SUSPECT (R125). -/
def clearSuspectDo (d : Dev) : Dev := d.wr 0x2505_01 0

end Sys2Proof.Machine
end

