-- ==== Sys2Proof/Machine/Commits.lean ====
section
/-! DEFINITION. What a forme leaves when it commits or is abandoned, and the cut-offs (R9, R15, R285, R291 to R293). -/

namespace Sys2Proof.Machine

/-! ## Structured order (R21, R258) -/

/-- Take the first field of a region out of a list. -/
def takeField (region : Nat) : List FieldRec → Option FieldRec × List FieldRec
  | [] => (none, [])
  | f :: r => if f.region = region then (some f, r) else let t := takeField region r; (t.1, f :: t.2)

/-- The fields in structured order: each of the plate's fields takes the next text of its region; texts it does not name
keep their order behind them. -/
def structured : List FieldIn → List FieldRec → List FieldRec
  | [], fs => fs
  | i :: r, fs =>
    match takeField i.region fs with
    | (some f, fs) => { f with nameId := i.nameId, confidence := i.confidence } :: structured r fs
    | (none, fs) => structured r fs

/-! ## Commits (R285) -/

/-- A layout band forme: its band slot is free again, and the layout finish forme follows the last. -/
def Dev.commitBand (d : Dev) (f : Forme) (p : PageSide) : Dev :=
  ((d.updPage p.ring p.seq (fun p => { p with bandsCommitted := p.bandsCommitted + 1 })).freeBands p.ring p.seq
    (some f.band)).tryFinish p.ring p.seq

/-- Plate and die of the slot that the lowest-numbered core of a forme's group runs (Table 14-6). -/
def Dev.formePlate (d : Dev) (f : Forme) : Nat × Nat :=
  match f.group, d.imposition with
  | some k, some i =>
    let c := ((d.groups[k]?).map (fun (g : GroupEntry) => g.cores.foldl min 95)).getD 0
    match groupSlot i d.groups k c with
    | some s => (s.plate, c / 16)
    | none => (0, c / 16)
  | _, _ => (0, 0)

/-- A layout finish forme's box list is at hand: the geometry forme follows it. A list that breaks R182 restarts it. -/
def Dev.commitFinish (d : Dev) (p : PageSide) (list : List Byte) : Dev :=
  (d.updPage p.ring p.seq (fun p => { p with layoutDone := true, layoutArea := none, boxList := list })).enqueue
    { Forme.blank 2 with pages := [(p.ring, p.seq)], entryTime := p.entryTime }

/-- A geometry forme: its crops are handed over and are what is left to read. -/
def Dev.commitGeometry (d : Dev) (f : Forme) (p : PageSide) (bad : List Nat) : Dev :=
  let regions := p.crops.map (·.region)
  let d := if f.only.isSome then d
    else d.updPage p.ring p.seq (fun p => { p with geometryDone := true, reading := regions })
  let d := (((d.deliver f p bad).dropEntries f.id).countGeometry f p).dropForme f.id
  d.closeIdle.tryStructuring p.ring p.seq

/-- A sequence's first forme has written its p positions: it joins the decode batch at the next frame (R9). -/
def Dev.joinBatch (d : Dev) (p : Nat) (i : Nat) : Dev :=
  if (d.seqEnt i).state = 1 then
    let x := kvGet SeqSt.init d.seqs i
    let d := (d.advanceSeq i p).updSeqEnt i (fun e => { e with state := 2 })
    ({ d with seqs := kvPut SeqSt.init d.seqs i { x with ready := !x.due } }).prepareStep i
  else d

/-- The crop slots that an encoder forme consumed are free again. -/
def Dev.dropCrops (d : Dev) (i : Nat) : Dev :=
  let x := kvGet SeqSt.init d.seqs i
  d.updPage x.ring x.page (fun p => { p with crops := p.crops.filter (fun c => c.region ≠ x.region) })

def Dev.commitEncoder (d : Dev) (f : Forme) : Dev :=
  let d := d.each f.seqs Dev.dropCrops
  (d.each f.seqs (fun d i => d.joinBatch (d.seqEnt i).prefixLen i)).freeBatch f.ref

/-- A template's prefix is built: seals committed, fills set; it is ready after the next lead-in (R226, R234). -/
def Dev.commitPrefix (d : Dev) (t : Nat) : Dev :=
  let x := d.template t
  let c := d.slugClass x.cls
  let d := d.each (d.templateEntries t) (fun d e =>
    if e.2.pend = 2 then (d.putEntry e.1 { e.2 with pend := 3 }).bump 0x3C02_03 else d)
  let wpl := d.templateWpl x
  let d := d.each ((List.range c.layers).map (fun l => (List.range (prefixBlocks c.tokens x.prefixLen)).map (fun j => (l, j)))).flatten
    (fun d e =>
      let y := d.entryAt (entryAddr x.list wpl e.1 e.2)
      let ns := y.names
      d.each ns (fun d n => d.onSlug n (fun s => { s with fill := min c.tokens (x.prefixLen - c.tokens * e.2) })))
  ({ d with slug := { d.slug with built := d.slug.built ++ [t] } }).updTemplate t (fun x =>
    { x with setId := d.activeSetId, version := d.rd 0x3E12_05, imported := false })

/-- A decode step: every row has one position more, and waits for the Text Unit. -/
def Dev.commitStep (d : Dev) (f : Forme) : Dev :=
  let steps := d.text.steps ++ [(d.frameCount % 2 ^ 32, f)]
  Dev.each { d with text := { d.text with steps := steps } } f.seqs (fun d i =>
    if (d.seqEnt i).state = 2 then
      let x := kvGet SeqSt.init d.seqs i
      let d := d.advanceSeq i ((d.seqEnt i).position + 1)
      { d with seqs := kvPut SeqSt.init d.seqs i { x with due := true, ready := false } }
    else d)

/-- The records of a page side are committed (R9, R23). -/
def Dev.commitRecords (d : Dev) (p : PageSide) (fs : List FieldIn) : Dev :=
  if p.bare.isSome ∨ p.group.isSome then d
  else
    let q := { p with fields := structured fs p.fields, late := p.isLate d.now }
    (d.updPage p.ring p.seq (fun _ => { q with group := some (groupBytes q d.now) }.dropBuffers)).settleRings

/-- Statistics blocks that a committed forme stored wait for the fold (R85); those of other attempts are dropped. -/
def Dev.queueFolds (d : Dev) (id : Nat) : Dev :=
  let bs := ((d.cores.map (fun c => c.2.blocks.filter (fun b => b.1 = id))).flatten).insertionSort (fun a b => a.2 ≤ b.2)
  let d := { d with plate := { d.plate with folds := d.plate.folds ++ bs } }
  { d with cores := d.cores.map (fun c => (c.1, { c.2 with blocks := c.2.blocks.filter (fun b => b.1 ≠ id) })) }

/-- The result segments of a stored block of 64 lanes, at lanes 0 and 32. An unsplit MSE leaves the second half without a
result, and the manual does not say how the fold tells it from a segment: the model takes a half of sixteen lanes +0 for none
(DESIGN CHOICE, log entry 137). -/
def Dev.segmentsOf (d : Dev) (addr : Nat) : List (List F32) :=
  let l := (List.range 64).map (fun i => (BitVec.ofNat 32 (d.mrd (addr + 4 * i) 4) : F32))
  [l.take 16, (l.drop 32).take 16].filter (fun s => !s.all (· = 0#32))

/-- The blocks of an attempt that restarts or is abandoned are discarded, and their segments counted (R85, R86); those of a decode
step that the Text Unit rejects wait for the fold already (R249). -/
def Dev.dropBlocks (d : Dev) (id : Nat) : Dev :=
  let bs := (d.cores.map (fun c => c.2.blocks.filter (fun b => b.1 = id))).flatten ++ d.plate.folds.filter (fun b => b.1 = id)
  let n := ((bs.map (fun b => (d.segmentsOf b.2).length)).sum)
  { d.bumpBy 0x2440_05 n with
    cores := d.cores.map (fun c => (c.1, { c.2 with blocks := c.2.blocks.filter (fun b => b.1 ≠ id) })),
    plate := { d.plate with folds := d.plate.folds.filter (fun b => b.1 ≠ id) } }

/-- The effect of a commit, by kind. -/
def Dev.commitKind (d : Dev) (f : Forme) (res : CommitIn) : Dev :=
  match f.kind, d.pageOf f with
  | 0, some p => d.commitBand f p
  | 1, some p => d.commitFinish p (match res with | .boxes l => l | _ => [])
  | 2, some p => d.commitGeometry f p (match res with | .handoff bad => bad | _ => [])
  | 3, _ => d.commitEncoder f
  | 4, _ => d.commitPrefix f.ref
  | 5, _ => d.each f.seqs (fun d i => d.joinBatch (d.recomputeEnd i) i)
  | 7, _ => d.commitStep f
  | 8, some p => d.commitRecords p (match res with | .fields fs => fs | _ => [])
  | 9, _ => match res with
    | .step loss grads => d.adaptCommit f loss grads
    | _ => d.adaptCommit f 0#32 []
  | _, _ => d

/-- A box list that a layout finish forme delivers breaks R182: 0801h, found by the hub unit (R289). -/
def Dev.badBoxes (d : Dev) (f : Forme) (res : CommitIn) : Bool :=
  f.kind = 1 && (match d.pageOf f, res with
    | some p, .boxes l => !boxListOk p.seq l
    | some _, _ => true
    | none, _ => false)

/-- May a forme commit: in its last frame, without a fault, its tags complete, its unit's part done (R285)? -/
def Dev.mayCommit (d : Dev) (f : Forme) : Bool :=
  f.group.isSome && f.framesLeft ≤ 1 && f.fault = 0 && d.tagsDone f.id && (f.kind ≠ 2 || f.ran)

/-- FORME_COMMIT: the end of a forme's slot in its last frame. -/
def formeCommit (id : Nat) (res : CommitIn) (d : Dev) : Dev :=
  match d.forme? id with
  | none => d
  | some f =>
    if !d.mayCommit f then d
    else if d.badBoxes f res then
      let pl := d.formePlate f
      ((d.geometryStatus 0x0801 f.firstSeq).faultForme id 0x0801).charge 0x0801 1 pl.1 pl.2
    else (((d.dropForme id).queueFolds id).commitKind f res).bump 0x2100_03

/-! ## Abandonment (R292) -/

/-- A forme past ATTEMPT_LIMIT is abandoned. -/
def Dev.abandon (d : Dev) (f : Forme) : Dev :=
  let d := ((d.dropForme f.id).dropEntries f.id).dropBlocks f.id
  let d := (d.bump 0x2100_05).leaveKind f 0x0330
  if f.kind ≤ 2 then d else d.emergency 0x0330 clsOutcome 0

/-! ## Cut-offs (R15, R293) -/

/-- Regions whose sequence has not joined the decode batch end without tokens. -/
def Dev.cutRegions (d : Dev) (p : PageSide) : Dev :=
  d.each p.reading (fun d r =>
    match d.seqs.find? (fun s => s.2.ring = p.ring && s.2.page = p.seq && s.2.region = r) with
    | some s => if (d.seqEnt s.1).state = 2 ∨ (d.seqEnt s.1).state = 3 then d else d.cutSeq s.1
    | none => match d.page? p.ring p.seq with
      | some q => d.endRegion q r 0x03F0
      | none => d)

/-- 250 ms after the start point: layout and geometry formes not committed are abandoned, 0331h; else the regions that
have not joined the decode batch end. -/
def layoutCutoff (ring seq : Nat) (d : Dev) : Dev :=
  match d.page? ring seq with
  | none => d
  | some p =>
    if p.bare.isSome ∨ p.group.isSome then d
    else
      let open_ := d.formes.filter (fun f => f.kind ≤ 2 && f.pages.contains (ring, seq))
      if open_.isEmpty ∧ p.geometryDone then d.cutRegions p
      else (d.bumpBy 0x2100_05 open_.length).barePage p 0x0331

/-- 295 ms after the start point: a bare group in place of the structuring forme's records, 0332h. -/
def structuringCutoff (ring seq : Nat) (d : Dev) : Dev :=
  match d.page? ring seq with
  | none => d
  | some p =>
    if p.bare.isSome ∨ p.group.isSome then d else d.barePage p 0x0332

end Sys2Proof.Machine
end

