-- ==== Sys2Proof/Machine/Engine.lean ====
section
/-! DEFINITION. The data engines at work (R46, R47, Table 3-3): launches whose descriptor has landed, and the words that
move when they reach their banks. -/

namespace Sys2Proof.Machine

/-- A transfer's words move, by its D_OP. -/
def Dev.moveNow (d : Dev) (c : Fin 96) (x : CoreSt) (l : Launch) (t : Xfer) : Dev :=
  match l.op with
  | 1 => guardMove (fun d y => if y.isFill then d.fillRows y else d.copyRows 4 y) d c x l t
  | 2 => ddrReadMove d c x l t
  | 3 => guardMove (fun d y => d.copyRows 5 y) d c x l t
  | 4 => walkMove l.mode d c x l t
  | 5 => remoteWriteMove d c x l t
  | _ => match l.table with
    | some w => loadTable d c x l t w
    | none => tableRead d c x l t

/-- A core's results up to a slot cycle take effect; one of them may stop it. -/
def Dev.toCycle (d : Dev) (c : Fin 96) (cycle : Nat) : Dev :=
  let x := d.core c
  if x.running ∧ ¬x.frozen then
    let r := (d.coreAt c cycle).until_ cycle
    if r.2 = 0 then d.setCore c r.1 else d.stopCore c r.1 r.2
  else d

/-- A launch's descriptor is used in the cycle in which it lands (R47): its words move 8 cycles on (Table 3-3), or it is no
descriptor (R290), or its bank is gated (R105). -/
def Dev.useDescriptor (d : Dev) (c : Fin 96) (x : CoreSt) (l : Launch) (t : Xfer) : Dev :=
  let y := { x with launches := x.launches.erase l, tags := kvErase x.tags l.tag }
  if d.gatedAt l.desc then
    (if x.running ∧ x.forme = t.forme then d.stopCore c { y with bundle := l.bundle } 0x0401
     else (d.setCore c y).refuseTransfer c t 0x0401)
  else if l.bad ∨ !descPairsOk l.word then
    d.badPaired c y t l.desc
  else d.setCore c { x with launches := updIf (· = l) (fun l => { l with moving := true, due := l.due + 8 }) x.launches }

/-- What comes next of one launch. One whose tag is gone does nothing more. -/
def Dev.stepLaunch (d : Dev) (c : Fin 96) (l : Launch) : Dev :=
  let d := d.toCycle c l.due
  let x := d.core c
  let y := { x with launches := x.launches.erase l }
  if l ∈ x.launches then
    match x.tags.find? (fun t => t.1 = l.tag) with
    | none => d.setCore c y
    | some t =>
      if l.moving then ((d.setCore c y).moveNow c y l t.2).each l.fills (fun d e => d.publishFill e.1 e.2)
      else d.useDescriptor c x l t.2
  else d

/-- The first launch that is due by a slot cycle; of those due together the one issued first. -/
def nextLaunch (ls : List Launch) (cycle : Nat) : Option Launch :=
  (ls.filter (fun l => l.due ≤ cycle)).foldl (fun best l =>
    match best with
    | none => some l
    | some b => if l.due < b.due then some l else some b) none

/-- The launches of a core that are due by a slot cycle, in order. -/
def Dev.engines (d : Dev) (c : Fin 96) (cycle : Nat) : Nat → Dev
  | 0 => d
  | fuel + 1 =>
    match nextLaunch (d.core c).launches cycle with
    | none => d
    | some l => (d.stepLaunch c l).engines c cycle fuel

/-- A core's data engine comes to a slot cycle. -/
def Dev.engineTo (d : Dev) (c : Fin 96) (cycle : Nat) : Dev := d.engines c cycle (3 * (d.core c).launches.length + 1)

/-- The cycle by which every word of some launches has moved; lat is the landing latency, which the word of a table load
takes besides. -/
def lastMove (lat : Nat) (ls : List Launch) : Nat :=
  ls.foldl (fun m l => max m (l.due + (if l.moving then 0 else 8) + if l.op = 6 ∧ l.table.isNone then lat else 0)) 0

/-- Every launch of a core has moved its words: the slot is over. -/
def Dev.engineEnd (d : Dev) (c : Fin 96) : Dev := d.engineTo c (lastMove d.landing (d.core c).launches)

/-- Every core's launches have moved their words. -/
def Dev.enginesEnd (d : Dev) : Dev :=
  d.each ((d.cores.filter (fun (e : Nat × CoreSt) => !e.2.launches.isEmpty)).map (·.1)) (fun d n =>
    if h : n < 96 then d.engineEnd ⟨n, h⟩ else d)

/-- TRANSFER_COMPLETE: the words of the tag's launch have moved by then. -/
def transferComplete (c : Fin 96) (tag : Nat) (how : TransferEnd) (d : Dev) : Dev :=
  transferEnd c tag how (d.engineTo c (lastMove d.landing ((d.core c).launches.filter (fun l => l.tag = tag))))

/-- WAIT_CYCLE, with the launches that move during the wait. -/
def waitUntil (a : At) (count : Nat) (d : Dev) : Dev :=
  waitCycle a count (if (d.core a.core).ended then d else d.engineTo a.core (max a.cycle count))

end Sys2Proof.Machine
end

