-- ==== Sys2Proof/Machine/Power.lean ====
section
/-! DEFINITION. Thermal, power and refresh loops, protective limits and background work (R98, R296 to R300, R371 to R374,
R425, R431). -/

namespace Sys2Proof.Machine

/-! ## Frequency points (R41, R297) -/

/-- The point that the requests ask for: the largest number, 2 under a protective limit or shutdown. -/
def Dev.wantedPoint (d : Dev) : Nat :=
  if d.power.protective ∨ d.power.shutdown then 2 else max (d.rd 0x2201_01) (max d.power.thermal d.power.power)

/-- LOOP_POINT is the larger of the thermal and power points. -/
def Dev.loopPoint (d : Dev) : Dev := d.wr 0x2201_03 (max d.power.thermal d.power.power)

/-- FREQ_REQUEST: the last request replaces a pending one; it takes effect at a frame start (R41, R302). -/
def freqRequestDo (v : Nat) (d : Dev) : Dev := d.wr 0x2201_01 v

def Dev.floorPoint (d : Dev) : Nat := d.rd 0x2201_04

/-- A signed 16-bit entry. -/
def Dev.rdTemp (d : Dev) (key : Nat) : Int := signed 16 (d.rd key)

def Dev.tjMax (d : Dev) : Int := d.rdTemp 0x2202_03

/-- TJ_STEP and TJ_STEP − TJ_HYST in 0.1 degrees. -/
def Dev.tjStep (d : Dev) : Int := 10 * d.rd 0x2202_01
def Dev.tjBack (d : Dev) : Int := 10 * ((d.rd 0x2202_01 : Int) - d.rd 0x2202_02)

/-! ## Thermal and power loops (R297, R298) -/

/-- The thermal loop stands at FLOOR_POINT: 0341h once. -/
def Dev.thermalEdge (d : Dev) : Dev :=
  if d.power.thermal ≥ d.floorPoint ∧ !d.power.atThermal then
    (({ d with power := { d.power with atThermal := true } }).bump 0x2205_02).event 0x0341 0
  else d

/-- TJ_MAX has stayed at or above TJ_STEP for 100 ms. -/
def thermalPointUp (d : Dev) : Dev :=
  if d.tjMax ≥ d.tjStep then
    let t := if d.power.thermal < d.floorPoint then d.power.thermal + 1 else d.power.thermal
    let left := d.power.thermal < d.floorPoint
    (({ d with power := { d.power with thermal := t, atThermal := d.power.atThermal && !left } }).loopPoint).thermalEdge
  else d

/-- TJ_MAX has stayed at or below TJ_STEP − TJ_HYST for 10 s. -/
def thermalPointDown (d : Dev) : Dev :=
  if d.tjMax ≤ d.tjBack ∧ d.power.thermal > 0 then
    ({ d with power := { d.power with thermal := d.power.thermal - 1, atThermal := false } }).loopPoint
  else d

/-- POWER_CAP_W in mW. -/
def Dev.capMw (d : Dev) : Nat := 1000 * d.power.cap

/-- The power cap loop stands at FLOOR_POINT: 0345h once. -/
def Dev.powerEdge (d : Dev) : Dev :=
  if d.power.power ≥ d.floorPoint ∧ !d.power.atPower then
    (({ d with power := { d.power with atPower := true } }).bump 0x2205_03).event 0x0345 0
  else d

/-- POWER_MW has stayed above POWER_CAP_W for 1 s. -/
def powerPointUp (d : Dev) : Dev :=
  if d.capMw ≠ 0 ∧ d.rd 0x2204_02 > d.capMw then
    let t := if d.power.power < d.floorPoint then d.power.power + 1 else d.power.power
    let left := d.power.power < d.floorPoint
    (({ d with power := { d.power with power := t, atPower := d.power.atPower && !left } }).loopPoint).powerEdge
  else d

/-- POWER_MW has stayed below 0.9 · POWER_CAP_W for 10 s. -/
def powerPointDown (d : Dev) : Dev :=
  if 10 * d.rd 0x2204_02 < 9 * d.capMw ∧ d.power.power > 0 then
    ({ d with power := { d.power with power := d.power.power - 1, atPower := false } }).loopPoint
  else d

/-! ## Protective limits (R299, R300) -/

/-- A protective frequency step: point 2 at the next frame start. -/
def Dev.protectiveStep (d : Dev) (status source : Nat) : Dev :=
  ({ d with power := { d.power with protective := true } }.override status source).event status 0

/-- The hottest die, the lowest of equals. -/
def Dev.hottest (d : Dev) : Nat :=
  ((List.range 8).find? (fun n => d.rdTemp (dkey 0x2203 (n + 1)) = d.tjMax)).getD 0

/-- The limits on TJ_MAX (Table 14-12). -/
def Dev.tjLimits (d : Dev) : Dev :=
  if d.tjMax ≥ 1250 then d.protectiveShutdown 0x0343 d.hottest
  else if d.tjMax ≥ 1100 ∧ !d.power.tempOverride then
    ({ d with power := { d.power with tempOverride := true } }).protectiveStep 0x0342 d.hottest
  else d

/-- One die's reading; a die in calibration keeps its previous value. -/
def Dev.dieTemp (d : Dev) (e : Nat × Option Int) : Dev :=
  match e.2 with
  | some v => if d.power.calibrating = some e.1 then d else d.wri (dkey 0x2203 (e.1 + 1)) 16 v
  | none => if d.power.calibrating = some e.1 then d else d.protectiveShutdown 0x0343 e.1

/-- TJ_MAX, the highest of the eight dies, as sampled once per frame or tick (R298). -/
def Dev.sampleTemps (d : Dev) (t : TempsIn) : Dev :=
  let d := d.each ((t.dies.take 8).zipIdx.map (fun e => (e.2, e.1))) Dev.dieTemp
  let ts := (List.range 8).map (fun n => d.rdTemp (dkey 0x2203 (n + 1)))
  let d := d.wri 0x2202_03 16 (ts.foldl max (ts.headD 0))
  ({ d with power := { d.power with calibrating := none } }).tjLimits

/-- TJ_MAX has stayed at or below TJ_STEP − TJ_HYST for 10 s: the protective step ends. -/
def protectiveStepRelease (d : Dev) : Dev :=
  if d.tjMax ≤ d.tjBack then
    { d with power := { d.power with protective := false, tempOverride := false } }
  else d

/-! ## PMBus (R425) -/

/-- A rail's answer: a warning steps the frequency, a fault or the third miss in a row shuts down. -/
def Dev.railRead (d : Dev) (r : RailRead) : Dev :=
  if !r.answered then
    let n := kvGet 0 d.power.misses r.rail + 1
    let d := { d with power := { d.power with misses := kvPut 0 d.power.misses r.rail n } }
    if n ≥ 3 then d.protectiveShutdown 0x0343 r.rail else d
  else
    let d := { d with power := { d.power with misses := kvErase d.power.misses r.rail } }
    if r.ocFault ∨ r.uvFault then d.protectiveShutdown 0x0343 r.rail
    else if r.ocWarning ∧ !d.power.railLimit then
      ({ d with power := { d.power with railLimit := true } }).protectiveStep 0x0344 r.rail
    else d

/-- The regulators are read: their limits, and whether one is in force. -/
def Dev.railsRead (d : Dev) (rails : List RailRead) : Dev :=
  let d := d.each rails Dev.railRead
  if rails.any (fun r => r.answered && (r.ocWarning || r.ocFault || r.uvFault)) then
    { d with power := { d.power with railLimit := true } }
  else { d with power := { d.power with railLimit := false } }

/-- POWER_MW: the mean over the last second of the sums of READ_POUT. -/
def Dev.powerMean (d : Dev) (rails : List RailRead) : Dev :=
  let p := ((rails.filter (·.answered)).map (·.milliwatt)).sum
  let ps := (p :: d.power.polls).take 100
  ({ d with power := { d.power with polls := ps } }).wr 0x2204_02 (ps.sum / ps.length)

/-- The reading of every 10 ms, with the temperatures sampled then. -/
def pmbusPoll (rails : List RailRead) (temps : TempsIn) (d : Dev) : Dev :=
  let d := { d with power := { d.power with cap := d.rd 0x2204_01 } }
  ((d.powerMean rails).railsRead rails).sampleTemps temps

/-- The reading on a falling edge of PMB_ALERT_N. -/
def pmbusAlert (rails : List RailRead) (d : Dev) : Dev := d.railsRead rails

/-- THERMTRIP_N is low from a protective shutdown to the next full reset (R431). -/
def Dev.thermtripLow (d : Dev) : Bool := d.power.shutdown

/-! ## Calibration (R296, Table 14-10) -/

/-- A die's sensors calibrate for one frame: its reading holds its previous value. -/
def sensorCalibration (die : Nat) (d : Dev) : Dev := { d with power := { d.power with calibrating := some die } }

/-! ## Refresh (R371 to R373) -/

/-- REFRESH_RATE as the loop last set it takes effect: every populated channel at 1× or 2×. -/
def Dev.setRefresh (d : Dev) (twice : Bool) : Dev := d.wr 0x4103_03 (if twice then d.rd 0x4100_02 else 0)

/-- The loop needs 2× and REFRESH_ENV is 1: it stays at 1× and raises 0412h once. -/
def Dev.refreshEdge (d : Dev) : Dev :=
  if d.power.atRefresh then d
  else ((({ d with power := { d.power with atRefresh := true, refreshTwice := false } }).bump 0x4103_05).event 0x0412 0)

/-- DRAM_TEMP of a shadow, in 0.1 degrees, moves the loop for the next shadow (R372). -/
def Dev.refreshLoop (d : Dev) (v : Int) : Dev :=
  let up : Int := 10 * d.rd 0x4103_02
  if v ≥ up ∨ (v > up - 30 ∧ (d.power.refreshTwice ∨ d.power.atRefresh)) then
    if d.rd 0x4103_01 = 1 then d.refreshEdge
    else { d with power := { d.power with refreshTwice := true, atRefresh := false } }
  else if v ≤ up - 30 then
    { d with power := { d.power with refreshTwice := false, atRefresh := false, refreshHeld := false } }
  else d

/-- 2× at once, held, whatever REFRESH_ENV is (R373). -/
def Dev.refreshOverride (d : Dev) : Dev :=
  (({ d with power := { d.power with refreshHeld := true } }.setRefresh true).overrideOpen 0x0413).event 0x0413 0

/-- The protective limits of DRAM_TEMP (R373): each that holds acts. -/
def Dev.dramLimits (d : Dev) (v : Int) : Dev :=
  let d := if v ≥ 850 ∧ d.rd 0x4103_03 = 0 ∧ !d.power.refreshHeld then d.refreshOverride else d
  if v ≥ 950 then d.drawn.protectiveShutdown 0x0414 (d.draw % 256) else d

/-- The refresh shadow's work: the rate set before takes effect, the temperature is read, loop and limits follow. In
Proof it begins once a channel has trained. -/
def Dev.refreshWork (d : Dev) (dram : Option Int) : Dev :=
  if d.rd 0x4100_02 = 0 ∨ (d.stage = 2 ∧ d.ddrTrained = []) then d
  else
    let d := d.setRefresh (d.power.refreshTwice || d.power.refreshHeld)
    match dram with
    | none => d.drawn.protectiveShutdown 0x0414 (d.draw % 256)
    | some v => ((d.wri 0x4103_04 16 v).refreshLoop v).dramLimits v

/-! ## Scrub (R98) -/

/-- The row pointers of a die's banks move on by the SCRUB_WORDS in force; gated banks are not scrubbed. -/
def Dev.scrubRows (d : Dev) (die words : Nat) : Dev :=
  let bs := ((List.range 512).map (· + 512 * die)).filter (fun b => !d.plate.gated.contains b)
  d.each bs (fun d b =>
    let p := kvGet 0 d.scrubPos b + words
    ({ d with scrubPos := kvPut 0 d.scrubPos b (p % 1024) }).bumpBy 0x2301_02 (p / 1024))

/-- Does a die's scrub window read a word: is it in the next rows of a bank that is not gated? -/
def Dev.scrubReads (d : Dev) (die words a : Nat) : Bool :=
  let r := d.bankRow a
  inGalley a && a / dieBytes = die && !d.gatedAt a && (r.2 + 1024 - kvGet 0 d.scrubPos (512 * die + r.1)) % 1024 < words

/-- The words that a die's scrub window finds: those whose check bits are poisoned, and those that have failed in their
cells. -/
def Dev.scrubFinds (d : Dev) (die words : Nat) (s : ScrubIn) : List Nat :=
  ((s.galley.map (· / 64) ++ d.poisoned).eraseDups).filter (fun w => d.scrubReads die words (w * 64))

/-- A scrub detection: counted and logged; a word of a restorable segment is rewritten, any other is left as it is. -/
def Dev.scrubHit (d : Dev) (w : Nat) : Dev :=
  let d := (d.detection (w * 64) 2).bump 0x2301_03
  if d.restorable (w * 64) then d.restoreWord w else d

/-- One die's scrub window. -/
def Dev.scrubDie (d : Dev) (die words : Nat) (s : ScrubIn) : Dev :=
  (d.scrubRows die words).each (d.scrubFinds die words s) Dev.scrubHit

end Sys2Proof.Machine
end

