-- ==== Sys2Proof/Machine/Firmware.lean ====
section
/-! DEFINITION. Firmware, containers and identity (R395 to R410, R437): the boot record and decision, loads, packages,
confirmation, attestation, tokens and owner keys; and how the dictionary reports an abort. -/

namespace Sys2Proof.Machine

/-! ## Aborts (R337, Table 16-14) -/

/-- An abort is counted and recorded. -/
def Dev.noteAbort (d : Dev) (key code : Nat) : Dev :=
  let d := ((d.bump 0x4801_01).wr 0x4801_06 code).wr 0x4801_07 key
  { d with net := { d.net with lastAbort := some d.now } }

/-- A write or read on a path is answered with an abort. -/
def Dev.abort (d : Dev) (p : Path) (key code : Nat) : Dev := (d.noteAbort key code).emit (.sdoAbort p key code)

/-! ## The boot record (Table 20-5, R397) -/

def BootRec.blank : BootRec := ⟨0, 0, false, 0, false, false⟩

/-- The record in force: the well-formed copy with the higher GEN, or all defaults. -/
def Nv.record (n : Nv) : BootRec :=
  match n.boot0, n.boot1 with
  | some a, some b => if a.gen < b.gen then b else a
  | some a, none => a
  | none, some b => b
  | none, none => .blank

/-- Change the record: the copy with the lower GEN, or one not well formed, is written with GEN one greater. -/
def Nv.write (n : Nv) (r : BootRec) : Nv :=
  let r := { r with gen := (n.record.gen + 1) % 2 ^ 32 }
  match n.boot0, n.boot1 with
  | none, _ => { n with boot0 := some r }
  | some _, none => { n with boot1 := some r }
  | some a, some b => if a.gen < b.gen then { n with boot0 := some r } else { n with boot1 := some r }

def Nv.slot (n : Nv) (k : Nat) : FwSlot := if k = 0 then n.slot0 else n.slot1

def Nv.setSlot (n : Nv) (k : Nat) (s : FwSlot) : Nv := if k = 0 then { n with slot0 := s } else { n with slot1 := s }

/-! ## Containers (R396, Tables 20-2 to 20-4) -/

def ckTotal (c : ContainerIn) : Nat := bits c.header 479 448
def ckCount (c : ContainerIn) : Nat := bits c.header 415 384
def ckVersion (c : ContainerIn) : Nat := bits c.header 351 320
def ckKind (c : ContainerIn) : Nat := bits c.header 279 272
def ckKey (c : ContainerIn) : Nat := bits c.header 271 264
def ckSv (c : ContainerIn) : Nat := bits c.header 263 256

/-- KIND that a content is of. -/
def contentKind : ContentIn → Nat
  | .firmware _ => 1
  | .plateSet _ => 2
  | .fount _ => 3
  | .grammar _ => 4
  | .delta _ => 5

/-- Targets (Table 20-6): does a KIND match one? -/
def kindMatches (target kind : Nat) : Bool :=
  if target ≤ 1 then kind = 2
  else if 0x10 ≤ target ∧ target < 0x18 then kind = 3
  else if 0x20 ≤ target ∧ target < 0x40 then kind = 4
  else target = 0x40 && (kind = 1 || kind = 5)

def isTarget (t : Nat) : Bool := t ≤ 1 || (0x10 ≤ t && t < 0x18) || (0x20 ≤ t && t ≤ 0x40)

/-- A segment entry's pairs are well formed and its reserved bits zero (Table 20-3). -/
def segEntryOk (e : Nat) : Bool := pairsOk e [448, 384] && bits e 375 0 = 0

/-- OFFSET and LENGTH of each segment. -/
def ckSegments (c : ContainerIn) : List (Nat × Nat) := c.table.map (fun e => (bits e 479 448, bits e 415 384))

/-- Check 1, KIND apart. -/
def headerWellFormed (c : ContainerIn) : Bool :=
  pairsOk c.header [448, 384, 320] && bits c.header 319 288 = 0x4741_4853 && bits c.header 287 280 = 1 &&
    bits c.header 255 0 = 0 && c.table.all segEntryOk && 1 ≤ ckCount c && ckCount c ≤ 8192 && ckCount c = c.table.length &&
    contentKind c.content = ckKind c && (ckKind c ≠ 1 || ckSv c ≤ 64)

/-- Segments of the container lie apart. -/
def segmentsApart : List (Nat × Nat) → Bool
  | [] => true
  | a :: r => r.all (fun b => !overlap a.1 a.2 b.1 b.2) && segmentsApart r

/-- Check 2 against a target of a size. -/
def boundsOk (size : Nat) (c : ContainerIn) : Bool :=
  ckTotal c ≤ size && (ckSegments c).all (fun s => s.1 % 64 = 0 && s.1 + s.2 ≤ ckTotal c) && segmentsApart (ckSegments c)

/-- Check 3. -/
def Nv.keyOk (n : Nv) (kind key : Nat) : Bool :=
  if key < 4 then !bit n.plovantRevoked key
  else 8 ≤ key && key < 16 && 2 ≤ kind && kind ≤ 4 && n.ownerKeys.any (fun e => e.1 = key - 8) && !bit n.ownerRevoked (key - 8)

/-- Checks 1 to 4, made as soon as the manifest has arrived: the code of the first that fails, or 0. -/
def Nv.manifestStatus (n : Nv) (kindOk : Nat → Bool) (size : Nat) (c : ContainerIn) : Nat :=
  if !headerWellFormed c || !kindOk (ckKind c) then 0x0701
  else if !boundsOk size c then 0x0702
  else if !n.keyOk (ckKind c) (ckKey c) then 0x0703
  else if !c.signatureOk then 0x0704
  else 0

/-- Bytes of a firmware slot (Table 20-1). -/
def fwSlotBytes : Nat := 23 * 2 ^ 20

/-- Bytes of a container before its first segment: header, segment table and signature. -/
def manifestBytes (c : ContainerIn) : Nat := 128 + 128 * c.table.length

/-- A full image's bytes as they stand in a slot. -/
def slotBytes (c : ContainerIn) : List Byte :=
  let body := match c.content with | .firmware bs => bs | _ => []
  (leBytes 64 c.header ++ (c.table.map (leBytes 128)).flatten ++ body).take (min (ckTotal c) fwSlotBytes)

/-- A full image as it stands in a slot. -/
def imageOf (c : ContainerIn) : FwImage :=
  let early := if !headerWellFormed c || ckKind c ≠ 1 then 0x0701 else if !boundsOk fwSlotBytes c then 0x0702 else 0
  let late := if !c.signatureOk then 0x0704 else if !c.digestsOk then 0x0705 else 0
  ⟨ckVersion c, ckSv c, ckKey c, c.digest, if early ≠ 0 then early else late, slotBytes c⟩

/-- Checks 1 to 6 on a slot: the code of the first that fails, or 0. -/
def Nv.slotStatus (n : Nv) (k : Nat) : Nat :=
  match (n.slot k).image with
  | none => 0x0701
  | some i =>
    if i.status = 0x0701 ∨ i.status = 0x0702 then i.status
    else if !n.keyOk 1 i.keyId then 0x0703
    else if i.status ≠ 0 then i.status
    else if i.securityVersion < n.minSv then 0x070B
    else 0

/-! ## The boot decision (R398) -/

/-- The slot that failed its trial is shown as rejected. -/
def Nv.reject (n : Nv) (k : Nat) : Nv := n.setSlot k { n.slot k with state := 4 }

/-- A slot in which a write was cut short holds nothing that verifies. -/
def Nv.cutShort (n : Nv) (k : Nat) : Nv := if (n.slot k).state = 1 then n.setSlot k { n.slot k with state := 5 } else n

/-- What the ROM decides: the memory after it, the boot status, and the slot booted, none for recovery. -/
def Nv.decide (n : Nv) : Nv × Nat × Option Nat :=
  let r := n.record
  let o := 1 - r.active
  let used := r.trial && r.tries = 2 && r.previousValid
  let back : BootRec := ⟨0, o, false, 0, false, true⟩
  let n1 := if used then (n.write back).reject r.active
    else if r.trial && r.tries < 2 then n.write { r with tries := r.tries + 1 } else n
  let st := if used then 0x0708 else 0
  let s := if used then o else r.active
  if n1.slotStatus s = 0 then (n1, st, some s)
  else if !used && r.previousValid && n1.slotStatus o = 0 then ((n1.write back).reject s, n1.slotStatus s, some o)
  else (n1, 0x070E, none)

/-! ## What runs -/

/-- The running image. -/
def Dev.runningImage (d : Dev) : FwImage := ((d.nv.slot d.fw.running).image).getD ⟨0, 0, 0, [], 0x0701, []⟩

/-- The running image is on trial. -/
def Dev.onTrial (d : Dev) : Bool := d.nv.record.trial && d.nv.record.active = d.fw.running && d.stage ≠ 4

def Dev.setNv (d : Dev) (n : Nv) : Dev := { d with nv := n }

/-- SLOTn_STATE: 3 for the slot that runs. -/
def Dev.slotState (d : Dev) (k : Nat) : Nat := if d.stage ≠ 4 ∧ d.fw.running = k then 3 else (d.nv.slot k).state

def Dev.slotVersion (d : Dev) (k : Nat) : Nat := match (d.nv.slot k).image with | some i => i.version | none => 0

/-! ## Loads (R400) -/

def Dev.loading (d : Dev) (t : Nat) : Bool := d.fw.loads.any (fun l => l.target = t) || (t = 0x40 && d.fw.building.isSome)

/-- Key of a target's STATE and of its STATUS; none for a firmware package. -/
def stateKey (t : Nat) : Option (Nat × Nat) :=
  if t ≤ 1 then some (areaKey t 2, areaKey t 3)
  else if t < 0x18 then some (fountKey (t - 0x10) 1, fountKey (t - 0x10) 8)
  else if t < 0x40 then some (grammarKey (t - 0x20) 1, grammarKey (t - 0x20) 8)
  else none

/-- Size of a target's place. -/
def Dev.targetBytes (d : Dev) (t : Nat) : Nat :=
  if t ≤ 1 then d.layoutBytes (1 + t)
  else if t < 0x18 then d.layoutBytes (3 + (t - 0x10))
  else if t < 0x40 then d.layoutBytes (11 + (t - 0x20))
  else 64 * 2 ^ 20

/-- Status with which a load is refused before it starts, 0 for none: the load's own checks, then readiness (R346); 0103h is
R5, R309 and R312. -/
def Dev.loadCheck (d : Dev) (t : Nat) : Nat :=
  if d.loading t then 0x0709
  else if t ≤ 1 ∧ (d.areaState t = 3 ∨ d.plate.pendingArea = some t) then 0x0318
  else if 0x10 ≤ t ∧ t < 0x40 ∧ ((stateKey t).map (fun k => d.rd k.1)) = some 2 then 0x0509
  else if d.stage = 4 ∨ !d.ddrReady ∨ (t = 0x40 ∧ d.nv.record.trial) then 0x0103
  else 0

/-- A load refused before it starts leaves its status with its target (R129, R260); one refused by R5 changes nothing. -/
def Dev.noteRefusal (d : Dev) (t st : Nat) : Dev :=
  match stateKey t with
  | some k => if st = 0 ∨ st = 0x0103 then d else d.wr k.2 st
  | none => d

/-- LOAD_STATE and LOAD_STATUS of a path. -/
def Dev.showLoad (d : Dev) (p : Option Path) (state status : Nat) : Dev :=
  match p with
  | some p => (d.wrPath p 0x4403_03 state).wrPath p 0x4403_04 status
  | none => d

/-- A load starts: its target is loading. -/
def Dev.startLoad (d : Dev) (t : Nat) (p : Option Path) (foe : Bool) (job : Option (Nat × Nat)) : Dev :=
  let before := match stateKey t with | some k => d.rd k.1 | none => 0
  let l : Load := ⟨t, p, job, foe, before, none, none⟩
  let d : Dev := { d with fw := { d.fw with loads := d.fw.loads ++ [l] } }
  let d := match stateKey t with | some k => d.wr k.1 1 | none => d
  (d.showLoad p 1 0).followBits

/-- A load is over: it is reported where it came from. FoE answers a refusal with an error. -/
def Dev.endLoad (d : Dev) (l : Load) (status count : Nat) : Dev :=
  let d := { d with fw := { d.fw with loads := d.fw.loads.filter (fun m => m.target ≠ l.target) } }
  let d := d.showLoad l.path (if status = 0 then 2 else 3) status
  let d := if l.foe ∧ status ≠ 0 then d.emit (.foeError 0x8000) else d
  (d.completeJob l.job status count).followBits

/-- Refused at a manifest check: the target is as it was, its STATUS records the refusal. -/
def Dev.refuseEarly (d : Dev) (l : Load) (status read : Nat) : Dev :=
  let d := match stateKey l.target with | some k => (d.wr k.1 l.before).wr k.2 status | none => d
  d.endLoad l status read

/-- Refused later, after so many bytes: nothing usable is left in the target. -/
def Dev.refuseAfter (d : Dev) (l : Load) (status read : Nat) : Dev :=
  let d := if status = 0x0310 then d.bump 0x2440_02 else d
  let d := match stateKey l.target with | some k => (d.wr k.1 4).wr k.2 status | none => d
  d.endLoad l status read

/-- Refused once the whole container has been read. -/
def Dev.refuseLate (d : Dev) (l : Load) (status : Nat) : Dev :=
  d.refuseAfter l status ((l.manifest.map ckTotal).getD 0)

/-- The target's earlier contents are given up. -/
def Dev.giveUp (d : Dev) (t : Nat) : Dev :=
  let d := { d with fw := { d.fw with digests := kvErase d.fw.digests t } }
  if t ≤ 1 then { d with plate := { d.plate with areas := kvErase d.plate.areas t } }
  else if t < 0x18 then { d with text := { d.text with founts := kvErase d.text.founts (t - 0x10) } }
  else if t < 0x40 then { d with text := { d.text with grammars := kvErase d.text.grammars (t - 0x20) } }
  else d

/-- What a plate set area holds, with the digest of its manifest. -/
def Dev.heldIn (d : Dev) (t : Nat) : Option (PlateSetIn × List Byte) :=
  ((d.plate.areas.find? (fun e => e.1 = t)).map (·.2)).map (fun ps => (ps, kvGet [] d.fw.digests t))

/-- No byte of a segment was written: the area's contents are those it held before the load (R400). -/
def Dev.keepContents (d : Dev) (l : Load) : Dev :=
  match l.kept with
  | none => d
  | some k =>
    { d with plate := { d.plate with areas := kvInsert d.plate.areas l.target k.1 },
             fw := { d.fw with digests := kvInsert d.fw.digests l.target k.2 } }

def Dev.loadOf (d : Dev) (t : Nat) : Option Load := d.fw.loads.find? (fun l => l.target = t)

/-- Bytes that a load's container may have: its target's place, and the buffer of a job's entry. -/
def Dev.roomFor (d : Dev) (l : Load) : Nat :=
  match l.job.bind (fun j => d.entry? j.1 j.2) with
  | some e => min (d.targetBytes l.target) (bits e.desc 415 384)
  | none => d.targetBytes l.target

/-- Checks 1 to 4 of a load whose manifest has arrived. -/
def Dev.checkManifest (d : Dev) (l : Load) (c : ContainerIn) : Dev :=
  let st := d.nv.manifestStatus (kindMatches l.target) (d.roomFor l) c
  if st ≠ 0 then d.refuseEarly l st (manifestBytes c)
  else
    let kept := d.heldIn l.target
    let ls := updIf (fun (m : Load) => m.target = l.target) (fun m => { m with manifest := some c, kept := kept }) d.fw.loads
    ({ d with fw := { d.fw with loads := ls } }).giveUp l.target

/-- LOAD_MANIFEST_RECEIVED for the load under way to a target. -/
def loadManifestReceived (target : Nat) (c : ContainerIn) (d : Dev) : Dev :=
  match d.loadOf target with
  | some l => if l.manifest.isNone then d.checkManifest l c else d
  | none => d

/-! ### Delta packages (R401, Table 20-7) -/

/-- BASE_DIGEST, TARGET_DIGEST and TARGET_BYTES of a delta header. -/
def deltaBase (x : DeltaIn) : List Byte := x.head.take 64
def deltaTarget (x : DeltaIn) : List Byte := (x.head.drop 64).take 64
def deltaBytes (x : DeltaIn) : Nat := (pairedAt (ofLe ((x.head.drop 128).take 8)) 0).1

/-- A delta header of 136 bytes with a well-formed TARGET_BYTES. -/
def deltaHeadOk (x : DeltaIn) : Bool := x.head.length = 136 && (pairedAt (ofLe ((x.head.drop 128).take 8)) 0).2

/-- Bytes that follow an operation in the stream: those of a LITERAL, padded to 16; none: a reserved OP, a pair that is not
well formed, or a COPY past a base image of so many bytes. -/
def deltaOp (base w : Nat) : Option Nat :=
  let n := bits w 95 64
  if !pairsOk w [64] ∨ bits w 29 0 ≠ 0 then none
  else match bits w 31 30 with
    | 0 => if bits w 63 32 + n ≤ base then some 0 else none
    | 1 => some (16 * ((n + 15) / 16))
    | 2 => some 0
    | _ => none

/-- Bytes that an operation produces: from the base image, from the stream behind it, or zeros. -/
def deltaOut (base : List Byte) (w : Nat) (after : List Byte) : List Byte :=
  let n := bits w 95 64
  match bits w 31 30 with
  | 0 => (base.drop (bits w 63 32)).take n
  | 1 => after.take n
  | _ => List.replicate n 0#8

/-- The bytes that an operation stream produces from a base image; none where it is inconsistent. -/
def deltaRun (base : List Byte) : Nat → List Byte → Option (List Byte)
  | 0, _ => none
  | fuel + 1, bs =>
    if bs.isEmpty then some []
    else if bs.length < 16 then none
    else
      let w := ofLe (bs.take 16)
      match deltaOp base.length w with
      | none => none
      | some m =>
        if bs.length < 16 + m then none
        else (deltaRun base fuel (bs.drop (16 + m))).map (deltaOut base w (bs.drop 16) ++ ·)

/-- The target that a delta package makes from a base image, of TARGET_BYTES bytes. -/
def deltaMakes (base : List Byte) (x : DeltaIn) : Option (List Byte) :=
  (deltaRun base (x.stream.length / 16 + 1) x.stream).filter (fun bs => deltaHeadOk x && bs.length = deltaBytes x)

/-- A package is written into the inactive slot (R401); a delta's base must be what runs. -/
def Dev.buildPackage (d : Dev) (l : Load) (c : ContainerIn) : Dev :=
  let wrongBase : Bool := match c.content with
    | .delta x => decide (deltaBase x ≠ d.runningImage.digest)
    | _ => false
  if wrongBase then d.refuseLate l 0x0706
  else
    let d := d.setNv (d.nv.setSlot (1 - d.fw.running) ⟨1, none⟩)
    { d with fw := { d.fw with building := some (l, c), loads := d.fw.loads.filter (fun m => m.target ≠ l.target) } }

/-- Contents are checked (check 7) and take their place. -/
def Dev.takeContent (d : Dev) (l : Load) (c : ContainerIn) : Dev :=
  match c.content with
  | .plateSet ps =>
    let st := d.plateSetStatus l.target ps
    if st ≠ 0 then d.refuseLate l st
    else
      let d := d.putArea l.target ps
      ({ d with fw := { d.fw with digests := kvInsert d.fw.digests l.target c.digest } }).endLoad l 0 (ckTotal c)
  | .fount image =>
    match fountOf image with
    | some f =>
      let d := d.putFount (l.target - 0x10) image f
      ({ d with fw := { d.fw with digests := kvInsert d.fw.digests l.target c.digest } }).endLoad l 0 (ckTotal c)
    | none => d.refuseLate l 0x0501
  | .grammar image =>
    match grammarOf image with
    | some g =>
      let d := d.putGrammar (l.target - 0x20) image g
      ({ d with fw := { d.fw with digests := kvInsert d.fw.digests l.target c.digest } }).endLoad l 0 (ckTotal c)
    | none => d.refuseLate l 0x0502
  | .firmware _ => if ckSv c < d.nv.minSv then d.refuseLate l 0x070B else d.buildPackage l c
  | .delta _ => d.buildPackage l c

/-- LOAD_COMPLETE: the last byte of the container of a load has arrived. -/
def Dev.finishLoad (d : Dev) (l : Load) (c : ContainerIn) : Dev :=
  if l.manifest ≠ some c then d
  else if !c.digestsOk then d.refuseLate l 0x0705
  else d.takeContent l c

def loadComplete (target : Nat) (c : ContainerIn) (d : Dev) : Dev :=
  let d := loadManifestReceived target c d
  match d.loadOf target with
  | some l => d.finishLoad l c
  | none => d

/-- An image by the bytes of its slot; bytes that are no container of that length fail check 1, and bytes beyond the slot
check 2. -/
def imageFrom (bs : List Byte) : FwImage :=
  let i := match Config.containerOf bs with | some c => imageOf c | none => ⟨0, 0, 0, [], 0x0701, []⟩
  { i with bytes := bs.take fwSlotBytes, status := if bs.length > fwSlotBytes then 0x0702 else i.status }

/-- The image that a package builds: a full image, or what a delta makes of the running slot; none for a stream that is not
consistent. -/
def Dev.builtImage (d : Dev) (c : ContainerIn) : Option FwImage :=
  match c.content with
  | .delta x => (deltaMakes d.runningImage.bytes x).map imageFrom
  | _ => some (imageOf c)

/-- The digest that a package's image must have: a delta's TARGET_DIGEST. -/
def wantedDigest (c : ContainerIn) : Option (List Byte) := match c.content with | .delta x => some (deltaTarget x) | _ => none

/-- Status of a written slot (R401): 0702h for an inconsistent stream, 070Ah where the flash failed, 0707h where it does
not verify. -/
def Dev.builtStatus (d : Dev) (ok : Bool) (c : ContainerIn) : Nat :=
  match d.builtImage c with
  | none => 0x0702
  | some i =>
    if !ok then 0x070A
    else if (d.nv.setSlot (1 - d.fw.running) ⟨1, some i⟩).slotStatus (1 - d.fw.running) ≠ 0 then 0x0707
    else if (wantedDigest c).all (fun t => t = i.digest) then 0
    else 0x0707

/-- FW_SLOT_WRITTEN: the slot has been written and is read back. -/
def fwSlotWritten (ok : Bool) (d : Dev) : Dev :=
  match d.fw.building with
  | none => d
  | some (l, c) =>
    let st := d.builtStatus ok c
    let d := if st = 0 then d.setNv (d.nv.setSlot (1 - d.fw.running) ⟨2, d.builtImage c⟩)
      else d.setNv (d.nv.setSlot (1 - d.fw.running) ⟨5, none⟩)
    ({ d with fw := { d.fw with building := none } }).endLoad l st (ckTotal c)

/-! ## Trial and confirmation (R402 to R404) -/

/-- Abort code of a write to FW_ACTIVATE, or 0. -/
def Dev.fwActivateCheck (d : Dev) (v : Nat) : Nat :=
  if v ≠ d.fw.running ∧ (d.nv.slot v).state = 2 ∧ !d.nv.record.trial then 0 else 0x0800_0022

def fwActivateDo (v : Nat) (d : Dev) : Dev := d.setNv (d.nv.write ⟨0, v, true, 0, true, false⟩)

/-- The record leaves its trial, the fuses follow, CONFIRMED sets. -/
def Dev.confirmNow (d : Dev) : Dev :=
  if d.onTrial then
    let n := d.nv.write { d.nv.record with trial := false, tries := 0 }
    (d.setNv { n with minSv := max n.minSv d.runningImage.securityVersion }).setReady 41 true
  else d

/-- The first 120 s after reset release. -/
def Dev.mayConfirm (d : Dev) : Bool := d.fw.selfTest && decide (d.now ≤ 120 * 10 ^ 9)

def Dev.confirmCheck (d : Dev) : Nat := if d.mayConfirm then 0 else 0x0800_0022

/-- The self-test passes: with CONFIRM_MODE 0 the firmware confirms itself. -/
def Dev.selfTestPassed (d : Dev) : Dev :=
  let d := { d with fw := { d.fw with selfTest := true } }
  if d.rd 0x4402_03 = 0 ∧ d.mayConfirm then d.confirmNow else d

/-- TRIAL_TIMEOUT: 120 s have passed without confirmation. -/
def trialTimeout (d : Dev) : Dev :=
  if d.run = .on ∧ d.onTrial ∧ !d.fw.trialRaised then
    ({ d with fw := { d.fw with trialRaised := true } }).event 0x070D 0
  else d

/-! ## Identity and attestation (R406, Tables 20-9 to 20-11) -/

/-- Bytes filled up, or cut, to a length. -/
def fixBytes (n : Nat) (bs : List Byte) : List Byte := (bs ++ List.replicate n 0#8).take n

def Dev.digestOf (d : Dev) (t : Nat) : List Byte := fixBytes 64 (kvGet [] d.fw.digests t)

/-- Digest of the active plate set, zero when none. -/
def Dev.activeDigest (d : Dev) : List Byte :=
  if d.areaState 0 = 3 then d.digestOf 0 else if d.areaState 1 = 3 then d.digestOf 1 else fixBytes 64 []

/-- TEXT_DIGEST: founts 0 to 7, then grammars 0 to 31, zeros where a slot is not resident. -/
def Dev.textDigest (d : Dev) : List Byte :=
  let part (t : Nat) : List Byte := if ((stateKey t).map (fun k => d.rd k.1)) = some 2 then d.digestOf t else fixBytes 64 []
  fixBytes 64 (Config.sha512 (((List.range 8).map (fun k => part (0x10 + k))).flatten ++
    ((List.range 32).map (fun g => part (0x20 + g))).flatten))

/-- A scope bit is granted. -/
def Dev.scopeOn (d : Dev) (b : Nat) : Bool := d.fw.grants.any (fun g => bit g.1 b)

/-- The report's fixed part (Table 20-10). -/
def Dev.reportFixed (d : Dev) : Nat :=
  packFields [(0, 224), (d.fw.running, 1), (flag d.onTrial, 1), (flag (d.ready 41), 1), (flag (d.scopeOn 0), 2), (d.stage, 3),
    (d.nv.minSv, 8), (d.runningImage.securityVersion, 8), (1, 8), (d.rd 0x3E12_05, 32), (d.rd 0x2500_01, 32),
    (pairOf (d.rd 0x4405_04), 64), (Config.serial.toNat, 64), (d.now, 64)]

/-- ATTEST_REQUEST on a path. -/
def attestDo (p : Path) (d : Dev) : Dev :=
  let d := d.bump 0x4405_04
  let msg := leBytes 64 d.reportFixed ++ fixBytes 32 (d.rdPathDom p 0x4405_01) ++ fixBytes 32 Config.identityPublic ++
    fixBytes 64 d.runningImage.digest ++ d.activeDigest ++ d.textDigest
  d.wrPathDom p 0x4405_03 (msg ++ fixBytes 64 (Config.sign msg))

/-! ## Tokens and owner keys (R407 to R409) -/

/-- A new CHALLENGE is drawn: 32 bytes that nothing fixes. -/
def Dev.drawChallenge (d : Dev) : Dev :=
  let w (i : Nat) : Nat := (Config.freeValue (d.draws + i)).toNat
  { d with draws := d.draws + 4,
           fw := { d.fw with challenge := w 0 + 2 ^ 64 * w 1 + 2 ^ 128 * w 2 + 2 ^ 192 * w 3 } }

/-- Does the signer suit the scope? Bit 0 takes a Plovant key, bit 1 an owner key. -/
def Dev.signerOk (d : Dev) (scope key : Nat) : Bool :=
  d.nv.keyOk 2 key && (!bit scope 0 || key < 4) && (!bit scope 1 || 8 ≤ key)

/-- The public key that a KEY_ID names (Table 20-2). -/
def Dev.signerKey (d : Dev) (key : Nat) : List Byte := if key < 4 then Config.plovantKey key else kvGet [] d.nv.ownerKeys (key - 8)

/-- Does a token's signature verify with key SIGNER (R407)? -/
def Dev.tokenSigned (d : Dev) (token : List Byte) : Bool :=
  Config.signedBy (d.signerKey (bits (ofLe (token.take 64)) 159 152)) (token.take 64) ((token.drop 64).take 64)

/-- Is a token accepted (R407)? -/
def Dev.tokenOk (d : Dev) (token : List Byte) (signatureOk : Bool) : Bool :=
  let w := ofLe (token.take 64)
  let life := bits w 191 160
  bits w 511 448 = Config.serial.toNat && bits w 447 192 = d.fw.challenge && 1 ≤ life && life ≤ 3600 &&
    bits w 151 144 < 4 && bits w 143 0 = 0 && d.signerOk (bits w 151 144) (bits w 159 152) && signatureOk

/-- An accepted token grants its scope and draws a new CHALLENGE. -/
def Dev.grantToken (d : Dev) (token : List Byte) : Dev :=
  let w := ofLe (token.take 64)
  let g := (bits w 151 144, d.now + bits w 191 160 * 10 ^ 9)
  ({ d with fw := { d.fw with grants := d.fw.grants ++ [g] } }).drawChallenge

/-- Every grant ends; the debug ports close. -/
def debugLockDo (d : Dev) : Dev := { d with fw := { d.fw with grants := [] } }

/-- DEBUG_GRANT_EXPIRY: the grant whose LIFETIME_S ends first ends. -/
def debugGrantExpiry (d : Dev) : Dev :=
  match d.fw.grants with
  | [] => d
  | g :: r =>
    let first := r.foldl (fun m e => min m e.2) g.2
    { d with fw := { d.fw with grants := d.fw.grants.filter (fun e => e.2 ≠ first) } }

/-- GRANT_REMAINING_S: whole seconds of the grant that lasts longest. -/
def Dev.grantRemaining (d : Dev) : Nat := (d.fw.grants.foldl (fun m e => max m (e.2 - d.now)) 0) / 10 ^ 9

def Dev.ownerProgrammed (d : Dev) (k : Nat) : Bool := d.nv.ownerKeys.any (fun e => e.1 = k)

/-- Slot number in an OWNER_KEY_PROGRAM value. -/
def ownerSlot (bs : List Byte) : Nat := (bs.headD 0#8).toNat

/-- Abort code of OWNER_KEY_PROGRAM, or 0. -/
def Dev.ownerProgramCheck (d : Dev) (bs : List Byte) : Nat :=
  if d.ownerProgrammed (ownerSlot bs) ∨ (!d.nv.ownerKeys.isEmpty ∧ !d.scopeOn 1) then 0x0800_0022
  else if ownerSlot bs > 7 then 0x0609_0030
  else 0

def ownerProgramDo (bs : List Byte) (d : Dev) : Dev :=
  d.setNv { d.nv with ownerKeys := kvInsert d.nv.ownerKeys (ownerSlot bs) (bs.drop 1) }

/-- Abort code of OWNER_KEY_REVOKE, or 0. -/
def Dev.ownerRevokeCheck (d : Dev) (v : Nat) : Nat := if d.ownerProgrammed v ∧ d.scopeOn 1 then 0 else 0x0800_0022

def ownerRevokeDo (v : Nat) (d : Dev) : Dev := d.setNv { d.nv with ownerRevoked := setBit d.nv.ownerRevoked v true }

/-! ## Entries that show this state (R410) -/

/-- Values of entries that follow the state. -/
def Dev.fwValue (d : Dev) (key : Nat) : Option Nat :=
  match key with
  | 0x4400_01 => some d.fw.running
  | 0x4400_02 => some d.runningImage.version
  | 0x4400_04 => some d.runningImage.securityVersion
  | 0x4400_05 => some d.nv.minSv
  | 0x4401_01 => some (d.slotState 0)
  | 0x4401_02 => some (d.slotState 1)
  | 0x4401_03 => some (d.slotVersion 0)
  | 0x4401_04 => some (d.slotVersion 1)
  | 0x4402_04 => some (flag d.nv.record.trial)
  | 0x4402_05 => some d.nv.record.tries
  | 0x4404_01 => some Config.serial.toNat
  | 0x4406_03 => some (flag (d.scopeOn 0))
  | 0x4406_04 => some d.grantRemaining
  | 0x4407_0B => some d.nv.ownerRevoked
  | 0x4408_01 => some d.nv.plovantRevoked
  | 0x1018_04 => some (Config.serial.toNat % 2 ^ 32)
  | _ => none

/-- AREAn_DIGEST: the 64 bytes of the manifest's digest, empty while the area holds no set. -/
def Dev.areaDigest (d : Dev) (k : Nat) : List Byte := if d.fw.digests.any (fun e => e.1 = k) then d.digestOf k else []

/-- Strings and domains that follow the state. -/
def Dev.fwDom (d : Dev) (key : Nat) : Option (List Byte) :=
  match key with
  | 0x4400_03 => some (fixBytes 64 d.runningImage.digest)
  | 0x4404_02 => some (fixBytes 32 Config.identityPublic)
  | 0x4404_03 => some Config.identityCert
  | 0x4406_01 => some (leBytes 32 d.fw.challenge)
  | 0x4409_01 => some (d.areaDigest 0)
  | 0x4409_02 => some (d.areaDigest 1)
  | 0x4409_03 => some d.textDigest
  | 0x100A_00 => some (Config.versionText d.runningImage.version)
  | _ => if 0x4407_01 ≤ key ∧ key ≤ 0x4407_08 then some (kvGet [] d.nv.ownerKeys (key - 0x4407_01)) else none

end Sys2Proof.Machine
end

