-- ==== Sys2Proof/Machine/Testing.lean ====
section
/-! DEFINITION. Loopbacks, galley tests and boundary scan (R411 to R420). -/

namespace Sys2Proof.Machine

/-! ## Loopback engines (R411 to R415) -/

/-- Entry sub of engine e. -/
def lbKey (e sub : Nat) : Nat := dkey (0x4610 + e) sub

/-- Targets of Table 21-2. -/
def lbTargetOk (t : Nat) : Bool :=
  t ≤ 3 || (0x10 ≤ t && t ≤ 0x13) || t = 0x20 || t = 0x21 || (0x30 ≤ t && t ≤ 0x37) || (0x40 ≤ t && t ≤ 0x43) ||
    (0x50 ≤ t && t ≤ 0x52)

/-- Status x30h of a target's subsystem (Table 21-4). -/
def lbStatus (t : Nat) : Nat :=
  if t < 0x20 then 0x0230 else if t < 0x30 then 0x0130 else if t < 0x40 then 0x0460 else if t < 0x50 then 0x0610 else 0x0130

/-- Has a target the depth (Table 21-2)? Depth 2 of a scan channel needs serial mode. -/
def Dev.lbDepthOk (d : Dev) (t depth : Nat) : Bool :=
  if t < 0x10 then depth = 1 || (depth = 2 && d.cget t 0 1 = 1) || depth = 4
  else if t < 0x20 then depth = 1 || depth = 3
  else if t = 0x20 then depth = 2 || depth = 3
  else if t = 0x21 then false
  else if t < 0x40 then depth = 1 || depth = 2 || depth = 4
  else if t < 0x50 then 1 ≤ depth && depth ≤ 4
  else if t < 0x52 then depth = 1
  else depth = 1 || depth = 3

def Dev.engineRuns (d : Dev) (e : Nat) : Bool := d.test.loops.any (fun l => l.1 = e)

/-- The condition of Table 21-2 for a start asked for on a path. -/
def Dev.lbCondition (d : Dev) (p : Path) (t depth : Nat) : Bool :=
  if t < 0x10 then !d.chanOn t
  else if t < 0x20 then !d.on? (akey (t - 0x10) 0 15) && d.axState (t - 0x10) = 6
  else if t < 0x30 then !d.ready 26 && !d.host.linkUp
  else if t < 0x40 then
    !d.ready (12 + (t - 0x30)) && (d.ddrTrained.contains (t - 0x30) || bit (d.rd 0x2001_02) (12 + (t - 0x30)))
  else if t < 0x50 then (if depth = 4 then d.portState (t - 0x40) = 2 && d.stage = 2 else d.portState (t - 0x40) ≠ 2)
  else if t < 0x52 then p ≠ .ecat
  else p ≠ .can

/-- Abort code of a write of 1 to LB_RUN, or 0. -/
def Dev.loopbackCheck (d : Dev) (p : Path) (e : Nat) : Nat :=
  let t := d.rd (lbKey e 1)
  let depth := d.rd (lbKey e 2)
  if d.engineRuns e ∨ d.looped t ∨ !d.lbCondition p t depth then 0x0800_0022
  else if !d.lbDepthOk t depth ∨ (d.rd (lbKey e 3) = 4 ∧ !(t < 0x10 ∧ depth ≠ 2)) then 0x0604_0043
  else 0

/-- Readiness bit of a field network that its loopback takes out of service. -/
def lbBit (t : Nat) : Option Nat := if t = 0x50 ∨ t = 0x51 then some 27 else if t = 0x52 then some 28 else none

/-- First address of the die shared memory of CD0 in the tiered view (Table 5-3). -/
def cd0Shared : Nat := 0x180_0000

/-- Window 255 over the first 64 KiB of CD0's shared memory, for any source (R412). -/
def Dev.openTestWindow (d : Dev) : Dev :=
  let w := d.window 255
  d.setWindow 255 { w with base := cd0Shared, size := 65536, quoin := 0, anySource := true, isOpen := true, era := nextEra w.era }

/-! ### Patterns (R413, Table 21-3) -/

/-- Width of a generator's register, and the tap beside its last stage: PRBS7, PRBS15, PRBS31. -/
def prbsShape (pattern : Nat) : Nat × Nat := if pattern = 1 then (7, 5) else if pattern = 2 then (15, 13) else (31, 27)

/-- A Fibonacci register puts out its last stage and shifts in the sum of its taps. -/
def prbsNext (pattern reg : Nat) : Bool × Nat :=
  let s := prbsShape pattern
  let out := bit reg (s.1 - 1)
  (out, (2 * reg + flag (out != bit reg s.2)) % 2 ^ s.1)

/-- The next n bits of a register's stream. -/
def prbsBits (pattern : Nat) : (n reg : Nat) → List Bool
  | 0, _ => []
  | n + 1, reg => (prbsNext pattern reg).1 :: prbsBits pattern n (prbsNext pattern reg).2

/-- Bit k of a ramp: word j of a segment's readout, sent MSB first (R131). -/
def rampBit (seed sampleBits k : Nat) : Bool :=
  bit (((seed + k / 16) % 2 ^ sampleBits) * 2 ^ (16 - sampleBits)) (15 - k % 16)

/-- n bits of a lane's generator from a place in its stream on. -/
def lbStream (pattern sampleBits reg place n : Nat) : List Bool :=
  if pattern = 0 then (List.range n).map (fun i => bit reg ((place + i) % 32))
  else if pattern = 4 then (List.range n).map (fun i => rampBit reg sampleBits (place + i))
  else (prbsBits pattern (place + n) reg).drop place

/-- What a lane starts from: LB_SEED for the fixed pattern, its lower half for the ramp, and for PRBS LB_SEED XOR the lane
number, or 1 where that is zero in the register's width. -/
def lbRegister (pattern seed lane : Nat) : Nat :=
  if pattern = 0 then seed
  else if pattern = 4 then seed % 65536
  else
    let v := (seed ^^^ lane) % 2 ^ (prbsShape pattern).1
    if v = 0 then 1 else v

/-- Lanes of a target at a depth (log entry 168): the data lanes of a serial scan channel, one of a parallel one, eight of PCIe
and four of a fabric port, one word stream at fabric depth 4, of DDR5, of an axis and of a network. -/
def Dev.lbLanes (d : Dev) (t depth : Nat) : Nat :=
  if t < 0x10 then (if d.cget t 0 1 = 1 then d.cget t 0 2 else 1)
  else if 0x20 ≤ t ∧ t < 0x30 then 8
  else if 0x40 ≤ t ∧ t < 0x50 then (if depth = 4 then 1 else 4)
  else 1

/-- Registers of an engine's lanes. -/
def Dev.lbRegisters (d : Dev) (e : Nat) : List Nat :=
  (List.range (d.lbLanes (d.rd (lbKey e 1)) (d.rd (lbKey e 2)))).map (lbRegister (d.rd (lbKey e 3)) (d.rd (lbKey e 4)))

/-- A loopback starts, its generator with it. -/
def Dev.loopbackStart (d : Dev) (e : Nat) : Dev :=
  let t := d.rd (lbKey e 1)
  let depth := d.rd (lbKey e 2)
  let before := match lbBit t with | some b => flag (d.ready b) | none => 0
  let l : Loop := ⟨t, depth, false, d.rd (lbKey e 3), d.lbRegisters e, before⟩
  let d : Dev := { d with test := { d.test with loops := kvInsert d.test.loops e l } }
  let d := d.emit (.generator l.target l.pattern l.lanes)
  let d := (((((d.wr (lbKey e 7) 1).wr (lbKey e 8) 0).wr (lbKey e 9) 0).wr (lbKey e 10) 0).wr (lbKey e 11) 0)
  let d := match lbBit t with | some b => d.setReady b false | none => d
  if 0x40 ≤ t ∧ t < 0x50 ∧ depth = 4 then d.openTestWindow else d

/-- A target returns to its state: a network's bit, a fabric port of PORT_MASK trains again, the test window closes. -/
def Dev.loopTargetBack (d : Dev) (l : Loop) : Dev :=
  let d := match lbBit l.target with
    | some 28 => d.setReady 28 (d.net.canMode ≠ 0)
    | some b => d.setReady b (l.before ≠ 0)
    | none => d
  if 0x40 ≤ l.target ∧ l.target < 0x50 then
    let d := if l.depth = 4 then d.closeWindow 255 else d
    let port := l.target - 0x40
    if d.stage ≥ 2 ∧ d.on? 0x4200_04 ∧ bit (d.rd 0x4201_01) port ∧ d.portState port ≠ 2 then d.wr (dkey (portIx port) 1) 1 else d
  else d

/-- An engine ends with a STATE and a status. -/
def Dev.loopEnds (d : Dev) (e : Nat) (l : Loop) (state status : Nat) : Dev :=
  let d : Dev := { d with test := { d.test with loops := kvErase d.test.loops e } }
  let d := (d.wr (lbKey e 7) state).wr (lbKey e 11) status
  let d := d.loopTargetBack l
  if status = 0 then d else d.event status 0

def Dev.loopOf (d : Dev) (e : Nat) : Option Loop := (d.test.loops.find? (fun l => l.1 = e)).map (·.2)

/-- Bits of a lane that a checker has received agree with its generator's stream, 64 or more of them. -/
def Dev.laneLocks (d : Dev) (l : Loop) (x : Nat × (Nat × List Bool)) : Bool :=
  64 ≤ x.2.2.length && lbStream l.pattern (d.cget l.target 0 4) x.1 x.2.1 x.2.2.length = x.2.2

/-- The checker has 64 consecutive correct bits on every lane (R414). -/
def Dev.locksOn (d : Dev) (l : Loop) (seen : LockIn) : Bool :=
  l.lanes.length = seen.lanes.length && (l.lanes.zip seen.lanes).all (d.laneLocks l)

/-- LOOPBACK_LOCK: what the checker has received; it locks where 64 bits on every lane are correct. -/
def loopbackLock (seen : LockIn) (d : Dev) : Dev :=
  match d.loopOf seen.engine.val with
  | some l =>
    if d.locksOn l seen then
      { d with test := { d.test with loops := kvInsert d.test.loops seen.engine.val { l with locked := true } } }
    else d
  | none => d

/-- LOOPBACK_LOCK_TIMEOUT: not locked 1 ms after the start. -/
def loopbackLockTimeout (e : Nat) (d : Dev) : Dev :=
  match d.loopOf e with
  | some l => if l.locked then d else d.loopEnds e l 3 (lbStatus l.target + 1)
  | none => d

/-- The result of a loopback by the bits and errors counted and the time of the first error; a wrong bit is one of the bits. -/
def Dev.loopResult (d : Dev) (e : Nat) (l : Loop) (n wrong first : Nat) : Dev :=
  if !l.locked then d.loopEnds e l 3 (lbStatus l.target + 1)
  else
    let errors := min n wrong
    let d := ((d.wr (lbKey e 8) n).wr (lbKey e 9) errors).wr (lbKey e 10) (if errors = 0 then 0 else first)
    if errors = 0 then d.loopEnds e l 2 0 else d.loopEnds e l 3 (lbStatus l.target)

/-- LOOPBACK_DURATION_END. -/
def loopbackDurationEnd (e n errors first : Nat) (d : Dev) : Dev :=
  match d.loopOf e with
  | some l => d.loopResult e l n errors first
  | none => d

/-- A write of 0 to LB_RUN: what the checker has counted by then is not fixed here, and free. -/
def Dev.loopbackStop (d : Dev) (e : Nat) : Dev :=
  match d.loopOf e with
  | some l =>
    let w (i : Nat) : Nat := (Config.freeValue (d.draws + i)).toNat
    Dev.loopResult { d with draws := d.draws + 3 } e l (w 0) (w 1) (w 2)
  | none => d

/-- A stage transition or a reset ends loopbacks whose target a test picks. -/
def Dev.abortLoops (d : Dev) (p : Nat → Bool) : Dev :=
  d.each (d.test.loops.filter (fun l => p l.2.target)) (fun d l => d.loopEnds l.1 l.2 4 (lbStatus l.2.target + 2))

/-- Is a write to an entry locked by a loopback (R412, R420)? -/
def Dev.loopLocks (d : Dev) (key : Nat) : Bool :=
  (List.range 4).any (fun ch => d.looped ch && key = ckey ch 0 9) ||
  (List.range 4).any (fun ax => d.looped (0x10 + ax) && key = akey ax 0 15) ||
  ((List.range 4).any (fun q => d.looped (0x40 + q)) && (key = 0x4200_04 || key = 0x4201_01)) ||
  (d.looped 0x52 && key = 0x4810_02) ||
  (List.range 4).any (fun e => d.engineRuns e && lbKey e 1 ≤ key && key ≤ lbKey e 5)

/-- The host directs the link into Loopback: counted (target 21h). -/
def pcieLoopbackEntry (d : Dev) : Dev := { d with test := { d.test with pcieEntries := d.test.pcieEntries + 1 } }

/-! ## Galley memory self-test (R416, R417) -/

/-- A die starts its test in the tiered view, which fills it with zero. -/
def Dev.startGalleyTest (d : Dev) (die : Nat) : Dev :=
  if d.test.dies.contains die then d
  else
    let d := (d.setView die false).wr (dkey 0x4601 (die + 1)) 1
    let d := { d with test := { d.test with dies := setAdd die d.test.dies } }
    (if d.stage = 3 then d else d.setReady (20 + die) false).bump 0x4600_02

/-- Abort code of GALLEY_TEST_REQUEST, or 0: in Press only dies outside the imposition. -/
def Dev.galleyTestCheck (d : Dev) (v : Nat) : Nat :=
  if d.stage = 3 ∧ d.usedDies.any (fun n => bit v n) then 0x0800_0022 else 0

def Dev.galleyTestDo (d : Dev) (v : Nat) : Dev := (List.range 6).foldl (fun d n => if bit v n then d.startGalleyTest n else d) d

/-- Where the first failure lay (4602h). -/
def Dev.recordFailure (d : Dev) (die : Nat) (f : GalleyFail) : Dev :=
  (((((d.wr 0x4602_01 die).wr 0x4602_02 f.bank).wr 0x4602_03 f.row).wr 0x4602_04 f.element).wr 0x4602_05 f.background).wr
    0x4602_06 f.link

/-- A die outside the imposition that has neither passed nor failed may join (R316). -/
def Dev.mayJoin (d : Dev) (die : Nat) : Bool :=
  d.stage = 3 && d.rd 0x2504_02 = die + 1 && !bit (d.rd 0x2001_02) (20 + die) && !d.isLasting 0 die

/-- A die passes. -/
def Dev.galleyPassed (d : Dev) (die : Nat) : Dev :=
  let d := d.wr (dkey 0x4601 (die + 1)) 2
  if d.stage ≠ 3 then d.setReady (20 + die) true
  else if d.mayJoin die then { d with plate := { d.plate with pendingJoin := true } }
  else d

/-- A die fails: FAILED, 0452h, and a lasting decision whatever the THRESHOLD (R310, R417). -/
def Dev.galleyFailed (d : Dev) (die : Nat) (f : GalleyFail) : Dev :=
  let d := ((d.wr (dkey 0x4601 (die + 1)) 3).recordFailure die f).setFailed (20 + die)
  (d.emergency 0x0452 clsLasting die).lastingUnit 0 die

/-- GALLEY_TEST_DONE. -/
def galleyTestDone (die : Nat) (fail : Option GalleyFail) (d : Dev) : Dev :=
  if d.test.dies.contains die then
    let d := { d with test := { d.test with dies := d.test.dies.filter (· ≠ die) } }
    let d := d.setView die false
    match fail with
    | none => d.galleyPassed die
    | some f => d.galleyFailed die f
  else d

/-! ## Boundary scan (R418, R419) -/

def Dev.setIr (d : Dev) (code : Nat) : Dev := { d with test := { d.test with ir := code } }

def jtagIdcode (d : Dev) : Dev := (d.setIr 0x01).emit (.jtag 0x1086_0A7B)

def jtagSamplePreload (d : Dev) : Dev := d.setIr 0x02

/-- An intrusive instruction: the protective shutdown, under no status of its own. -/
def Dev.jtagShutdown (d : Dev) : Dev :=
  if d.power.shutdown ∨ d.run = .held then d
  else (({ d with power := { d.power with shutdown := true } }).stopReading).allSafe

def jtagExtest (d : Dev) : Dev := (d.setIr 0x03).jtagShutdown
def jtagClamp (d : Dev) : Dev := (d.setIr 0x04).jtagShutdown
def jtagHighz (d : Dev) : Dev := (d.setIr 0x05).jtagShutdown

/-- A debug port answers while scope bit 0 is granted (R408). -/
def jtagDebugAccess (port : DebugPort) (d : Dev) : Dev :=
  let d := d.setIr 0x80
  if d.scopeOn 0 then d.emit (.debugAccess port) else d

def jtagBypass (d : Dev) : Dev := d.setIr 0xFF

end Sys2Proof.Machine
end

