-- ==== Sys2Proof/Machine/Frames.lean ====
section
/-! DEFINITION. Press frames (R36, R39, R57, R85, R98, R109 to R112, R122, R126, R127, R277, R282 to R284, R291, R292,
R315, R316, R318): what a frame start does in its lead-in, what a slot start does, and the tick of Chase and Proof. -/

namespace Sys2Proof.Machine

/-- Kinds that are made anew for every frame. -/
def Forme.perFrame (f : Forme) : Bool := f.kind = 7 || f.kind = 10 || f.kind = 11

/-- Formes that span the frame start: placed ones of the other kinds, adaptation steps apart (R277). -/
def Dev.spanning (d : Dev) : List Forme := d.formes.filter (fun f => f.group.isSome && !f.perFrame && f.kind ≠ 9)

/-! ## The end of the frame before (R57, R291, R292) -/

/-- A transfer of a core outlives its frame: 0307h, counted and shown in 2402h with its plate and the bundle that the core
reached (R57, R65). -/
def Dev.outlive (d : Dev) (core : Nat) (t : Xfer) : Dev :=
  let d := (d.bump (dkey 0x2401 (core + 1))).lastViolation core t.plate (kvGet CoreSt.idle d.cores core).bundle 0x0307 none
  (d.faultForme t.forme 0x0307).charge 0x0307 1 t.plate (core / 16)

/-- Transfers that still run: each forme of theirs faults once with 0307h, counted for the first core that runs one
(DESIGN CHOICE, log entry 144). -/
def Dev.frameEndTags (d : Dev) : Dev :=
  let d := d.enginesEnd
  let ts : List (Nat × Xfer) := (d.cores.map (fun (c : Nat × CoreSt) =>
    (c.2.tags.filter (fun t => !t.2.outlived)).map (fun t => (c.1, t.2)))).flatten
  let ids := (ts.map (fun (t : Nat × Xfer) => t.2.forme)).eraseDups
  let mark (x : CoreSt) : CoreSt := { x with tags := x.tags.map (fun t => (t.1, { t.2 with outlived := true })) }
  let d : Dev := { d with cores := d.cores.map (fun c => (c.1, mark c.2)) }
  d.each ids (fun d id =>
    match ts.find? (fun (t : Nat × Xfer) => t.2.forme = id) with
    | some t => d.outlive t.1 t.2
    | none => d)

/-- Scoreboard entries that a bundle names on a die: by its operations, or by PUB_SLOT of its static descriptor. -/
def bundleSlots (ps : PlateSetIn) (i : ImpositionSeg) (die w : Nat) : List Nat :=
  sbNamedAny w ++ (match staticDesc ps (impOperands i) die w with | some x => if x.publish then [x.pubSlot] else [] | none => [])

/-- Scoreboard entries that the plates of a forme's group name (R64, R291). -/
def Dev.sbNames (d : Dev) (f : Forme) : List Nat :=
  match f.group, d.imposition, d.activeSet with
  | some k, some i, some ps =>
    let cs := ((d.groups[k]?).map (fun (g : GroupEntry) => g.cores)).getD []
    ((cs.map (fun c => match (groupSlot i d.groups k c).bind (fun s => plateOf ps s.plate) with
      | some p => (p.bundles.map (bundleSlots ps i (c / 16))).flatten
      | none => [])).flatten).eraseDups
  | _, _, _ => []

/-- Those entries take epoch 0 on every core. -/
def Dev.resetNamed (d : Dev) (f : Forme) : Dev :=
  let ns := d.sbNames f
  if ns.isEmpty then d
  else { d with cores := d.cores.map (fun c => (c.1, { c.2 with sb := c.2.sb.filter (fun e => !ns.contains e.1) })) }

/-- A forme leaves its group for a new attempt: its place is that of its fault among the restarted formes. -/
def Dev.newAttempt (d : Dev) (f : Forme) (faulted : Bool) : Dev :=
  let d := ((d.resetNamed f).countRestart f).dropBlocks f.id
  let d := if f.kind = 6 then d.updSpan f.band f.ref (fun x => { x with attempt := (f.attempt + 1) % 65536 }) else d
  let r := d.nextRetry
  let d := if f.retry.isSome ∧ faulted then d else { d with nextRetry := r + 1 }
  d.updForme f.id (fun g =>
    { g with attempt := (g.attempt + 1) % 65536, faults := if faulted then g.faults + 1 else g.faults, fault := 0, group := none,
             framesLeft := 0, ran := false, retry := if f.retry.isSome && faulted then f.retry else some r })

/-- Faulted formes are readmitted, or abandoned past ATTEMPT_LIMIT. -/
def Dev.readmitAll (d : Dev) : Dev :=
  d.each (d.formes.filter (fun f => f.fault ≠ 0 && !f.perFrame)) (fun d f =>
    if f.faults ≥ d.rd 0x2100_01 then d.abandon f else d.newAttempt f true)

/-- One frame of every group is over. -/
def Dev.ageGroups (d : Dev) : Dev :=
  { d with formes := d.formes.map (fun f =>
      if f.group.isSome then
        (if f.framesLeft ≤ 1 then { f with group := none, framesLeft := 0 } else { f with framesLeft := f.framesLeft - 1 })
      else f) }

/-- Decode, background and shadow formes of the frame before, and decode formes whose step the Text Unit has rejected
(R249). -/
def Dev.perFrameOld (d : Dev) : List Forme := d.text.rejected ++ d.formes.filter (·.perFrame)

/-- The per-frame formes of the frame before leave; a faulted one counts as restarted. -/
def Dev.dropPerFrame (d : Dev) : Dev :=
  let d := d.each (d.perFrameOld.filter (fun f => f.fault ≠ 0)) (fun d f => ((d.resetNamed f).countRestart f).dropBlocks f.id)
  { d with formes := d.formes.filter (fun f => !f.perFrame), text := { d.text with rejected := [] } }

/-! ## Leaving Press (R318) -/

/-- Formes and page sides are done, so that a pending leave takes effect. -/
def Dev.mayLeave (d : Dev) : Bool := d.leavePending && d.formes.isEmpty && d.pages.all (fun p => p.group.isSome || p.released)

/-- The fabric's business with slugs ends: windows close, grants and imports are forgotten. -/
def Dev.dropFabricWork (d : Dev) : Dev :=
  let d := d.each ((d.fabric.windows.filter (fun e => e.2.template ≠ 255)).map (·.1)) (fun d n =>
    let d := if (d.window n).isOpen then (d.closeWindow n).sendClose n 3 else d
    d.setWindow n { d.window n with locs := [], template := 255, grants := 0 })
  ({ d with fabric := { d.fabric with grants := [], spans := [], imports := [] } }).failImport

/-- Hub SRAM and the spans of formes end with Press; a slug descriptor out of service stays so to the next reset (R211). -/
def Dev.clearHub (d : Dev) : Dev :=
  let out (n : Nat) : Bool := !slugWordOk (d.slugWord n) || (d.slugAt n).state = 3
  let bad := (d.slugNums.filter out).map (fun n => (slugAddr n, memBytes d.mem (slugAddr n) 16))
  (((d.zeroRange 0x1140_0000 0x40_0000).zeroRange 0x1200_0000 0x180_0000).endRun).each bad (fun d b => d.poke b.1 b.2)

/-- Cores, sequences, batches and pending changes end with Press. -/
def Dev.clearWork (d : Dev) : Dev :=
  { d with cores := [], seqs := [], slug := SlugSt.init,
           batch := { d.batch with queue := [], reserved := [], encoderEmpty := false },
           text := { d.text with cache := [], steps := [], rejected := [] },
           plate := { d.plate with folds := [], pendingJoin := false, pendingDie := none, groupUsed := [], latched := [] } }

/-- Template jobs that wait end with Press (R318). -/
def Dev.dropTemplateJobs (d : Dev) : Dev :=
  let e := d.each d.host.templateJobs (fun d j => d.completeEntry j.2.1 j.2.2.1 0x0103 0)
  { e with host := { e.host with templateJobs := [] } }

/-- Every die takes the tiered view and its bit clears. -/
def Dev.tierAll (d : Dev) : Dev := (List.range 6).foldl (fun d n => (d.setView n false).setReady (20 + n) false) d

/-- A die left out for want of its test alone is left out no more once Press is left (R315); one with a lasting decision stays
out (R123). -/
def Dev.forgetLeftOut (d : Dev) : Dev :=
  if d.rd 0x2504_02 ≠ 0 ∧ !d.isLasting 0 (d.rd 0x2504_02 - 1) then d.wr 0x2504_02 0 else d

/-- STAGE, LEAVE_PENDING and the bits of Proof. -/
def Dev.showProof (d : Dev) : Dev := ((((d.wr 0x2000_01 2).wr 0x2000_06 0).setReady 2 false).setReady 3 false).followBits

/-- Proof is entered from Press: the tiered view on every die, slugs, sequences and templates discarded, and the stored or
default reference active on every channel (R142, R318). Blocks that no background slot has folded are dropped (DESIGN CHOICE,
log entry 146). -/
def Dev.leavePress (d : Dev) : Dev :=
  let d := ((d.dropFabricWork.dropTemplateJobs.abortLoops (fun _ => true)).tierAll).clearHub.clearWork
  let d := d.showProof.forgetLeftOut
  (List.range 6).foldl Dev.startGalleyTest ((List.range 4).foldl Dev.baseReference d)

/-! ## Changes that take effect (R39, R122, R126, R127, R277, R299, R316) -/

/-- Does the protective point wait to be taken? -/
def Dev.protectiveDue (d : Dev) : Bool := (d.power.protective || d.power.shutdown) && d.rd 0x2201_02 ≠ 2

/-- Page sides that a forme serves, those of its sequences among them. -/
def Dev.pagesServed (d : Dev) (f : Forme) : List (Nat × Nat) :=
  (f.pages ++ f.seqs.map (fun i => let x := kvGet SeqSt.init d.seqs i; (x.ring, x.page))).eraseDups

/-- Page sides are marked REDUCED. -/
def Dev.setReduced (d : Dev) (pages : List (Nat × Nat)) : Dev :=
  d.each pages (fun d p => d.updPage p.1 p.2 (fun q => { q with reduced := true }))

/-- Forced restarts of a switch to a reduced imposition or a protective step: in a switch the page sides of the formes
restarted, those of the frame's decode step among them, are marked REDUCED (R122). -/
def Dev.forceRestarts (d : Dev) (old : List Forme) : Dev :=
  let fs := d.spanning
  let e := if d.plate.pendingDie.isSome then d.setReduced (((old ++ fs).map d.pagesServed).flatten) else d
  if d.plate.pendingDie.isSome || d.protectiveDue then e.each fs (fun d f => d.newAttempt f false) else e

/-- A change of frequency point, plate set or dies is pending, other than a switch that waits for nothing. -/
def Dev.changePending (d : Dev) : Bool := d.wantedPoint ≠ d.rd 0x2201_02 || d.plate.pendingArea.isSome || d.plate.pendingJoin

/-- A pending change aborts a running adaptation step, which restarts after it. -/
def Dev.abortAdapt (d : Dev) : Dev :=
  d.each (d.formes.filter (fun f => f.kind = 9 && f.group.isSome)) (fun d f => d.newAttempt f false)

/-- The left-out die: its slugs are dropped (R233). -/
def Dev.leaveDieOut (d : Dev) : Dev :=
  match d.plate.pendingDie with
  | none => d
  | some die =>
    let d := { d with plate := { d.plate with pendingDie := none } }
    (d.wr 0x2504_02 (die + 1)).dropDie die

def Dev.takePoint (d : Dev) : Dev :=
  if d.wantedPoint ≠ d.rd 0x2201_02 then (d.wr 0x2201_02 d.wantedPoint).bump 0x2201_05 else d

def Dev.takeArea (d : Dev) : Dev := if d.plate.pendingArea.isSome then d.takeSlip.activateNow else d

def Dev.takeJoin (d : Dev) : Dev := if d.plate.pendingJoin then d.takeSlip.joinNow else d

/-- What the imposition selected now needs: scoreboards; at an activation the resident load, and at it and at a join the slug
regions and band rings (R127, R153, R212, R316); the windows of a die left out. The manual does not say what IMPOSITION_SWITCHES counts: the model counts
one for each frame start at which a pending change is taken (DESIGN CHOICE, log entry 136). -/
def Dev.switched (d : Dev) (die : Option Nat) (activated loads : Bool) : Dev :=
  let d := (d.enterImposition).bump 0x2504_05
  let d := if activated then d.loadResident else d
  let d := if loads then d.checkRegions.ringChecks else d.ringsAgain
  match die with
  | some n => d.revokeDie n
  | none => d

/-- Every change that may take effect at this frame start. -/
def Dev.takeChanges (d : Dev) : Dev :=
  let die := d.plate.pendingDie
  let free := d.spanning.isEmpty
  if die.isSome || (free && d.changePending) then
    let activated := free && d.plate.pendingArea.isSome
    let d := d.abortAdapt.leaveDieOut
    let loads := activated || (free && d.plate.pendingJoin)
    let d := if free then ((d.takePoint).takeArea).takeJoin else d
    d.switched die activated loads
  else d

/-- Changes that are pending at the frame start at which Press is left take effect there too, for no forme spans it (R122,
R126, R127): a die decided on is left out, the point and the area change. A join is none any more: its die passes its test
again in Proof. -/
def Dev.takeLeaving (d : Dev) : Dev := d.leaveDieOut.takePoint.takeArea

/-- ACTIVATE_AREA: at once in Proof, pending in Press (R126). A left-out die is tested at the activation (R123, R417), and
band rings and slug regions are checked (R153, R212). -/
def activateDo (v : Nat) (test : Bool) (d : Dev) : Dev :=
  if d.stage = 3 then
    ({ d with plate := { d.plate with pendingArea := some v, pendingTest := test } }).wr 0x2503_02 1
  else ((d.testLeftOut test).makeActive v).checkRegions.ringChecks

/-! ## Placement (R284) -/

def Dev.groupTaken (d : Dev) (k : Nat) : Bool := d.formes.any (fun f => f.group = some k)

/-- Frames for which the formes in place hold their groups. -/
def Dev.spanLeft (d : Dev) : Nat := d.spanning.foldl (fun m f => max m f.framesLeft) 0

/-- A free group of the forme's kind that has room for its items; while a change is pending it must not span the frame
start at which the change can take effect (R39, R126). -/
def Dev.groupFor (d : Dev) (f : Forme) : Option (Nat × GroupEntry) :=
  (d.groups.zipIdx.find? (fun (g : GroupEntry × Nat) =>
    g.1.kind = f.kind && !d.groupTaken g.2 && f.items ≤ g.1.itemsMax &&
      (f.kind = 9 || !d.changePending || g.1.frames ≤ max 1 d.spanLeft))).map (fun g => (g.2, g.1))

/-- Is a template's prefix forme prepared (R224)? -/
def Dev.templatePrepared (d : Dev) (t : Nat) : Bool :=
  d.templateSound t && (d.templateNeeds t).isEmpty && d.listReady (d.templateEntries t)

/-- Are the slugs that the forme will write prepared (R224)? -/
def Dev.slugsReady (d : Dev) (f : Forme) : Bool :=
  match f.kind with
  | 3 => f.seqs.all (fun i => (d.seqEnt i).state ≠ 1 || d.seqPrepared i (d.seqEnt i).position (d.seqEnt i).prefixLen)
  | 4 => d.templatePrepared f.ref
  | 5 => f.seqs.all (fun i => (d.seqEnt i).state ≠ 1 || d.seqPrepared i (d.seqEnt i).position (d.recomputeEnd i))
  | _ => true

/-- Sequences of a forme to be prefilled that are not prepared to a position are held: HOLDS and SLUG_HOLDS count them, and
they are prepared for the next frame (R224). -/
def Dev.holdUnready (d : Dev) (f : Forme) (last : Nat → Nat) : Dev :=
  d.each f.seqs (fun d i =>
    if (d.seqEnt i).state = 1 ∧ !d.seqPrepared i (d.seqEnt i).position (last i) then d.holdSeq i (d.seqEnt i).position (last i) else d)

/-- A forme that lacks slugs at a lead-in is tried again in the next frame. -/
def Dev.prepareForme (d : Dev) (f : Forme) : Dev :=
  match f.kind with
  | 3 => d.holdUnready f (fun i => (d.seqEnt i).prefixLen)
  | 4 => d.prepareTemplate f.ref
  | 5 => d.holdUnready f d.recomputeEnd
  | _ => d

/-- Page sides served on a reduced imposition are marked (R122). -/
def Dev.markReduced (d : Dev) (pages : List (Nat × Nat)) : Dev :=
  if d.rd 0x2504_02 = 0 then d else d.setReduced pages

/-- Place one admitted forme if a group is free. -/
def Dev.placeOne (d : Dev) (id : Nat) : Dev :=
  match d.forme? id with
  | none => d
  | some f =>
    if !f.admitted || f.group.isSome || f.fault ≠ 0 || !(f.kind ≠ 6 && f.kind ≠ 9 || d.eligible f) || !d.slugsReady f then d
    else match d.groupFor f with
      | none => d
      | some g =>
        let d := d.updForme id (fun f => { f with group := some g.1, framesLeft := g.2.frames, ran := false })
        let d := if f.kind = 6 then d.exportAttempt f.band f.ref else d
        d.markReduced (d.pagesServed f)

/-- Formes that were admitted before this lead-in and lack slugs are held and prepared on (R224). -/
def Dev.holdFormes (d : Dev) : Dev :=
  queueOrder.foldl (fun d k => (d.queueOf k).foldl (fun d f =>
    if f.admitted && f.group.isNone && f.fault = 0 && !d.slugsReady f then d.prepareForme f else d) d) d

/-- Place admitted formes in the order of R283; one admitted after the lead-in waits for the next with its slugs. -/
def Dev.placeAll (d : Dev) : Dev :=
  queueOrder.foldl (fun d k => (d.queueOf k).foldl (fun d f => d.placeOne f.id) d) d

/-- The forme of a per-frame group: ATTEMPT goes on from one that faulted. -/
def Dev.makePerFrame (d : Dev) (old : List Forme) (k : Nat) (g : GroupEntry) : Dev :=
  let before := old.find? (fun f => f.kind = g.kind && f.group = some k)
  let attempt := match before with
    | some f => if f.fault ≠ 0 then (f.attempt + 1) % 65536 else f.attempt
    | none => 0
  let base := { Forme.blank g.kind with attempt := attempt, admitted := true, group := some k, framesLeft := 1, entryTime := d.now }
  if g.kind = 7 then
    let rows := d.validRows
    let seqs := rows.map (fun r => (d.batchRow r).seq)
    let pages := (seqs.map (fun i => let x := kvGet SeqSt.init d.seqs i; (x.ring, x.page))).eraseDups
    if rows.isEmpty then d
    else (d.enqueue { base with items := rows.length, seqs := seqs, pages := pages }).markReduced pages
  else d.enqueue base

/-- Decode, background and shadow formes of the coming frame; in a protective shutdown every slot runs empty (R300). -/
def Dev.makeAll (d : Dev) (old : List Forme) : Dev :=
  if d.power.shutdown then d
  else d.each (d.groups.zipIdx.filter (fun (g : GroupEntry × Nat) => g.1.kind = 7 || g.1.kind = 10 || g.1.kind = 11))
    (fun d (g : GroupEntry × Nat) => if g.1.kind = 7 && d.readingStopped then d else d.makePerFrame old g.2 g.1)

/-! ## Operand blocks (R111, R112, R205) -/

/-- Where a band lies: its slot in the ring, none in the pool. -/
def Dev.bandSlotOf (d : Dev) (p : PageSide) (b : Nat) : Option Nat :=
  if p.image || p.poolBands.contains b then none
  else ((d.chan p.channel).slots.find? (fun s => s.2.1 = p.ring && s.2.2.1 = p.seq && s.2.2.2 = b)).map (fun s =>
    d.rdp (ckey p.channel 5 1) + s.1 * d.cget p.channel 5 3 * d.linePitch p.channel)

/-- Valid lines of a band. -/
def bandLines (p : PageSide) (height b : Nat) : Nat := if p.bandsTotal = some (b + 1) then p.lastBandLines else height

/-- Carry buffer (s, q) of a band template (R205). -/
def carryPlace (t : List Nat) (s q : Nat) : Nat := (descOf (t.getD 4 0)).dst + (2 * s + q) * carryBytes t

/-- Words 1 to 6 of a band's operand block (Table 10-4) from the slot's band template. -/
def Dev.bandWords (d : Dev) (tw : List Nat) (h : Nat) (p : PageSide) (b : Nat) : List Desc :=
  let t (k : Nat) : Desc := descOf (tw.getD k 0)
  let n := bandLines p h b
  let carry (q : Nat) : Nat := carryPlace tw ((bandStream p).getD 0) q
  let slot := d.bandSlotOf p b
  [if b = 0 then { t 0 with fill := true, srcPitch := 0 } else { t 0 with src := carry ((b - 1) % 2) },
   { t 1 with src := slot.getD (t 1).src, rows := if slot.isSome then n else 0 },
   { t 2 with src := p.rawAddr + 128 + b * h * p.linePitch, rows := if slot.isSome then 0 else n },
   { t 3 with fill := true, srcPitch := 0, length := p.linePitch, dst := (t 1).dst + n * p.linePitch,
              dstPitch := p.linePitch / 64, rows := h - n },
   { t 4 with dst := carry (b % 2) },
   { t 5 with dst := p.layoutArea.getD (t 5).dst + b * ((t 5).length * (t 5).rows) }]

/-- Words 1 to 6 of a layout finish forme's operand block: the carry buffer of the page side's last band comes in (R207), and
the box list goes to its buffer; the words between move nothing. -/
def finishWords (tw : List Nat) (p : PageSide) : List Desc :=
  let t (k : Nat) : Desc := descOf (tw.getD k 0)
  let last := p.bandsTotal.getD 1 - 1
  [{ t 0 with src := carryPlace tw ((bandStream p).getD 0) (last % 2) }, { t 1 with rows := 0 }, { t 2 with rows := 0 },
   { t 3 with rows := 0 }, { t 4 with rows := 0 }, { t 5 with dst := p.boxArea.getD (t 5).dst }]

/-- The crop slots of a geometry forme in one descriptor, which carries their size (R193). -/
def cropWord (ps : PlateSetIn) (f : Forme) : Desc :=
  let n := bits ps.header 223 192
  let a := f.slots.headD 0
  { Desc.empty with length := n, dst := a, src := a, rows := f.slots.length, srcPitch := n / 64 % 65536, dstPitch := n / 64 % 65536 }

/-- The words after the header of a forme's operand block on a slot. Of a layout band they are Table 10-4's. The manual gives
no table for the others: the model hands each forme what it reserved or works on (Table 14-3, R193, R207, R272), in words of
ROWS 0 where it states no size, and fills the block with empty transfers (DESIGN CHOICE, log entry 138). -/
def Dev.blockWords (d : Dev) (ps : PlateSetIn) (c : Nat) (s : SlotEntry) (f : Forme) : List Desc :=
  let tw := (bandTemplate ps c s).getD []
  let ws : List Desc := match f.kind, d.pageOf f with
    | 0, some p => d.bandWords tw (bandHeightOf ps) p f.band
    | 1, some p => finishWords tw p
    | 2, _ => [cropWord ps f]
    | 9, _ => match d.batch? f.ref with
      | some b => [{ Desc.empty with length := b.desc.length, src := d.layoutBase 44 + b.descAt }]
      | none => []
    | _, _ => match f.area with
      | some a => [{ Desc.empty with dst := a }]
      | none => []
  (ws ++ List.replicate 14 Desc.empty).take (s.operandWords - 1)

/-- D_OP under which each band word is issued. -/
def bandOps (ws : List Desc) : List Nat := [1, 1, 2, 1, 1, if inGalley (ws.getD 5 (descOf 0)).dst then 1 else 3]

/-- D_OP under which a slot's plate issues a word of its operand block: that of its first bundle that names the word, 0 where
none does. -/
def plateOpOf (ps : PlateSetIn) (s : SlotEntry) (k : Nat) : Nat :=
  match (plateOf ps s.plate).bind (fun p => p.bundles.find? (fun w => bits w 63 60 ≠ 0 && bits w 59 39 = s.operandAddr + 4 * k)) with
  | some w => bits w 63 60
  | none => 0

/-- D_OPs of the words of an operand block. -/
def blockOps (ps : PlateSetIn) (s : SlotEntry) (f : Forme) (ws : List Desc) : List Nat :=
  if f.kind = 0 then bandOps ws else (List.range ws.length).map (fun k => plateOpOf ps s (k + 1))

/-- The code of the first failed check of an operand block (R7, R43, R112), 0 for none. A descriptor's range is all that lies
from its first to its last row; the manual does not say whether the gaps between rows belong to it (DESIGN CHOICE, log entry
139). -/
def Dev.blockStatus (d : Dev) (ops : List Nat) (ws : List Desc) : Nat :=
  match (ops.zip ws).find? (fun e => d.descStatus e.1 e.2 ≠ 0) with
  | some e => d.descStatus e.1 e.2
  | none =>
    let rs := ws.zipIdx
    let dst (x : Desc) : Nat × Nat := (x.dst, spanOf x.rows x.length x.dstPitch)
    let src (x : Desc) : Nat × Nat := (x.src, if x.rows = 0 then 0 else if x.isFill then 64 else spanOf x.rows x.length x.srcPitch)
    if rs.any (fun a => rs.any (fun b => a.2 ≠ b.2 && overlap (dst a.1).1 (dst a.1).2 (src b.1).1 (src b.1).2)) then 0x031A
    else 0

/-- The occupancy header (Table 6-2) of a forme, or of none. -/
def headerWord (f : Option Forme) (words : Nat) : Nat :=
  match f with
  | some f => packFields [(0, 283), (1, 1), (words - 1, 4), (f.attempt, 16), (f.items, 16), (pairOf f.step, 64), (f.seed, 64),
      (pairOf f.id, 64)]
  | none => packFields [(0, 304), (0, 16), (pairOf 0, 64), (0, 64), (pairOf 0, 64)]

/-- Rows of a forme's prefill table (R217): one for each sequence that it prefills, one for a template's prefix. -/
def Dev.prefillRows (d : Dev) (f : Forme) : List BatchRow :=
  let seals (cls p : Nat) : Bool := let c := d.slugClass cls; c.narrow && c.tokens ≠ 0 && p ≠ 0 && p % c.tokens = 0
  match f.kind with
  | 4 => let x := d.template f.ref; [⟨x.list, 0, d.templateWpl x, 0, x.cls, true, false⟩]
  | 3 => f.seqs.map (fun i => let e := d.seqEnt i; ⟨e.list, e.position, e.wpl, i, e.cls, e.state = 1, seals e.cls e.position⟩)
  | 5 => f.seqs.map (fun i => let e := d.seqEnt i; ⟨e.list, e.position, e.wpl, i, e.cls, e.state = 1, seals e.cls e.position⟩)
  | _ => []

/-- The prefill tables that a slot's plate walks: place and rows of each, those of the decode batch table apart. -/
def prefillTables (ps : PlateSetIn) (i : ImpositionSeg) (c : Nat) (s : SlotEntry) : List (Nat × Nat) :=
  match plateOf ps s.plate with
  | none => []
  | some p => ((p.bundles.filterMap (fun w => (staticDesc ps (impOperands i) (c / 16) w).bind (walkOfDesc ps (bits w 63 60)))).filter
      (fun (w : WalkDesc) => w.table ≠ batchRowAddr 0)).map (fun w => (w.table, w.firstRow + w.rowCount))

/-- Write a prefill table; rows that no sequence takes have VALID 0. -/
def Dev.writePrefill (d : Dev) (rows : List BatchRow) (t : Nat × Nat) : Dev :=
  d.each (List.range t.2) (fun d k => d.putWord (t.1 + 64 * k) (rows.getD k .none).word)

/-- Write one slot's operand block, and the prefill tables with it. -/
def Dev.writeBlock (d : Dev) (ps : PlateSetIn) (i : ImpositionSeg) (c : Nat) (s : SlotEntry) (f : Option Forme) : Dev :=
  let a := blockAddr c s
  let d := d.putWord a (headerWord f s.operandWords)
  match f with
  | some f =>
    let d := d.each (d.blockWords ps c s f).zipIdx (fun d w => d.putWord (a + 64 * (w.2 + 1)) w.1.word)
    if 3 ≤ f.kind ∧ f.kind ≤ 5 then d.each (prefillTables ps i c s) (fun d t => d.writePrefill (d.prefillRows f) t) else d
  | none => d

/-- Slots of the imposition with their group's occupant: core, slot, forme. -/
def Dev.occupants (d : Dev) : List (Nat × SlotEntry × Option Forme) :=
  match d.imposition with
  | none => []
  | some i =>
    let gs := d.groups
    (gs.zipIdx.map (fun (g : GroupEntry × Nat) =>
      let f := d.formes.find? (fun f => f.group = some g.2)
      g.1.cores.filterMap (fun c => (groupSlot i gs g.2 c).map (fun s => (c, s, f))))).flatten

/-- A forme one of whose operand blocks fails its checks is refused with the code: its slots stay empty (R112). -/
def Dev.refuseBlocks (d : Dev) (ps : PlateSetIn) (f : Forme) : Dev :=
  let mine := d.occupants.filter (fun o => o.2.2.any (fun g => g.id = f.id))
  match (mine.map (fun o => let ws := d.blockWords ps o.1 o.2.1 f; d.blockStatus (blockOps ps o.2.1 f ws) ws)).find? (· ≠ 0) with
  | some st => (d.bump 0x2506_02).refuseForme f st
  | none => d

def Dev.refuseAll (d : Dev) : Dev :=
  match d.activeSet with
  | none => d
  | some ps => d.each (d.formes.filter (fun f => f.group.isSome)) (fun d f => d.refuseBlocks ps f)

/-- Every operand block of the frame. -/
def Dev.writeBlocks (d : Dev) : Dev :=
  match d.activeSet, d.imposition with
  | some ps, some i => d.each d.occupants (fun d o => d.writeBlock ps i o.1 o.2.1 o.2.2)
  | _, _ => d

/-- Galley ranges that the descriptors of an operand block name. -/
def Dev.blockRanges (d : Dev) (ps : PlateSetIn) (c : Nat) (s : SlotEntry) (f : Forme) : Ranges :=
  let ws := d.blockWords ps c s f
  ((blockOps ps s f ws).zip ws).map (fun e => [(e.2.src, e.2.srcSpan e.1), (e.2.dst, e.2.dstSpan e.1)]) |>.flatten

/-- Gating: the groups that occupied slots name, by their plates or by their operand blocks. -/
def Dev.gateFrame (d : Dev) : Dev :=
  let os := d.occupants.filter (fun o => o.2.2.isSome)
  let gs := (os.map (fun o => d.groupsOf o.1 o.2.1)).flatten
  let bs := match d.activeSet with
    | some ps => (os.map (fun o => match o.2.2 with | some f => groupsIn8 (d.blockRanges ps o.1 o.2.1 f) | none => [])).flatten
    | none => []
  d.latch.gateAll (gs ++ bs).eraseDups

/-! ## The frame start -/

/-- The lead-in of the slug manager, Text Unit, adaptation and fabric. -/
def Dev.leadIn (d : Dev) : Dev :=
  ((((((d.fabricLeadIn).slugLeadIn).cutHeld).tryPublish).freshTemplates).writeBatch).lowWaterAlarm

/-- Admission, placement and occupancy of the coming frame. -/
def Dev.fillFrame (d : Dev) (old : List Forme) : Dev :=
  let d := (d.holdFormes.settle.settleTemplates.placeAll).makeAll old
  let d := d.refuseAll.gateFrame.writeBlocks
  { d with plate := { d.plate with frameLen := d.rdp 0x2504_03 + d.plate.slip } }

/-- A frame start but for what is sampled at it. -/
def Dev.startFrame (d : Dev) : Dev :=
  let d := { d with plate := { d.plate with frameStart := d.now, slip := 0, slotsNow := [], scrubbed := [], patrolled := false } }
  let d := (d.bump 0x2504_06).frameEndTags
  let old := d.perFrameOld
  let d := d.dropPerFrame.readmitAll.ageGroups
  if d.mayLeave then d.takeLeaving.leavePress
  else (((d.forceRestarts old).takeChanges).leadIn).fillFrame old

/-- FRAME_START: in Press, with TJ_MAX sampled once per frame (R298). -/
def frameStart (temps : TempsIn) (d : Dev) : Dev := if d.inPress then d.startFrame.sampleTemps temps else d

/-! ## Statistics fold (R85) -/

/-- A count held as an FP32 integer. -/
def laneNat (w : F32) : Nat :=
  match Num.of32 w with
  | .fin _ m e => if e ≥ 0 then m * 2 ^ e.toNat else m / 2 ^ (-e).toNat
  | _ => 0

def laneInt (w : F32) : Int := match Num.of32 w with | .fin s _ _ => if s then -(laneNat w : Int) else laneNat w | _ => 0

/-- FP64 sum of an entry's value and a lane, rounded once. -/
def addF64 (old : Nat) (w : F32) : Nat := fmtF64.encode ((fmtF64.decode old).add (.of32 w)) .nearest

/-- The larger of two FP32 magnitudes. -/
def maxF32 (a : Nat) (w : F32) : Nat := if (Num.of32 (BitVec.ofNat 32 a)).le (.of32 w) then w.toNat else a

/-- Fold one segment of 16 result lanes into its statistics slot; one of STAT_SLOT 0 is discarded and counted, and so is
one above 63 (DESIGN CHOICE, log entry 145). -/
def Dev.foldSegment (d : Dev) (l : List F32) : Dev :=
  let at_ (i : Nat) : F32 := l.getD i 0#32
  let slot := laneNat (at_ 15)
  if slot = 0 ∨ slot > 63 then d.bump 0x2440_05
  else
    let k (sub : Nat) : Nat := dkey (0x2440 + slot) sub
    let d := (((d.bumpBy (k 1) (laneNat (at_ 9))).bumpBy (k 2) (laneNat (at_ 10))).bumpBy (k 3) (laneNat (at_ 8))).bumpBy (k 4) (laneNat (at_ 3))
    let d := ((d.wr (k 5) (addF64 (d.rd (k 5)) (at_ 6))).wr (k 6) (addF64 (d.rd (k 6)) (at_ 7))).wr (k 7) (maxF32 (d.rd (k 7)) (at_ 0))
    let e := laneInt (at_ 4)
    let d := if e = -128 then d else (d.wri (k 8) 8 (min (signed 8 (d.rd (k 8))) e)).wri (k 9) 8 (max (signed 8 (d.rd (k 9))) e)
    d.bump 0x2440_04

/-- Fold the segments of one stored block. -/
def Dev.foldBlock (d : Dev) (b : Nat × Nat) : Dev := d.each (d.segmentsOf b.2) Dev.foldSegment

def Dev.foldAll (d : Dev) : Dev :=
  let bs := d.plate.folds
  ({ d with plate := { d.plate with folds := [] } }).each bs Dev.foldBlock

/-! ## Slot starts (R60, R98, R111, R296, R371, R374) -/

/-- The lowest core that the imposition uses. -/
def Dev.firstCore (d : Dev) : Nat := if d.rd 0x2504_02 = 1 then 16 else 0

/-- A core is in a slot of its list, of the frame under way. -/
def Dev.enterSlot (d : Dev) (c : Nat) (s : SlotEntry) : Dev :=
  { d with plate := { d.plate with slotsNow := kvInsert d.plate.slotsNow c s.start } }

/-- Is a core in a background slot that holds an offset of the frame? -/
def Dev.inBackground (d : Dev) (c t : Nat) : Bool :=
  match d.plate.slotsNow.find? (fun e => e.1 = c) with
  | some e => (d.slotList c).any (fun s => s.start = e.2 && s.slotType = 6 && s.start ≤ t && t < s.start + s.length)
  | none => false

/-- Does a die's scrub window begin: is every core of the die in its background slot there, for the first time in the frame
(R98, R117)? -/
def Dev.scrubDue (d : Dev) (die : Nat) : Bool :=
  !d.plate.scrubbed.contains die &&
    (match d.imposition.bind (fun i => scrubStart i die) with
     | some t => (List.range 16).all (fun k => d.inBackground (16 * die + k) t)
     | none => false)

/-- The scrub window of a core's die begins where the core's slot start completes it. -/
def Dev.slotScrub (d : Dev) (c : Nat) (scrub : ScrubIn) : Dev :=
  if d.scrubDue (c / 16) then
    ({ d with plate := { d.plate with scrubbed := setAdd (c / 16) d.plate.scrubbed } } : Dev).scrubDie (c / 16) d.scrubWords scrub
  else d

/-- The earliest START among the imposition's background slots (R374). -/
def firstBackground (i : ImpositionSeg) : Option Nat :=
  (((i.slots.map (fun c => (ofType 6 c.2).map (·.start))).flatten)).foldl
    (fun best a => match best with | none => some a | some b => some (min a b)) none

/-- The patrol of the frame starts at the first background slot of the imposition. -/
def Dev.slotPatrol (d : Dev) (s : SlotEntry) (scrub : ScrubIn) : Dev :=
  if !d.plate.patrolled ∧ d.imposition.bind firstBackground = some s.start ∧ s.slotType = 6 then
    ({ d with plate := { d.plate with patrolled := true } } : Dev).patrol scrub
  else d

/-- Background work of a slot: the die's scrub window, the patrol and the fold, refresh in a shadow slot. -/
def Dev.slotWork (d : Dev) (c : Nat) (s : SlotEntry) (scrub : ScrubIn) : Dev :=
  let d := d.enterSlot c s
  if s.slotType = 6 then
    let d := (d.slotScrub c scrub).slotPatrol s scrub
    if c = d.firstCore then d.foldAll else d
  else if s.slotType = 7 ∧ c = d.firstCore then d.refreshWork scrub.dram
  else d

/-- An idle slot: OCCUPIED 0. -/
def Dev.emptySlot (d : Dev) (s : SlotEntry) : Dev :=
  let d := d.bump 0x2506_01
  if s.slotType = 2 ∧ d.hungry then { d with batch := { d.batch with encoderEmpty := true } } else d

/-- A core takes its key from the header and begins its plate. -/
def Dev.beginSlot (d : Dev) (c : Fin 96) (s : SlotEntry) (w : Nat) : Dev :=
  d.setCore c { d.core c with running := true, stopped := 0, frozen := false, detected := false, forme := bits w 479 448, plate := s.plate,
                              slot := s.slotType, seed := bits w 447 384, step := bits w 351 320, cycle := 0, bundle := 0, loops := [],
                              replayLoops := [], replayBundle := 0, header := none }

/-- A core idles: what its plate launched has moved, and what landed after END has taken effect. -/
def Dev.idleCore (d : Dev) (c : Fin 96) : Dev :=
  let d := d.engineEnd c
  let x := d.core c
  let y := x.catchUp d.word (x.loads.foldl (fun m l => max m (l.start + 3)) 0)
  d.setCore c { y.flush.1 with running := false, ended := false, replaying := false, inFlight := [], loads := [], header := none,
                               launches := [] }

/-- A core's slot is over: a core that has not issued END stops with 0302h (R60). -/
def Dev.endSlot (d : Dev) (c : Fin 96) : Dev :=
  let x := d.core c
  (if x.running ∧ !x.ended then d.stopCore c x 0x0302 else d).idleCore c

/-- A header whose check fails, or that is not well formed, is a detection on a core read (R290): restored where it can be,
and the core freezes until its replay reads the header again (R61, R95). A second one ends the replay with 0309h. -/
def Dev.headerFails (d : Dev) (c : Fin 96) (s : SlotEntry) (n : Nat) (again : Bool) : Dev :=
  let a := blockAddr c.val s
  let f := (d.occupants.find? (fun o => o.1 = c.val && o.2.1.start = s.start)).bind (fun o => o.2.2)
  let d := (d.detection a 0).restoreIf a .restored
  match f with
  | none => d
  | some f =>
    let x := { d.core c with running := true, frozen := true, detected := true, ended := false, stopped := 0, forme := f.id,
                             plate := s.plate, slot := s.slotType, cycle := 0, bundle := 0, header := some n }
    if again then d.stopCore c { x with header := none } 0x0309 else d.setCore c x

/-- The header of slot n of a core's list is read, and a slot that is to run begins; again: by a replay. -/
def Dev.headerStart (d : Dev) (c : Fin 96) (s : SlotEntry) (n : Nat) (again : Bool := false) : Dev :=
  let a := blockAddr c.val s
  let w := d.word a
  if d.isPoisoned a ∨ !pairsOk w [448, 320] then d.headerFails c s n again
  else if bit w 283 ∧ !d.power.shutdown then d.beginSlot c s w
  else d.emptySlot s

/-- STEP_REPLAY (R61): a core frozen by a detection issues again from its replay point, or from the header of its slot where
that failed (R290). -/
def stepReplay (c : Fin 96) (d : Dev) : Dev :=
  let x := d.core c
  match x.header.bind (fun n => ((d.slotList c.val)[n]?).map (fun s => (n, s))) with
  | some e =>
    if x.running ∧ x.frozen then
      ((d.setCore c { x with running := false, frozen := false, header := none }).bump 0x2404_01).headerStart c e.2 e.1 true
    else d
  | none => replayCore c d

/-- SLOT_START of the n-th slot of a core. -/
def slotStart (c : Fin 96) (n : Nat) (scrub : ScrubIn) (d : Dev) : Dev :=
  match (d.slotList c.val)[n]? with
  | none => d
  | some s =>
    if !d.inPress then d
    else
      ((d.endSlot c).headerStart c s n).slotWork c.val s scrub

/-- BACKGROUND_TICK: background work of Chase and Proof, every 1 ms (R296). -/
def backgroundTick (scrub : ScrubIn) (temps : TempsIn) (d : Dev) : Dev :=
  if d.run = .on ∧ d.stage ≤ 2 then
    let d := (List.range 6).foldl (fun d n => d.scrubDie n (d.rd 0x2301_01) scrub) d
    let d := if d.stage = 2 then (d.patrol scrub).refreshWork scrub.dram else d
    d.sampleTemps temps
  else d

/-! ## Press entry (R314, R315) -/

/-- The die that the first imposition leaves out: the one that has a lasting decision or has not passed (R123, R315). -/
def Dev.entryDie (d : Dev) : Nat :=
  match (List.range 6).find? (fun n => d.isLasting 0 n || !d.ready (20 + n)) with
  | some n => n + 1
  | none => 0

/-- Steps 1 to 4 of R315. -/
def Dev.enterPress (d : Dev) : Dev :=
  let d := d.wr 0x2504_02 d.entryDie
  let d := d.each d.usedDies (fun d n => d.setView n true)
  d.enterImposition.loadResident.checkRegions.ringChecks

/-- Channels wait for their first gap in Press, which qualifies for makeready (R139). -/
def Dev.firstGaps (d : Dev) : Dev := (List.range 4).foldl (fun d ch => if d.chanOn ch then d.updChan ch (fun c => { c with firstGap := true }) else d) d

/-- PRESS_ENTRY: when every condition of Table 15-4 holds with TARGET_STAGE 3. -/
def pressEntry (d : Dev) : Dev :=
  if d.run = .on ∧ d.stage = 2 ∧ d.rd 0x2000_02 = 3 ∧ d.pressCondition = 0 then
    let d := ((d.abortLoops (fun _ => true)).wr 0x2000_01 3).enterPress.firstGaps
    let d := (((d.wr 0x2000_09 d.now).bump 0x2000_0A).wr 0x2504_06 0).wr 0x2000_06 0
    let d := (d.setReady 2 true).setReady 3 (!d.readingStopped)
    d.startFrame
  else d

/-- TARGET_STAGE 2: in Press a leave becomes pending; no new PAGE_SEQ, and an adaptation run stops (R318). -/
def targetProofDo (d : Dev) : Dev :=
  let d := d.wr 0x2000_02 2
  if d.stage = 3 then
    (if d.rd 0x3E12_02 = 1 then adaptStopDo (d.wr 0x2000_06 1) else d.wr 0x2000_06 1)
  else d

/-- TARGET_STAGE 3: a pending leave is cancelled. -/
def targetPressDo (d : Dev) : Dev := (d.wr 0x2000_02 3).wr 0x2000_06 0

end Sys2Proof.Machine
end

