-- ==== Sys2Proof/Machine/Start.lean ====
section
/-! DEFINITION. Resets and the staged start (R303 to R320, R398, R405, R444): full resets, the boot decision, Chase and
Proof entry, DDR5 training, function starts, recovery. -/

namespace Sys2Proof.Machine

/-! ## Full resets (R303) -/

/-- Level of AXn_FLT_N, a pin, as it stands. -/
def keepPins (axes : Kv AxisSt) : Kv AxisSt :=
  (axes.filter (fun a => a.2.fltLow)).map (fun a => (a.1, { AxisSt.init with fltLow := true }))

/-- A full reset: every unit and SRAM in its reset state, flash and fuses as they are. Pins keep their levels. -/
def Dev.fullReset (d : Dev) (cause : Nat) : Dev :=
  let r : Dev := { Dev.inReset with nv := d.nv, out := d.out, draws := d.draws, axes := keepPins d.axes,
                                    host := { HostSt.init with perst := d.host.perst } }
  r.wr 0x2002_01 cause

def powerOnReset (d : Dev) : Dev := d.fullReset 1
def resetNAsserted (d : Dev) : Dev := d.fullReset 2
def managementWatchdog (d : Dev) : Dev := if d.run = .held then d else d.fullReset 3
def resetRequestDo (d : Dev) : Dev := d.fullReset 4
def fieldNetworkReset (d : Dev) : Dev := if d.run = .on then d.fullReset 5 else d
def referenceClockLoss (d : Dev) : Dev := d.fullReset 7

/-! ## Reset release and the boot ROM (R304, R398, R422) -/

/-- The ROM enters recovery (R319): only RECOVERY is set. -/
def Dev.enterRecovery (d : Dev) : Dev :=
  (({ d with run := .on } : Dev).wr 0x2000_01 4).wr 0x2001_01 (2 ^ 42) |>.event 0x070E 0

/-- The boot decision. -/
def Dev.boot (d : Dev) : Dev :=
  let r := ((d.nv.cutShort 0).cutShort 1).decide
  let d := ((d.setNv r.1).wr 0x4400_06 r.2.1).drawChallenge
  match r.2.2 with
  | some s => { d with run := .booting, fw := { d.fw with running := s } }
  | none => d.enterRecovery

/-- RESET_RELEASE: device time starts at 0. TMODE other than 00b keeps the part in reset. -/
def resetRelease (tmode : Nat) (d : Dev) : Dev :=
  if d.run ≠ .held then d
  else
    let d := { d with now := 0, start := { d.start with tmode := tmode } }
    if tmode = 0 then d.boot else d

/-! ## Chase (R305 to R307, R328, R329, R444) -/

/-- Groups of Table 16-8 by entry. -/
def restoreGroup (key : Nat) : Nat := if (0x1000_00 ≤ key ∧ key < 0x2000_00) ∨ (0x4810_00 ≤ key ∧ key < 0x4811_00) then 2 else 3

/-- The newest generation that verifies. -/
def Nv.generation (n : Nv) : Option StoreGen := n.store.find? (·.ok)

/-- Groups marked for defaults leave the store (R329). -/
def Nv.dropMarked (n : Nv) : Nv :=
  let keep (key : Nat) : Bool := !n.marks.contains (restoreGroup key)
  let drop (g : StoreGen) : StoreGen :=
    { g with values := g.values.filter (fun e => keep e.1), strings := g.strings.filter (fun e => keep e.1),
             refs := if n.marks.contains 4 then [] else g.refs }
  { n with store := n.store.map drop, marks := [] }

/-- The highest erase count of the store's sectors. -/
def Nv.erasesMax (n : Nv) : Nat := n.erases.foldl (fun m e => max m e.2) 0

/-- The parameter store is read: its values wait for the moment at which each is applied (R307). -/
def Dev.readStore (d : Dev) : Dev :=
  let d := d.setNv d.nv.dropMarked
  let d := d.wr 0x4811_04 d.nv.erasesMax
  match d.nv.generation with
  | none => d.wr 0x4811_01 3
  | some g =>
    let d := (d.wr 0x4811_02 g.generation).wr 0x4811_03 g.bytes
    { d with start := { d.start with later := g.values, laterDom := g.strings } }

/-- The stored references of the generation in force become active (R142, R328). -/
def Dev.readRefs (d : Dev) : Dev :=
  match d.nv.generation with
  | some g => d.each g.refs (fun d r => d.storedReference r.1 r.2)
  | none => d

/-- Node-ID, mode and bit rates of 4810h take effect (R331). -/
def Dev.takeCanSettings (d : Dev) : Dev :=
  { d with net := { d.net with node := d.rd 0x4810_01, canMode := d.rd 0x4810_02, bitRate := d.rd 0x4810_03, dataRate := d.rd 0x4810_04 } }

/-- The EtherCAT and CAN controllers start; the settings of 4810h take effect, and CAN sends its boot-up message (R331). -/
def Dev.startNets (d : Dev) : Dev :=
  let d := (d.setReady 27 true).takeCanSettings
  if d.net.canMode = 0 then d else (d.setReady 28 true).emit (.bootUp d.net.node)

/-- What Chase entry does before stored values are applied. -/
def Dev.enterChase (d : Dev) : Dev :=
  let d := (({ d with run := .on, start := { d.start with stageTime := d.now } } : Dev).wr 0x2000_01 1).wr 0x2002_02
    (d.now / 1000)
  let d := d.readStore.readRefs
  let d := (d.setReady 41 (!d.onTrial)).pcieBit
  if d.rd 0x4400_06 = 0x0708 then d.event 0x0708 0 else d

/-! ## Proof (R310, R362, R363) -/

/-- Populated sets that the part supports (R362). -/
def populationOk (cs : List Nat) : Bool := cs = [0, 4] || cs = [0, 1, 4, 5] || cs = [0, 1, 2, 3, 4, 5, 6, 7]

/-- A module's contents within R362. -/
def spdOk (s : Spd) : Bool :=
  16 ≤ s.gib && s.gib ≤ 64 && (s.ranks = 1 || s.ranks = 2) && (s.width = 4 || s.width = 8) &&
    (s.gbit = 16 || s.gbit = 24 || s.gbit = 32) && !s.other

/-- SPD of each channel: as read, or by SPD_IMAGE where no hub answered. -/
def Dev.channelSpd (d : Dev) (spd : List (Fin 8 × Spd)) (x : Nat) : Option Spd :=
  match spd.find? (fun e => e.1.val = x) with
  | some e => some e.2
  | none =>
    if d.rdDom 0x4102_01 = [] then none
    else
      let i := Config.spdOf (d.rdDom 0x4102_01)
      some ⟨i.1, i.2.1, i.2.2.1, i.2.2.2.1, i.2.2.2.2⟩

/-- SPD_READ: POPULATED, CHANNEL_GIB and RANKS; a population that breaks R362 fails every channel with 0453h. -/
def Dev.spdRead (d : Dev) (spd : List (Fin 8 × Spd)) : Dev :=
  let found := (List.range 8).filterMap (fun x => (d.channelSpd spd x).map (fun s => (x, s)))
  let mask := found.foldl (fun m e => m + 2 ^ e.1) 0
  let d := d.wr 0x4100_02 mask
  let first := (found.head?).map (·.2)
  let d := match first with | some s => (d.wr 0x4100_03 s.gib).wr 0x4100_04 s.ranks | none => d
  if populationOk (found.map (·.1)) && found.all (fun e => spdOk e.2 && some e.2 = first) then d
  else
    let d := d.each found (fun d e => d.setFailed (12 + e.1))
    (d.emergency 0x0453 clsLasting 0).layoutFix

/-- The Chase cause of each axis's safe state ends; its ready bit sets where AXn_FLT_N is high. -/
def Dev.axesStart (d : Dev) : Dev := (List.range 4).foldl (fun d ax => (d.axisReady ax).tryLeave ax) d

/-- PROOF_ENTRY: the last firmware segment has verified. -/
def Dev.enterProof (d : Dev) (spd : List (Fin 8 × Spd)) : Dev :=
  let d := d.abortLoops (fun _ => true)
  let d := (({ d with start := { d.start with stageTime := d.now, ddrRate := d.rd 0x4100_01 } } : Dev).wr 0x2000_01 2).wr 0x2002_03 (d.now / 1000)
  let d := (d.setReady 1 true).selfTestPassed
  let d := ((List.range 6).foldl Dev.startGalleyTest d).spdRead spd
  (d.axesStart.trainPorts).followBits

def proofEntryBase (spd : List (Fin 8 × Spd)) (d : Dev) : Dev := if d.run = .on ∧ d.stage = 1 then d.enterProof spd else d

/-! ## DDR5 training and memory test (R311) -/

/-- Is a channel still to train or to test? -/
def Dev.channelOpen (d : Dev) (x : Nat) : Bool :=
  (d.stage = 2 || d.stage = 3) && d.populated.contains x && !d.ddrPassed.contains x && !bit (d.rd 0x2001_02) (12 + x)

/-- A channel fails its start; the layout may now be fixed by the others. -/
def Dev.channelFails (d : Dev) (x status : Nat) : Dev := ((d.setFailed (12 + x)).emergency status clsLasting x).layoutFix

/-- DDR_TRAINING_DONE: the memory test begins, or 0450h. -/
def ddrTrainingDone (x : Nat) (ok : Bool) (d : Dev) : Dev :=
  if d.channelOpen x ∧ !d.ddrTrained.contains x then
    (if ok then { d with ddrTrained := setAdd x d.ddrTrained } else d.channelFails x 0x0450)
  else d

/-- DDR_MEMORY_TEST_DONE: passed, with the words corrected counted, or 0451h. -/
def ddrMemoryTestDone (x : Nat) (ok : Bool) (corrected : Nat) (d : Dev) : Dev :=
  if d.channelOpen x ∧ d.ddrTrained.contains x then
    let d := d.bumpBy (dkey 0x4105 (x + 1)) corrected
    if ok then ({ d with ddrPassed := setAdd x d.ddrPassed }).layoutFix else d.channelFails x 0x0451
  else d

/-! ## Function starts (R308) -/

/-- Start bit of a function. -/
def fnBit : StartFn → Nat
  | .scheduler => 33
  | .textUnit => 34
  | .gu0 => 35
  | .gu1 => 36
  | .slug => 37
  | .batch => 38
  | .scan ch => 4 + ch.val

/-- FUNCTION_START_COMPLETE: once in a run of the part, from Proof on. -/
def functionStart (fn : StartFn) (d : Dev) : Dev :=
  if d.run = .on ∧ (d.stage = 2 ∨ d.stage = 3) ∧ !d.start.fnsStarted.contains (fnBit fn) then
    let d := { d with start := { d.start with fnsStarted := setAdd (fnBit fn) d.start.fnsStarted } }
    d.setReady (fnBit fn) true
  else d

/-! ## Recovery (R319, R405) -/

/-- The slot that the record does not name. -/
def Dev.recoverySlot (d : Dev) : Nat := 1 - d.nv.record.active

/-- RECOVERY_STATE and RECOVERY_STATUS. -/
def Dev.recoveryShows (d : Dev) (state status : Nat) : Dev := (d.wr 0x4410_02 state).wr 0x4410_03 status

/-- Checks 1 to 6 on a recovery image. -/
def Dev.recoveryStatus (d : Dev) (c : ContainerIn) : Nat :=
  let st := d.nv.manifestStatus (· = 1) fwSlotBytes c
  if st ≠ 0 then st else if !c.digestsOk then 0x0705 else if ckSv c < d.nv.minSv then 0x070B else 0

/-- Abort code of a piece of the recovery image, 0 to take it: in ascending order, within a slot. -/
def Dev.recoveryCode (d : Dev) (offset n : Nat) : Nat :=
  if offset ≠ d.fw.recoveryNext then 0x0607_0010 else if offset + n > fwSlotBytes then 0x0607_0012 else 0

/-- A transfer of the recovery image breaks off: the next begins at offset 0. -/
def Dev.recoveryBreak (d : Dev) : Dev := ({ d with fw := { d.fw with recoveryNext := 0, recoveryBytes := [] } } : Dev).recoveryShows 0 0

/-- A piece of the image that is taken goes straight to flash. -/
def Dev.recoveryTake (d : Dev) (offset : Nat) (bs : List Byte) : Dev :=
  let d := if offset = 0 then d.setNv (d.nv.setSlot d.recoverySlot ⟨1, none⟩) else d
  let sofar := if offset = 0 then [] else d.fw.recoveryBytes
  ({ d with fw := { d.fw with recoveryNext := offset + bs.length, recoveryBytes := sofar ++ bs } } : Dev).recoveryShows 1 0

/-- An image that does not verify: the slot is rejected and the part waits again. -/
def Dev.recoveryFails (d : Dev) (st : Nat) : Dev := (d.setNv (d.nv.setSlot d.recoverySlot ⟨5, none⟩)).recoveryShows 3 st

/-- The last piece is written: the slot is verified, and the part resets with RESET_CAUSE 6, or waits again. -/
def Dev.recoveryDone (d : Dev) (c : ContainerIn) : Dev :=
  let k := d.recoverySlot
  let st := d.recoveryStatus c
  let d := ({ d with fw := { d.fw with recoveryNext := 0, recoveryBytes := [] } } : Dev).recoveryShows 2 0
  if st = 0 then
    (d.setNv ((d.nv.setSlot k ⟨2, some (imageOf c)⟩).write ⟨0, k, true, 0, false, false⟩)).fullReset 6
  else d.recoveryFails st

/-- The end of an image whose command carries bytes alone: what they spell is an open function of them (log entry 156); bytes
that are no container fail check 1. -/
def Dev.recoveryFinal (d : Dev) : Dev :=
  match Config.containerOf d.fw.recoveryBytes with
  | some c => d.recoveryDone c
  | none => ({ d with fw := { d.fw with recoveryNext := 0, recoveryBytes := [] } } : Dev).recoveryFails 0x0701

/-- A piece of the image by a path that answers with an abort. -/
def Dev.recoveryPiece (d : Dev) (p : Path) (offset : Nat) (bs : List Byte) (last : Option ContainerIn) : Dev :=
  let code := d.recoveryCode offset bs.length
  if code ≠ 0 then d.recoveryBreak.abort p 0x4410_01 code
  else
    match last with
    | some c => (d.recoveryTake offset bs).recoveryDone c
    | none => d.recoveryTake offset bs

/-- The whole image in one domain write. -/
def Dev.recoveryWhole (d : Dev) (p : Path) (bs : List Byte) : Dev :=
  let code := d.recoveryCode 0 bs.length
  if code ≠ 0 then d.recoveryBreak.abort p 0x4410_01 code else (d.recoveryTake 0 bs).recoveryFinal

/-- RECOVERY_IMAGE_WRITE; outside recovery it is refused (R5), and EtherCAT carries it in BOOT alone (R330, R405). -/
def recoveryImageWrite (p : Path) (offset : Nat) (bytes : List Byte) (last : Option ContainerIn) (d : Dev) : Dev :=
  if d.run ≠ .on then d
  else if d.stage = 4 ∧ (p ≠ .ecat ∨ d.net.al = .boot) then d.recoveryPiece p offset bytes last
  else d.abort p 0x4410_01 0x0800_0022

end Sys2Proof.Machine
end

