-- ==== Sys2Proof/Machine/HostIf.lean ====
section
/-! DEFINITION. The host interface (R341 to R361): resets of the PCIe function, polls, job entries of every kind, ring and
list enables, pass-through, BAR2, host reads that fail, MSI-X. -/

namespace Sys2Proof.Machine

/-! ## The PCIe function (R343) -/

/-- A write to host memory; it waits while the part issues no host access. -/
def Dev.hostWrite (d : Dev) (addr : Nat) (bs : List Byte) : Dev :=
  if d.busOn then d.emit (.hostWrite addr bs)
  else { d with host := { d.host with owed := d.host.owed ++ [.hostWrite addr bs] } }

/-- A read that completes an entry with 0110h leaves it in LAST_STATUS (R288, R438). -/
def Dev.readRefused (d : Dev) : Dev := d.wr 0x4000_0D 0x0110

/-- A load whose buffer cannot be read beyond its first bytes (R360). Before a byte of a segment was written the target is as it
was, and its earlier contents with it; afterwards they have been given up (R400). COUNT is the bytes read. -/
def Dev.loadReadFails (d : Dev) (l : Load) (read : Nat) : Dev :=
  match l.manifest with
  | none => d.readRefused.refuseEarly l 0x0110 read
  | some c =>
    if read ≤ manifestBytes c then (d.readRefused.keepContents l).refuseEarly l 0x0110 read
    else d.readRefused.refuseAfter l 0x0110 read

/-- The image of entry k of a list cannot be read: its page side ends as R268 lays down, with status 0110h. -/
def Dev.imageReadFails (d : Dev) (p : PageSide) (n k : Nat) : Dev :=
  match d.batch.decodes.find? (fun x => x.job = some (n, k)) with
  | some x => d.failDecode x 0x0110 0
  | none =>
    let d := { d with batch := { d.batch with images := d.batch.images.filter (fun i => i ≠ (p.ring, p.seq)) } }
    let d := d.updPage p.ring p.seq (fun q => { q with lineCount := 0 })
    ((d.passEdge p.ring p.seq).bareGroup p.ring p.seq 0x0110).completeEntry n k 0x0110 p.seq

/-- The next entry of a list is fetched, with its descriptor (R345, R440). -/
def Dev.addEntry (d : Dev) (n desc : Nat) : Dev :=
  let x := d.list n
  let k := x.fetched
  let d := d.setList n { x with fetched := k + 1, entries := x.entries ++ [⟨k, desc, .fetched, none, d.host.fetches⟩] }
  { d.wr (dkey (listIx n) 12) ((k + 1) % 2 ^ 32) with host := { d.host with fetches := d.host.fetches + 1 } }

/-- What a read that still fails leaves behind (R360). -/
def Dev.readConsequence (d : Dev) : HostReadOf → Dev
  | .listWord _ => d
  | .ringWord _ => d
  | .passWord _ => d
  | .descriptor n k =>
    let x := d.list n
    if k = x.fetched then
      (d.addEntry n 0).readRefused.completeEntry n k 0x0110 0
    else d
  | .buffer n k read =>
    match d.entry? n k with
    | none => d
    | some e =>
      if e.st = .done ∨ e.result.isSome then d
      else match d.fw.loads.find? (fun l => l.job = some (n.val, k)), d.pages.find? (fun p => p.job = some (n.val, k)) with
        | some l, _ => d.loadReadFails l read
        | none, some p => d.readRefused.imageReadFails p n k
        | none, none => if e.st = .fetched then d.readRefused.completeEntry n k 0x0110 0 else d

/-- A host read has failed for good: counted, with its consequence. -/
def Dev.failRead (d : Dev) (what : HostReadOf) : Dev :=
  let d := { d with host := { d.host with reads := d.host.reads.filter (fun r => r.what ≠ what) } }
  (d.bump 0x4000_09).readConsequence what

/-- A load of a job whose reads a reset of the function cuts off: a failed read (R343), after as many bytes of its buffer as a
free value says (log entry 169). -/
def Dev.cutJobLoad (d : Dev) (l : Load) : Dev :=
  let len := match l.job.bind (fun j => d.entry? j.1 j.2) with | some e => bits e.desc 415 384 | none => 0
  (d.drawn.bump 0x4000_09).loadReadFails l (d.draw % (len + 1))

/-- The configuration space, the MSI-X table and the mailbox return to their reset values; outstanding reads fail. -/
def Dev.endpointReset (d : Dev) : Dev :=
  let d := (d.wr 0x4000_04 0).bump 0x4000_0C
  let d : Dev :=
    { d with host := { d.host with unmasked := [], msixPending := [], lastReq := 0, request := mailboxIdle,
                                   requestData := [], response := mailboxIdle, responseData := [] },
             net := { d.net with staging := d.net.staging.filter (fun (s : Path × Nat × List Byte) => s.1 ≠ Path.mailbox) } }
  let d := d.each (d.host.reads.map (·.what)) Dev.failRead
  let d := d.each (d.fw.loads.filter (fun l => l.job.isSome)) Dev.cutJobLoad
  d.abortLoops (fun t => t = 0x20)

/-- PERST_N is asserted or released. -/
def perstN (asserted : Bool) (d : Dev) : Dev :=
  let d := { d with host := { d.host with perst := asserted } }
  (if asserted ∧ d.run ≠ .held then d.endpointReset else d).pcieBit

/-- FUNCTION_LEVEL_RESET; the endpoint is out of reset from reset release (R444). -/
def functionLevelReset (d : Dev) : Dev := if d.run = .held then d else d.endpointReset

/-- PCIE_LINK_CHANGE: LINK_GEN and LINK_WIDTH show the link; a link that goes down resets the function. -/
def pcieLinkChange (up : Bool) (gen width : Nat) (d : Dev) : Dev :=
  let was := d.host.linkUp
  let d := { d with host := { d.host with linkUp := up } }
  let d := if d.run = .held then d else (d.wr 0x4000_02 (if up then gen else 0)).wr 0x4000_03 (if up then width else 0)
  (if was && !up && d.run ≠ .held then d.endpointReset else d).pcieBit

/-- Vectors whose pending bit is set and that may be sent. -/
def Dev.sendPending (d : Dev) : Dev :=
  d.each (d.host.msixPending.filter (fun v => d.host.unmasked.contains v)) (fun d v =>
    { d with host := { d.host with msixPending := d.host.msixPending.filter (fun w => w ≠ v) } }.sendVector v)

/-- What has waited is written: host words, completions, groups, messages. -/
def Dev.sendOwed (d : Dev) : Dev :=
  let d := { d with out := d.out ++ d.host.owed, host := { d.host with owed := [] } }
  let d := (List.range 16).foldl Dev.flushList d
  d.settleRings.sendPending

/-- BUS_MASTER_ENABLE, at any time at which the configuration space answers; what has waited is written once bus mastering is
on, from Chase entry onward and never in recovery (R444). -/
def busMasterEnable (on : Bool) (d : Dev) : Dev :=
  if d.run = .held then d
  else
    let d := d.wr 0x4000_04 (flag on)
    if d.busOn then d.sendOwed else d

/-! ## MSI-X (R359) -/

/-- MSIX_UNMASK: a message found masked is sent. -/
def msixUnmask (v : Nat) (d : Dev) : Dev :=
  ({ d with host := { d.host with unmasked := setAdd v d.host.unmasked } } : Dev).sendPending

/-- MSIX_HOLDOFF_EXPIRY: one message covers the writes made during the holdoff. -/
def msixHoldoffExpiry (src : MsixSrc) (d : Dev) : Dev := if src ∈ d.host.heldMsgs then d.sendMsg src else d

/-! ## Host reads that fail (R360) -/

/-- HOST_READ_COMPLETION: the first try has failed; the read is issued again 1 ms later. -/
def hostReadCompletion (what : HostReadOf) (d : Dev) : Dev :=
  if d.host.reads.any (fun r => r.what = what) then d
  else { d with host := { d.host with reads := d.host.reads ++ [⟨what, 1, d.now + 1000000⟩] } }

/-- HOST_READ_RETRY: a further try, which ends well or fails; the third failure is final. -/
def hostReadRetry (what : HostReadOf) (fail : Option HostFail) (d : Dev) : Dev :=
  match d.host.reads.find? (fun r => r.what = what) with
  | none => d
  | some r =>
    let d := d.bump 0x4000_08
    let others := d.host.reads.filter (fun q => q.what ≠ what)
    match fail with
    | none => { d with host := { d.host with reads := others } }
    | some _ =>
      if r.tries ≥ 2 then d.failRead what
      else { d with host := { d.host with reads := others ++ [⟨what, r.tries + 1, d.now + 1000000⟩] } }

/-! ## Polls (R344, R345) -/

/-- A host word that a poll ignores: counted, an event, and in LAST_STATUS as every event (Table 14-5). -/
def Dev.badWord (d : Dev) : Dev := ((d.bump 0x4000_0A).wr 0x4000_0D 0x0104).event 0x0104 0

/-- The index of a host word within a limit of the OR-8's own index; none: not well formed or out of range. -/
def hostIndex (w own limit : Nat) : Option Nat :=
  let p := pairedAt w 0
  if p.2 && (p.1 + 2 ^ 32 - own % 2 ^ 32) % 2 ^ 32 ≤ limit then some p.1 else none

/-- Paired fields of a descriptor: those of every kind, and DIMS of images and samples. -/
def descPairs (desc : Nat) : List Nat :=
  [448, 384, 320, 256, 192, 128, 64] ++ (if jobKind desc = 1 ∨ jobKind desc = 3 then [832] else [])

/-- Width and height of a raw image in range, and 0 for every other format (R346). -/
def dimsOk (desc : Nat) (raw : Bool) : Bool :=
  let w := bits desc 847 832
  let h := bits desc 863 848
  if raw then 1 ≤ w && w ≤ 16384 && 1 ≤ h else w = 0 && h = 0

def loadTargetOk (t : Nat) : Bool := t ≤ 1 || (0x10 ≤ t && t ≤ 0x17) || (0x20 ≤ t && t ≤ 0x40)

/-- Reserved bits and ranges of Tables 17-2 and 17-3 (check 3 of R346). -/
def descFieldsOk (desc : Nat) : Bool :=
  bits desc 22 0 = 0 &&
  match jobKind desc with
  | 1 =>
    let fmt := bits desc 815 813
    let pl := bits desc 811 810
    let sk := signed 16 (bits desc 831 816)
    let slot := bits desc 805 798
    dimsOk desc (fmt = 0) && fmt ≤ 3 && -800 ≤ sk && sk ≤ 800 && (if fmt = 0 then pl = 1 || pl = 3 else pl = 0) &&
      bits desc 809 806 ≤ 8 && (slot ≤ 15 || slot = 255) && bits desc 797 512 = 0
  | 2 => bits desc 892 512 = 0
  | 3 => dimsOk desc (bits desc 815 813 = 0) && bits desc 815 813 ≤ 1 && bits desc 801 512 = 0
  | 4 => bits desc 895 888 ≤ 254 && bits desc 871 512 = 0 && bits desc 223 192 = 0
  | 5 => bits desc 891 512 = 0 && bits desc 223 192 = 0
  | 6 => loadTargetOk (bits desc 895 888) && bits desc 887 512 = 0 && bits desc 223 192 = 0
  | _ => false

/-- LEN of a descriptor, and its two host ranges. -/
def descLen (desc : Nat) : Nat := bits desc 415 384
def mainEnd (desc : Nat) : Nat := bits desc 351 320 + 2 ^ 32 * bits desc 287 256 + descLen desc
def auxEnd (desc : Nat) : Nat := bits desc 159 128 + 2 ^ 32 * bits desc 95 64 + bits desc 223 192

/-- Check 4 of R346: host ranges, and the counts that a kind has a limit for. -/
def Dev.rangesOk (d : Dev) (desc : Nat) : Bool :=
  mainEnd desc ≤ 2 ^ 62 && (jobKind desc > 3 || auxEnd desc ≤ 2 ^ 62) &&
  match jobKind desc with
  | 3 => bits desc 831 816 < d.rdp 0x3E10_01
  | 5 => descLen desc % 1152 = 0 && descLen desc ≤ 256 * 1152
  | _ => true

/-- Checks 1 to 4 of R346 on entry k: the first status, 0 for none. -/
def Dev.entryStatus (d : Dev) (k desc : Nat) : Nat :=
  if bits desc 479 448 ≠ k % 2 ^ 32 then 0x0105
  else if !pairsOk desc (descPairs desc) then 0x0102
  else if !descFieldsOk desc then 0x0101
  else if !d.rangesOk desc then 0x0106
  else 0

/-- Entry k = fetch count is taken. -/
def Dev.takeEntry (d : Dev) (n desc : Nat) : Dev :=
  let k := (d.list n).fetched
  let d := d.addEntry n desc
  let st := d.entryStatus k desc
  if st = 0 then d else d.refuseEntry n k st

/-- Fetched entries of a list that have not completed. -/
def Dev.entriesHeld (d : Dev) (n : Nat) : Nat := ((d.list n).entries.filter (fun e => e.st ≠ .done)).length

/-- Fetch in order up to PROD, at most 32 held. -/
def Dev.fetch (d : Dev) (n prod : Nat) : List Nat → Dev
  | [] => d
  | desc :: r =>
    if (d.list n).fetched % 2 ^ 32 ≠ prod ∧ d.entriesHeld n < 32 then (d.takeEntry n desc).fetch n prod r else d

/-- One list's host word, then its descriptors. -/
def Dev.pollList (descs : List (Fin 16 × Nat)) (d : Dev) (e : Fin 16 × Nat) : Dev :=
  let n := e.1.val
  if d.on? (dkey (listIx n) 11) then
    match hostIndex e.2 (d.list n).cons (d.rdp (dkey (listIx n) 1)) with
    | none => d.badWord
    | some prod =>
      if (prod + 2 ^ 32 - (d.list n).cons % 2 ^ 32) % 2 ^ 32 < (d.list n).fetched - (d.list n).cons then d
      else d.fetch n prod ((descs.filter (fun x => x.1 = e.1)).map (·.2))
  else d

/-- A ring's CONSUMED: at most SIZE bytes behind PRODUCED. -/
def consumedOk (w produced size : Nat) : Option Nat :=
  let p := pairedAt w 0
  if p.2 && (produced + 2 ^ 32 - p.1) % 2 ^ 32 ≤ size then some p.1 else none

def Dev.pollRing (d : Dev) (e : Fin 16 × Nat) : Dev :=
  let n := e.1.val
  if d.on? (dkey (0x4030 + n) 11) then
    match consumedOk e.2 (d.ring n).produced (d.ringSize n) with
    | none => d.badWord
    | some c => d.setRing n { d.ring n with consumed := c }
  else d

/-- A pass-through ring while it runs. -/
def Dev.pass (d : Dev) (ch : Nat) : RingRt := kvGet RingRt.init d.host.pass ch

def Dev.setPass (d : Dev) (ch : Nat) (x : RingRt) : Dev :=
  { d with host := { d.host with pass := kvPut RingRt.init d.host.pass ch x } }

def passIx (ch : Nat) : Nat := 0x4050 + ch

def Dev.passSize (d : Dev) (ch : Nat) : Nat := d.rdp (dkey (passIx ch) 1)

def Dev.pollPass (d : Dev) (e : Fin 4 × Nat) : Dev :=
  let n := e.1.val
  if d.on? (dkey (passIx n) 11) then
    match consumedOk e.2 (d.pass n).produced (d.passSize n) with
    | none => d.badWord
    | some c => d.setPass n { d.pass n with consumed := c }
  else d

/-- The words that a poll read, in ascending number; of two for one number the first counts. -/
def inOrder {n : Nat} (ws : List (Fin n × Nat)) : List (Fin n × Nat) :=
  (List.range n).filterMap (fun k => ws.find? (fun e => e.1.val = k))

/-- HOST_POLL: lists, then result rings, then pass-through rings, each in ascending number (R344). One that is enabled and that
the command leaves out holds the word it held before. -/
def hostPoll (p : PollIn) (d : Dev) : Dev :=
  if d.busOn then
    let d := d.each (inOrder p.listWords) (Dev.pollList p.descs)
    (d.each (inOrder p.ringWords) Dev.pollRing).each (inOrder p.passWords) Dev.pollPass
  else d

/-! ## Serving an entry -/

/-- No read of an entry's buffers is in retries. -/
def Dev.readsIn (d : Dev) (n : Fin 16) (e : JobEntry) : Bool :=
  d.host.reads.all (fun r => match r.what with | .buffer m k _ => !(m = n && k = e.k) | _ => true)

/-- Image items are taken in the order of their fetch, over all lists (R348, R440): is it this one's turn? -/
def Dev.imageTurn (d : Dev) (e : JobEntry) : Bool :=
  (List.range 16).all (fun m => (d.list m).entries.all (fun x => x.st ≠ .fetched || jobKind x.desc ≠ 1 || e.order ≤ x.order))

/-- The oldest fetched entry of a list that a command's kind fits and whose reads are not in retries; an image entry whose
reads are holds back those behind it. -/
def Dev.nextEntry (d : Dev) (n : Fin 16) (want : Nat → Bool) : Option JobEntry :=
  ((d.list n).entries.find? (fun e => e.st = .fetched && want e.desc && (jobKind e.desc = 1 || d.readsIn n e))).filter
    (fun e => jobKind e.desc ≠ 1 || (d.readsIn n e && d.imageTurn e))

/-- Does an entry name a host range? -/
def namesHost (desc : Nat) : Bool := bits desc 415 384 ≠ 0 || bits desc 223 192 ≠ 0

/-- Serve it by f; without one nothing happens. While bus mastering is off an entry that names a host range is refused with
04E0h (R45). -/
def Dev.serve (d : Dev) (n : Fin 16) (want : Nat → Bool) (f : Dev → JobEntry → Dev) : Dev :=
  if d.run = .on ∧ d.stage ≤ 3 then
    match d.nextEntry n want with
    | some e => if d.on? 0x4000_04 || !namesHost e.desc then f d e else d.refuseEntry n e.k 0x04E0
    | none => d
  else d

/-- An entry's work goes on beyond the command. -/
def Dev.working (d : Dev) (n k : Nat) : Dev := d.updEntry n k (fun e => { e with st := .working })

/-- Refuse with the first status that is not 0, else go on. -/
def Dev.orRefuse (d : Dev) (n : Nat) (e : JobEntry) (sts : List Nat) (f : Dev → Dev) : Dev :=
  match sts.find? (fun s => s ≠ 0) with
  | some s => d.refuseEntry n e.k s
  | none => f d

/-- 0103h need a condition holds (R5, R309). -/
def need (st : Nat) (c : Bool) : Nat := if c then 0 else st

/-! ## Images (R348) -/

/-- RING of a list. -/
def Dev.listRing (d : Dev) (n : Nat) : Nat := d.rd (dkey (listIx n) 8)

/-- Request slot of an image entry: its own, or the ring's for FFh. -/
def Dev.imageSlot (d : Dev) (n desc : Nat) : Nat :=
  if bits desc 805 798 = 255 then d.rd (dkey (0x4030 + d.listRing n) 8) else bits desc 805 798

/-- The page side of an image entry is numbered, bound, and waits for a decoder. -/
def Dev.numberImage (d : Dev) (n : Nat) (e : JobEntry) (mesh : List Byte) : Dev :=
  let r := d.listRing n
  let slot := d.imageSlot n e.desc
  let seq := (d.ring r).counter
  let d := d.newPage r (fun p =>
    { p with image := true, jobTag := bits e.desc 63 32, reqSlot := slot, entryTime := d.now, job := some (n, e.k),
             skew := signed 16 (bits e.desc 831 816), lens := bits e.desc 809 806,
             mesh := if bits e.desc 223 192 = 0 then [] else mesh })
  ({ d with batch := { d.batch with images := d.batch.images ++ [(r, seq)] } } : Dev).working n e.k

/-- AUX_LEN of a descriptor. -/
def auxLen (desc : Nat) : Nat := bits desc 223 192

/-- JOB_IMAGE, with the mesh that its second buffer holds, AUX_LEN bytes long. -/
def jobImage (n : Fin 16) (mesh : List Byte) (d : Dev) : Dev :=
  d.serve n (fun w => jobKind w = 1) (fun d e =>
    let k := bits e.desc 809 806
    let mesh := mesh.take (auxLen e.desc)
    d.orRefuse n e
      [need 0x0806 (bits e.desc 223 192 = 0 || meshOk mesh),
       need 0x0807 (k = 0 || d.on? (dkey (0x381F + k) 10)),
       need 0x0103 (d.ready 3 && !d.leavePending)]
      (fun d => d.numberImage n e mesh))

/-! ## Tokenise (R349, R241, R242) -/

/-- The fount of a slot, and 0503h without one. -/
def Dev.fountStatus (d : Dev) (k : Nat) : Nat := need 0x0503 (d.rd (fountKey k 1) = 2 && (d.fount? k).isSome)

/-- Tokens of a text by a fount, and the U+FFFD that stand for ill-formed input. -/
def Dev.tokensOf (d : Dev) (k : Nat) (text : List Byte) : List Nat × Nat :=
  match d.fount? k with
  | some f => tokenise f text
  | none => ([], 0)

/-- Counters of the Text Unit's tokeniser (R260). -/
def Dev.countTokens (d : Dev) (t : List Nat × Nat) : Dev := (d.bumpBy 0x3A00_0B t.1.length).bumpBy 0x3A00_07 t.2

def tokenBytes (ts : List Nat) : List Byte := (ts.map (leBytes 4)).flatten

/-- STATUS of a text that was tokenised. -/
def textStatus (t : List Nat × Nat) : Nat := if t.2 = 0 then 0 else 0x0506

def jobTokenise (n : Fin 16) (text : List Byte) (d : Dev) : Dev :=
  d.serve n (fun w => jobKind w = 2) (fun d e =>
    let k := bits e.desc 895 893
    d.orRefuse n e
      [d.fountStatus k, need 0x0507 (auxLen e.desc ≥ 48 * descLen e.desc), need 0x0103 (d.ready 34)]
      (fun d =>
        let t := d.tokensOf k (text.take (descLen e.desc))
        let d := d.countTokens t
        let d := if t.1.isEmpty then d else d.hostWrite (bits e.desc 159 128 + 2 ^ 32 * bits e.desc 95 64) (tokenBytes t.1)
        d.completeEntry n e.k (textStatus t) t.1.length))

/-! ## Samples (R350) -/

/-- A sample's file as its entry bounds it: raw 8-bit grey that ends at LEN, or PNG 8-bit grey; everything else is corrupt
(Table 17-3, R268). -/
def boundSample (desc : Nat) (img : SampleIn) : ImageIn :=
  match bits desc 815 813, img.picture with
  | 0, _ => .raw (img.file.take (descLen desc))
  | 1, .samples w h 1 false px => .samples w h 1 false px
  | _, _ => .corrupt

/-- Store a sample at its index: its file as the host has it (Table 13-2), and its target ids. -/
def Dev.storeSample (d : Dev) (e : JobEntry) (img : SampleIn) (ts : List Nat) (place : Nat) : Dev :=
  let n := descLen e.desc
  let s : Sample := ⟨boundSample e.desc img, bits e.desc 847 832, bits e.desc 863 848, ts, place, n, place + roundUp64 n,
                     bits e.desc 809 802, 1⟩
  let d := d.poke (d.adaptArea + place) (fixBytes n img.file)
  (d.poke (d.adaptArea + s.tgtOff) (tokenBytes ts)).putSample (bits e.desc 831 816) s

def jobSample (n : Fin 16) (img : SampleIn) (text : List Byte) (d : Dev) : Dev :=
  d.serve n (fun w => jobKind w = 3) (fun d e =>
    let i := bits e.desc 831 816
    let t := d.tokensOf (bits e.desc 812 810) (text.take (auxLen e.desc))
    let tm := bits e.desc 809 802
    let place := d.samplePlace i (roundUp64 (descLen e.desc) + 4 * t.1.length)
    d.orRefuse n e
      [d.fountStatus (bits e.desc 812 810), need 0x0903 (tm = 255 || (d.template tm).state ≠ 0),
       need 0x0103 (d.rd 0x3E12_02 ≠ 1 && d.rd 0x3E12_02 ≠ 2), need 0x0106 (t.1.length < 65536),
       need 0x010A place.isSome, need 0x0103 (d.ready 34 && d.ready 38 && d.ddrReady)]
      (fun d => ((d.storeSample e img t.1 (place.getD 0)).countTokens t).completeEntry n e.k (textStatus t) t.1.length))

/-! ## Templates (R351) -/

/-- Checks of a template entry with CLEAR 0, once its prompt is tokenised. -/
def Dev.templateStatus (d : Dev) (desc tokens : Nat) : List Nat :=
  let t := bits desc 895 888
  let c := d.slugClass (bits desc 887 885)
  [need 0x0103 ((d.template t).state = 0 && (d.importOf t).isNone), need 0x0902 c.valid,
   d.fountStatus (bits desc 884 882), need 0x0901 (tokens ≤ 65536), need 0x090A (64 * c.listWords tokens ≤ 0x80_0000),
   need 0x0103 (d.ready 33 && d.ready 34 && d.ready 37)]

/-- The entry waits for its template's STATE 2. -/
def Dev.awaitTemplate (d : Dev) (n : Nat) (e : JobEntry) (status : Nat) : Dev :=
  ({ d with host := { d.host with templateJobs := d.host.templateJobs ++ [(bits e.desc 895 888, n, e.k, status)] } } : Dev).working
    n e.k

/-- The template takes its class and prefix from the entry. -/
def Dev.shapeTemplate (d : Dev) (desc tokens : Nat) : Dev :=
  d.putTemplate (bits desc 895 888)
    { Template.empty with prefixLen := tokens, cls := bits desc 887 885, setId := d.activeSetId, version := d.rd 0x3E12_05 }

def isTemplate (clear : Bool) (imp : Bool) (desc : Nat) : Bool := jobKind desc = 4 && bit desc 880 = clear && (clear || bit desc 881 = imp)

def jobTemplateBuild (n : Fin 16) (text : List Byte) (d : Dev) : Dev :=
  d.serve n (isTemplate false false) (fun d e =>
    let t := d.tokensOf (bits e.desc 884 882) (text.take (descLen e.desc))
    d.orRefuse n e (d.templateStatus e.desc t.1.length) (fun d =>
      (((d.countTokens t).shapeTemplate e.desc t.1.length).buildTemplate (bits e.desc 895 888)).awaitTemplate n e
        (textStatus t)))

def jobTemplateImport (n : Fin 16) (text : List Byte) (d : Dev) : Dev :=
  d.serve n (isTemplate false true) (fun d e =>
    let t := d.tokensOf (bits e.desc 884 882) (text.take (descLen e.desc))
    d.orRefuse n e (d.templateStatus e.desc t.1.length) (fun d =>
      ((d.countTokens t).awaitTemplate n e (textStatus t)).startImport (bits e.desc 895 888) (bits e.desc 879 872)
        t.1.length (bits e.desc 887 885)))

/-- A live sequence or a stored request table entry names the template (R351). -/
def Dev.templateNamed (d : Dev) (t : Nat) : Bool := d.requestsHeld.any (fun r => r.template = t)

/-- An import under way ends without a template: its windows are closed. -/
def Dev.cancelImport (d : Dev) (t : Nat) : Dev :=
  if (d.importOf t).isNone then d
  else
    let d := d.each (d.windowsOf t) (fun d e =>
      let wasOpen := (d.window e.1).isOpen
      let d := d.closeWindow e.1
      let d := if wasOpen then d.sendClose e.1 2 else d
      d.setWindow e.1 { d.window e.1 with locs := [], template := 255, grants := 0 })
    { d with fabric := { d.fabric with imports := d.fabric.imports.filter (fun i => i.template ≠ t) } }

/-- Empty a template: what builds it stops, its slugs are released at the next lead-in. -/
def Dev.emptyTemplate (d : Dev) (t : Nat) : Dev :=
  let d := d.cancelImport t
  let d := { d with formes := d.formes.filter (fun f => !(f.kind = 4 && f.ref = t)) }
  let d := d.endTemplateJobs t 0x0103
  let d := if (d.template t).list = 0 then d else d.evictTemplate t
  d.putTemplate t Template.empty

def jobTemplateClear (n : Fin 16) (d : Dev) : Dev :=
  d.serve n (isTemplate true false) (fun d e =>
    let t := bits e.desc 895 888
    d.orRefuse n e [need 0x0103 (!d.templateNamed t), need 0x0103 (d.ready 33 && d.ready 34 && d.ready 37)]
      (fun d => (d.emptyTemplate t).completeEntry n e.k 0 0))

/-! ## Request tables (R352) -/

/-- First failing check of a table entry, 0 for none. -/
def Dev.tableEntryStatus (d : Dev) (e : List Byte) : Nat :=
  let w := ofLe (e.take 64)
  let r := textReqOf e
  let c := d.slugClass r.slugClass
  if !(pairedAt w 448).2 ∨ bits w 436 0 ≠ 0 then 0x0505
  else if r.limit > 65536 then 0x0901
  else if !c.valid then 0x0902
  else if r.template < 255 ∧ (d.template r.template).state = 0 then 0x0903
  else if d.requestStatus e ≠ 0 then d.requestStatus e
  else if 64 * c.listWords r.limit > 0x80_0000 then 0x090A
  else if textArea (((d.fount? r.fount).map (·.maxTokenBytes)).getD 0) r.limit > d.textPool then 0x050A
  else 0

/-- Entries of a table image. -/
def tableEntries (table : List Byte) : List (List Byte) :=
  (List.range (table.length / 1152)).map (fun c => (table.drop (1152 * c)).take 1152)

/-- An enabled ring's REQ_SLOT, or a page side without committed records, names the slot. -/
def Dev.slotInUse (d : Dev) (s : Nat) : Bool :=
  (List.range 16).any (fun r => d.on? (dkey (0x4030 + r) 11) && d.rd (dkey (0x4030 + r) 8) = s) ||
  d.pages.any (fun p => p.reqSlot = s && p.group.isNone && !p.released)

/-- The table takes its slot. -/
def Dev.storeTable (d : Dev) (s : Nat) (table : List Byte) : Dev :=
  let d := { d with host := { d.host with requests := kvInsert d.host.requests s table } }
  (d.wr (dkey 0x4070 (s + 1)) (table.length / 1152)).wr (dkey 0x4071 (s + 1)) 1

def jobRequests (n : Fin 16) (table : List Byte) (d : Dev) : Dev :=
  d.serve n (fun w => jobKind w = 5) (fun d e =>
    let s := bits e.desc 895 892
    let table := table.take (descLen e.desc)
    d.orRefuse n e
      (need 0x0103 (!d.slotInUse s) :: (tableEntries table).map d.tableEntryStatus ++ [need 0x0103 (d.ready 34)])
      (fun d => (d.storeTable s table).completeEntry n e.k 0 (table.length / 1152)))

/-! ## Loads (R354, R400) -/

def jobLoad (n : Fin 16) (d : Dev) : Dev :=
  d.serve n (fun w => jobKind w = 6) (fun d e =>
    let t := bits e.desc 895 888
    (d.noteRefusal t (d.loadCheck t)).orRefuse n e [d.loadCheck t] (fun d => (d.startLoad t none false (some (n, e.k))).working n e.k))

/-! ## Enables (R11, R345, R355) -/

/-- A ring's ENABLE becomes 1: PRODUCED 0, and the page counter 0 where no page side waits; its vector follows its host word
(R359). -/
def ringEnableDo (r : Nat) (d : Dev) : Dev :=
  let waits := !(d.unreleased r).isEmpty
  let x := d.ring r
  let d := d.setRing r { RingRt.init with counter := if waits then x.counter else 0, start := if waits then x.start else 0 }
  let d := d.hostWrite (d.addrPair (0x4030 + r) 4) (leBytes 8 (pairOf 0))
  if h : r < 16 then d.notify (.ring ⟨r, h⟩) else d

/-- A pass-through ring's ENABLE becomes 1; its vector follows its host word (R359). -/
def passEnableDo (ch : Nat) (d : Dev) : Dev :=
  let d := (d.setPass ch .init).hostWrite (d.addrPair (passIx ch) 4) (leBytes 8 (pairOf 0))
  if h : ch < 4 then d.notify (.pass ⟨ch, h⟩) else d

/-- A list's ENABLE becomes 1: fetch count and CONS 0. -/
def jobListEnableDo (n : Nat) (d : Dev) : Dev :=
  ((d.setList n ListRt.init).wr (dkey (listIx n) 12) 0).hostWrite (d.addrPair (listIx n) 6) (leBytes 8 (pairOf 0))

/-! ## Pass-through (R358) -/

/-- Free bytes of a pass-through ring. -/
def Dev.passFree (d : Dev) (ch : Nat) : Nat :=
  if d.on? (dkey (passIx ch) 11) then d.passSize ch - ((d.pass ch).produced + 2 ^ 32 - (d.pass ch).consumed) % 2 ^ 32 else 0

/-- PASSTHROUGH_DRAIN: the oldest record leaves the FIFO whole. -/
def passthroughDrain (ch : Fin 4) (d : Dev) : Dev :=
  match (d.chan ch).fifo with
  | [] => d
  | bs :: r =>
    if d.busOn ∧ bs.length ≤ d.passFree ch then
      let x := d.pass ch
      let prod := (x.produced + bs.length) % 2 ^ 32
      let ws := ringWrites (d.addrPair (passIx ch) 2) (d.passSize ch) x.produced bs ++
        [Out.hostWrite (d.addrPair (passIx ch) 4) (leBytes 8 (pairOf prod))]
      let d := ({ d with out := d.out ++ ws } : Dev).updChan ch (fun c => { c with fifo := r })
      (((d.setPass ch { x with produced := prod }).bump (dkey (passIx ch) 13)).notify (.pass ch)).fiAll
    else d

/-! ## BAR2 (R342) -/

/-- BAR2_READ: DDR5 words as they stand, or Unsupported Request beyond the installed capacity. -/
def bar2Read (offset : Nat) (r : BarRead) (d : Dev) : Dev :=
  if d.run = .held then d
  else if offset + r.length ≤ d.ddrBytes then (d.ddrMet r.ddr).emit (.bar2Data (memBytes d.mem (ddrBase + offset) r.length))
  else d.emit .unsupportedRequest

/-- BAR2_WRITE: discarded and counted. -/
def bar2Write (d : Dev) : Dev := if d.run = .held then d else d.bump 0x4000_0B

end Sys2Proof.Machine
end

