-- ==== Sys2Proof/Machine/Dict.lean ====
section
/-! DEFINITION. The object dictionary as its server sees it (R321 to R326, R309, R336): attributes of entries, what reads
return, and the ordered checks of a write (Table 16-4). -/

namespace Sys2Proof.Machine

/-! ## Attributes (Table 16-3) -/

def keyIx (key : Nat) : Nat := key / 256
def keySub (key : Nat) : Nat := key % 256

def rowOf (key : Nat) : Option EntryRow := findEntry (keyIx key) (keySub key)

/-- Bit of 2001h:01 whose function owns an entry; 255 none. -/
def fnOf (key : Nat) : Nat :=
  let ix := keyIx key
  if 0x2100 ≤ ix ∧ ix < 0x2200 then 33
  else if 0x3000 ≤ ix ∧ ix < 0x3400 then 4 + (ix - 0x3000) / 0x100
  else if 0x3400 ≤ ix ∧ ix < 0x3800 then 8 + (ix - 0x3400) / 0x100
  else if 0x3A00 ≤ ix ∧ ix < 0x3B00 then 34
  else if 0x3C00 ≤ ix ∧ ix < 0x3D00 then 37
  else if 0x3E00 ≤ ix ∧ ix < 0x3F00 then 38
  else 255

/-- An offset of a channel's or axis's entries: 3000h + n · 100h + off, sub. -/
def chanEntry (key off sub : Nat) : Bool :=
  0x3000 ≤ keyIx key && keyIx key < 0x3400 && keyIx key % 0x100 = off && keySub key = sub

def axisEntry (key off sub : Nat) : Bool :=
  0x3400 ≤ keyIx key && keyIx key < 0x3800 && keyIx key % 0x100 = off && keySub key = sub

/-- Channel of an entry, and axis of one. -/
def chanNo (key : Nat) : Nat := (keyIx key - 0x3000) / 0x100
def axisNo (key : Nat) : Nat := (keyIx key - 0x3400) / 0x100

/-- An entry named ENABLE of a function (R309). -/
def isEnable (key : Nat) : Bool := chanEntry key 0 9 || axisEntry key 0 15

/-- RxPDO-mappable entries (Table 16-7). -/
def rxMap (key : Nat) : Bool :=
  key = 0x2201_01 || key = 0x2204_01 || chanEntry key 1 12 || axisEntry key 4 1 || key = 0x4801_08

/-- A command entry is never mapped (R326). -/
def EntryRow.txMap (r : EntryRow) : Bool := r.ty ≠ 9 && r.ty ≠ 15 && r.size ≤ 8 && !r.command

def EntryRow.storable (r : EntryRow) : Bool := r.rw && !r.command && !r.perPath && !(r.ty = 15 && r.size > 65540)

/-- The default of an entry as its description shows it: that of its table, which for some follows the node-ID in effect or
the fuses (Table 16-9). -/
def Dev.defaultOf (d : Dev) (key : Nat) : Nat :=
  match key with
  | 0x1014_00 => 0x80 + d.net.node
  | 0x1400_01 => 0x200 + d.net.node
  | 0x1800_01 => 0x180 + d.net.node
  | 0x1018_04 => Config.serial.toNat % 2 ^ 32
  | 0x4404_01 => Config.serial.toNat
  | _ => entryDefault key

/-- The description record of an entry (Table 16-3). -/
def Dev.describe (d : Dev) (key : Nat) (r : EntryRow) : Nat :=
  packFields
    [(0, 112), (fnOf key, 8), (flag r.rw, 8), (flag r.paired, 1), (flag r.storable, 1), (flag r.txMap, 1), (flag (rxMap key), 1),
     (flag r.command, 1), (flag r.perPath, 1), (0, 2), (r.stages, 4), (0, 4), (r.ty, 16), (r.size, 32),
     (if r.ty = 9 ∨ r.ty = 15 then 0 else d.defaultOf key, 64)]

/-! ## Reads -/

/-- Cores of the imposition in force (2400h). While no imposition has been entered the manual gives no value: the model shows
every core but those of a left-out die (DESIGN CHOICE, log entry 140). -/
def Dev.corePresent (d : Dev) : Nat :=
  (List.range 96).foldl (fun m c => if d.rd 0x2504_02 = c / 16 + 1 then m else m + 2 ^ c) 0

/-- Formes in a queue, admitted or waiting. -/
def Dev.queueDepth (d : Dev) (kind : Nat) : Nat := (d.formes.filter (fun f => f.kind = kind)).length

/-- Counts of the slug manager (3C00h, 3C01h). -/
def Dev.slugValue (d : Dev) (key : Nat) : Option Nat :=
  match key with
  | 0x3C00_01 => some (d.slugsIn 1).length
  | 0x3C00_02 => some (d.slugsIn 2).length
  | 0x3C00_03 => some (d.freeLocs 0)
  | 0x3C00_04 => some (d.freeLocs 1)
  | 0x3C00_05 => some (d.freeLocs 2)
  | 0x3C00_06 => some d.liveSeqs.length
  | 0x3C00_07 => some d.validRows.length
  | 0x3C01_07 => some d.openSlot
  | 0x3C01_08 => some d.sealedSlot
  | 0x3C01_09 => some d.ddrSlots
  | _ => none

/-- Entries that follow the state of other units. -/
def Dev.shown (d : Dev) (key : Nat) : Option Nat :=
  match key with
  | 0x1001_00 => some d.errorRegister
  | 0x2000_03 => some d.startStatus
  | 0x2300_01 => some d.viewNow
  | 0x2400_01 => some (d.corePresent % 2 ^ 64)
  | 0x2400_02 => some (d.corePresent / 2 ^ 64)
  | 0x3E00_01 => some d.batch.queue.length
  | 0x4800_02 => some (d.rd 0x2204_02)
  | 0x4800_03 => some (d.rd 0x2202_03)
  | _ =>
    if keyIx key = 0x2101 ∧ 1 ≤ keySub key ∧ keySub key ≤ 12 then some (d.queueDepth (keySub key - 1))
    else if 0x4030 ≤ keyIx key ∧ keyIx key < 0x4040 ∧ keySub key = 12 then some (d.ringFree (keyIx key - 0x4030))
    else if (keyIx key = 0x1010 ∨ keyIx key = 0x1011) ∧ 1 ≤ keySub key ∧ keySub key ≤ 4 then some 1
    else match d.fwValue key with
      | some v => some v
      | none => d.slugValue key

/-- The entries that `shown` answers and that may be mapped. -/
def shownKeys : List Nat :=
  [0x1001_00, 0x2000_03, 0x2300_01, 0x2400_01, 0x2400_02, 0x3E00_01, 0x4800_02, 0x4800_03, 0x4400_01, 0x4400_02, 0x4400_04,
   0x4400_05, 0x4401_01, 0x4401_02, 0x4401_03, 0x4401_04, 0x4402_04, 0x4402_05, 0x4404_01, 0x4406_03, 0x4406_04, 0x4407_0B,
   0x4408_01, 0x1018_04, 0x3C00_01, 0x3C00_02, 0x3C00_03, 0x3C00_04, 0x3C00_05, 0x3C00_06, 0x3C00_07, 0x3C01_07, 0x3C01_08,
   0x3C01_09] ++
  (List.range 12).map (fun i => dkey 0x2101 (i + 1)) ++ (List.range 16).map (fun r => dkey (0x4030 + r) 12)

/-- Does each path see a value of its own of the entry? -/
def ownPerPath (key : Nat) (r : EntryRow) : Bool := r.perPath || key = 0x4403_03 || key = 0x4403_04

/-- Value of an entry of a fixed size, as a path reads it; a paired one that is not well formed reads as its default (R4,
R290). -/
def Dev.value (d : Dev) (p : Path) (key : Nat) : Nat :=
  match d.shown key with
  | some v => v
  | none =>
    match rowOf key with
    | some r =>
      if ownPerPath key r then d.rdPath p key
      else if r.paired && !pairOk (d.rd key) then entryDefault key
      else d.rd key
    | none => 0

/-- Text of the device's names (Table 16-9). -/
def nameBytes (key : Nat) : Option (List Byte) :=
  match key with
  | 0x1008_00 => some [0x4F#8, 0x52#8, 0x2D#8, 0x38#8]
  | 0x1009_00 => some [0x42#8, 0x30#8]
  | _ => none

/-- A string or domain, as a path reads it. -/
def Dev.domain (d : Dev) (p : Path) (key : Nat) : List Byte :=
  if key = 0x4812_02 then
    match rowOf (d.rdPath p 0x4812_01) with
    | some r => leBytes 32 (d.describe (d.rdPath p 0x4812_01) r)
    | none => []
  else
    match nameBytes key, d.fwDom key with
    | some b, _ => b
    | none, some b => b
    | none, none =>
      match rowOf key with
      | some r =>
        if key = 0x4405_01 then fixBytes 32 (d.rdPathDom p key)
        else if r.perPath || key = 0x4405_03 then d.rdPathDom p key else d.rdDom key
      | none => []

/-- What a read returns; none: the entry does not exist. -/
def Dev.readBytes (d : Dev) (p : Path) (key : Nat) : Option (List Byte) :=
  (rowOf key).map (fun r => if r.ty = 9 ∨ r.ty = 15 then d.domain p key else leBytes r.size (d.value p key))

/-- Abort code of an index or sub-index that does not exist (check 1). -/
def missing (key : Nat) : Nat :=
  match rowOf key with
  | some _ => 0
  | none => if indexExists (keyIx key) then 0x0609_0011 else 0x0602_0000

/-! ## Check 3: length -/

/-- Shortest length that a domain's own rule allows, and the number its length is a multiple of. -/
def domainRule (key len : Nat) : Nat :=
  if 0x3810 ≤ keyIx key ∧ keyIx key ≤ 0x3813 then (if len < 4 then 0x0607_0013 else if len % 4 ≠ 0 then 0x0607_0010 else 0)
  else if key = 0x4102_01 then (if len = 0 ∨ len = 1024 then 0 else 0x0607_0013)
  else if key = 0x4405_01 then (if len < 32 then 0x0607_0013 else 0)
  else if key = 0x4406_02 then (if len < 128 then 0x0607_0013 else 0)
  else if key = 0x4407_09 then (if len < 33 then 0x0607_0013 else 0)
  else 0

def lengthCode (key : Nat) (r : EntryRow) (len : Nat) : Nat :=
  if r.ty = 9 ∨ r.ty = 15 then (if len > r.size then 0x0607_0012 else domainRule key len)
  else if len = r.size then 0 else 0x0607_0010

/-! ## Check 5: stage, function, locks -/

/-- PDO communication, mapping and assignment objects (R336). -/
def pdoObject (ix : Nat) : Bool :=
  ix = 0x1400 || ix = 0x1600 || (0x1800 ≤ ix && ix ≤ 0x1807) || (0x1A00 ≤ ix && ix ≤ 0x1A07) || ix = 0x1C12 || ix = 0x1C13

/-- Objects written as a list: count 0 first, then the entries, then the count. -/
def listObject (ix : Nat) : Bool := ix = 0x1600 || (0x1A00 ≤ ix && ix ≤ 0x1A07) || ix = 0x1C12 || ix = 0x1C13

/-- May a path change PDO objects: EtherCAT in PREOP, CANopen pre-operational, the mailbox while neither bus carries
process data (R336). -/
def Dev.pdoOpen (d : Dev) : Path → Bool
  | .ecat => d.net.al = .preop
  | .can => d.net.nmt = 127
  | .mailbox => d.net.nmt = 127 && (d.net.al = .init || d.net.al = .preop)

/-- Locks of the communication objects. -/
def Dev.lockNet (d : Dev) (p : Path) (key : Nat) : Bool :=
  let ix := keyIx key
  ((ix = 0x1010 || ix = 0x1011 || key = 0x4811_05) && d.fw.saving.isSome) ||
  (pdoObject ix && !d.pdoOpen p) ||
  (listObject ix && keySub key ≠ 0 && d.rd (dkey ix 0) ≠ 0)

/-- Locks of plates, channels and axes. -/
def Dev.lockUnits (d : Dev) (key v : Nat) : Bool :=
  let ix := keyIx key
  let off := ix % 0x100
  if key = 0x2503_01 then d.on? 0x2503_02 || (v ≤ 1 && d.areaState v ≠ 2)
  else if 0x3000 ≤ ix ∧ ix < 0x3400 then
    (d.chanOn (chanNo key) && ((off = 0 && keySub key ≠ 9) || off = 2 || off = 3 || off = 5)) ||
    (off = 7 && keySub key = 2 && d.fw.saving.isSome)
  else if 0x3400 ≤ ix ∧ ix < 0x3800 then
    let ax := axisNo key
    (d.on? (akey ax 0 15) && ((off = 0 && keySub key ≠ 15) || off = 1 || off = 0x10)) ||
    (off = 3 && keySub key = 2 && (d.aget ax 0 1 ≠ 2 || d.axState ax ≠ 0)) ||
    (off = 4 && keySub key = 2 && d.standingCause ax)
  else if 0x3810 ≤ ix ∧ ix < 0x3814 then keySub key = 1 && d.chanOn (ix - 0x3810)
  else false

/-- An admitted job, or a page side still to be read, names a lens set (R196). -/
def Dev.lensNamed (d : Dev) (k : Nat) : Bool :=
  d.jobsHeld.any (fun j => jobKind j = 1 && bits j 809 806 = k) || d.pages.any (fun p => p.lens = k && p.group.isNone && !p.released)

/-- Locks of lens sets, slugs, texts and adaptation. -/
def Dev.lockWork (d : Dev) (key v : Nat) : Bool :=
  let ix := keyIx key
  if 0x3820 ≤ ix ∧ ix < 0x3828 then
    if keySub key = 10 then v = 0 && d.lensNamed (ix - 0x381F) else d.on? (dkey ix 10)
  else if 0x3A10 ≤ ix ∧ ix < 0x3A18 then v = 1 && d.fountNamed (ix - 0x3A10)
  else if 0x3A20 ≤ ix ∧ ix < 0x3A40 then v = 1 && d.grammarNamed (ix - 0x3A20)
  else if 0x3C10 ≤ ix ∧ ix < 0x3C18 then keySub key ≠ 6 && d.on? (dkey ix 6)
  else if ix = 0x3E10 ∨ ix = 0x3E11 then d.rd 0x3E12_02 = 1 || d.rd 0x3E12_02 = 2
  else false

/-- Locks of the host interface (R361, R355). -/
def Dev.lockHost (d : Dev) (key v : Nat) : Bool :=
  let ix := keyIx key
  let sub := keySub key
  if 0x4010 ≤ ix ∧ ix < 0x4020 then
    if sub = 11 then v = 0 && d.entriesHeld (ix - 0x4010) ≠ 0 else d.on? (dkey ix 11)
  else if 0x4030 ≤ ix ∧ ix < 0x4040 then
    if sub = 11 then v = 0 && !(d.unreleased (ix - 0x4030)).isEmpty else sub ≠ 8 && d.on? (dkey ix 11)
  else if 0x4050 ≤ ix ∧ ix < 0x4054 then sub ≠ 11 && d.on? (dkey ix 11)
  else false

/-- Locks of DDR5, the fabric, firmware and tests. -/
def Dev.lockSystem (d : Dev) (p : Path) (key v : Nat) (bs : List Byte) : Bool :=
  let ix := keyIx key
  if ix = 0x4101 then d.ddrReady
  else if (ix = 0x4200 ∧ keySub key ≤ 3) ∨ ix = 0x4201 then d.on? 0x4200_04
  else match key with
  | 0x4211_01 => d.adapterImportCheck ≠ 0
  | 0x4402_01 => v ≤ 1 && d.fwActivateCheck v ≠ 0
  | 0x4402_02 => v = 1 && d.confirmCheck ≠ 0
  | 0x4403_02 => d.loadCheck (d.rdPath p 0x4403_01) ≠ 0
  | 0x4407_09 => d.ownerProgramCheck bs = 0x0800_0022
  | 0x4407_0A => v ≤ 7 && d.ownerRevokeCheck v ≠ 0
  | 0x4600_01 => v < 64 && d.galleyTestCheck v ≠ 0
  | _ =>
    0x4610 ≤ ix && ix < 0x4614 && keySub key = 6 && v = 1 && d.loopbackCheck p (ix - 0x4610) = 0x0800_0022

/-- An entry is locked by its owning chapter's state rule. -/
def Dev.locked (d : Dev) (p : Path) (key v : Nat) (bs : List Byte) : Bool :=
  d.loopLocks key || d.lockNet p key || d.lockUnits key v || d.lockWork key v || d.lockHost key v || d.lockSystem p key v bs

/-- The owning function is ready for a write that starts or uses it (R309). -/
def Dev.functionOk (d : Dev) (key : Nat) (r : EntryRow) (v : Nat) : Bool :=
  fnOf key = 255 || d.ready (fnOf key) || !((r.command && v ≠ 0) || (isEnable key && v = 1))

/-- The stage allows the write. -/
def Dev.stageOk (d : Dev) (r : EntryRow) : Bool := bit r.stages (d.stage - 1)

/-! ## Check 6: range -/

/-- Values that a command entry accepts. -/
def onlyOf (key : Nat) : Option (List Nat) :=
  let ix := keyIx key
  if key = 0x1003_00 ∨ key = 0x2403_01 ∨ key = 0x2403_02 then some [0]
  else if key = 0x2000_08 ∨ key = 0x2505_04 ∨ key = 0x3A01_01 ∨ key = 0x3E12_04 ∨ key = 0x4811_05 then some [1]
  else if key = 0x2503_01 then some [0, 1]
  else if (0x2441 ≤ ix ∧ ix ≤ 0x247F) ∨ (0x3A10 ≤ ix ∧ ix < 0x3A40) then some [1]
  else if chanEntry key 7 2 ∨ axisEntry key 3 2 ∨ axisEntry key 4 2 then some [1]
  else none

/-- A power of two. -/
def isPow2 (v : Nat) : Bool := (List.range 64).any (fun i => v = 2 ^ i)

/-- Ranges of rings and lists beside those of their table (R361). -/
def hostRange (ix sub v : Nat) : Bool :=
  if 0x4010 ≤ ix ∧ ix < 0x4020 then
    if sub = 1 then isPow2 v else if sub = 2 then v % 128 = 0 else if sub = 4 ∨ sub = 6 then v % 8 = 0 else true
  else if (0x4030 ≤ ix ∧ ix < 0x4040) ∨ (0x4050 ≤ ix ∧ ix < 0x4054) then
    if sub = 1 then isPow2 v else if sub = 2 then v % 4096 = 0 else if sub = 4 ∨ sub = 6 then v % 8 = 0 else true
  else true

/-- Ranges that depend on more than the table's row. -/
def Dev.rangeMore (d : Dev) (key v : Nat) (bs : List Byte) : Bool :=
  let ix := keyIx key
  if axisEntry key 3 1 then d.targetOk (axisNo key) v
  else if axisEntry key 3 2 then d.targetOk (axisNo key) (d.rdp (akey (axisNo key) 3 1))
  else if ix = 0x3C01 then slugRegionOk v
  else if 0x4610 ≤ ix ∧ ix < 0x4614 ∧ keySub key = 1 then lbTargetOk v
  else if key = 0x4403_01 then isTarget v
  else if key = 0x4407_09 then ownerSlot bs ≤ 7
  else if ix = 0x1C12 ∧ keySub key ≠ 0 then v = 0x1600
  else if ix = 0x1C13 ∧ keySub key ≠ 0 then 0x1A00 ≤ v && v ≤ 0x1A07
  else hostRange ix (keySub key) v

/-- The stated range of an entry; paired entries by their low half (R325). -/
def EntryRow.inRange (r : EntryRow) (v : Nat) : Bool := (r.lo ≤ v && v ≤ r.hi) || r.also.contains v

def Dev.rangeCode (d : Dev) (key : Nat) (r : EntryRow) (v : Nat) (bs : List Byte) : Nat :=
  let x := if r.paired then v % 2 ^ 32 else v
  let ok := match onlyOf key with
    | some l => l.contains v
    | none => r.ty = 9 || r.ty = 15 || r.inRange x
  if ok && d.rangeMore key x bs then 0 else 0x0609_0030

/-! ## Check 7: consistency -/

/-- Bytes that a PDO on CAN may hold, by the mode in effect: classic 8, FD 64. -/
def Dev.canLimit (d : Dev) : Nat := if d.net.canMode = 2 then 64 else 8

/-- Limits of a PDO in bytes, by the path that maps it: classic CAN 8, CAN FD 64, EtherCAT 64 received, 1,024 sent. -/
def Dev.pdoLimit (d : Dev) (p : Path) (rx : Bool) : Nat :=
  if p = .can ∨ (p = .mailbox ∧ d.net.canMode ≠ 0) then d.canLimit
  else if rx then 64 else 1024

/-- Bytes that the first n mapping entries of an object take. -/
def Dev.mappedBytes (d : Dev) (ix n : Nat) : Nat := ((List.range n).map (fun i => d.rd (dkey ix (i + 1)) % 256 / 8)).sum

/-- Bytes of the assigned TxPDOs: the first n assignments, with m entries mapped in object ix. -/
def Dev.assignedBytes (d : Dev) (n ix m : Nat) : Nat :=
  ((List.range n).map (fun i =>
    let o := d.rd (dkey 0x1C13 (i + 1))
    d.mappedBytes o (if o = ix then m else d.rd (dkey o 0)))).sum

/-- A mapping word names an entry that may be mapped so, with its full size (R336). -/
def mappable (rx : Bool) (w : Nat) : Bool :=
  let key := w / 2 ^ 16 * 256 + w / 256 % 256
  match rowOf key with
  | some r => (if rx then rxMap key else r.txMap) && w % 256 = 8 * r.size
  | none => false

/-- Consistency of PDO objects (0604 0041h, 0604 0042h). -/
def Dev.pdoCode (d : Dev) (p : Path) (key v : Nat) : Nat :=
  let ix := keyIx key
  let rx := ix = 0x1600
  if ix = 0x1600 ∨ (0x1A00 ≤ ix ∧ ix ≤ 0x1A07) then
    if keySub key ≠ 0 then (if mappable rx v then 0 else 0x0604_0041)
    else if (List.range v).any (fun i => !mappable rx (d.rd (dkey ix (i + 1)))) then 0x0604_0041
    else if d.mappedBytes ix v > d.pdoLimit p rx ∨ (!rx ∧ d.assignedBytes (d.rd 0x1C13_00) ix v > 1024) then 0x0604_0042
    else 0
  else if ix = 0x1C12 ∨ ix = 0x1C13 then
    if keySub key ≠ 0 then 0
    else if (List.range v).any (fun i => d.rd (dkey ix (i + 1)) = 0) then 0x0604_0041
    else if ix = 0x1C13 ∧ d.assignedBytes v 0 0 > 1024 then 0x0604_0042
    else 0
  else 0

/-- 0 < x < 1 for an FP32 code. -/
def unitOpen (w : Nat) : Bool := positiveFinite (BitVec.ofNat 32 w) && w < 0x3F80_0000

/-- RUN 1 is accepted (R279). -/
def Dev.runOk (d : Dev) : Bool :=
  d.groups.any (fun g => g.kind = 9) && positiveFinite (BitVec.ofNat 32 (d.rd 0x3E10_05)) &&
    positiveFinite (BitVec.ofNat 32 (d.rd 0x3E10_08)) && unitOpen (d.rd 0x3E10_06) && unitOpen (d.rd 0x3E10_07)

/-- A condition that fails with 0604 0043h. -/
def Dev.consistent (d : Dev) (key v : Nat) : Bool :=
  let ix := keyIx key
  if chanEntry key 0 9 then v = 0 || d.channelConsistent (chanNo key)
  else if axisEntry key 0 15 then v = 0 || d.axisConsistent (axisNo key)
  else if 0x3820 ≤ ix ∧ ix < 0x3828 ∧ keySub key = 10 then v = 0 || (d.rd (dkey ix 3) ≠ 0 && d.rd (dkey ix 4) ≠ 0)
  else if 0x3C10 ≤ ix ∧ ix < 0x3C18 ∧ keySub key = 6 then v = 0 || (d.slugClass (ix - 0x3C10)).ok
  else if 0x4030 ≤ ix ∧ ix < 0x4040 ∧ keySub key = 8 then v = 255 || d.host.requests.any (fun e => e.1 = v)
  else if key = 0x4200_04 then v = 0 || d.fabricConsistent
  else if key = 0x3E12_01 then v = 0 || d.runOk
  else true

/-- The save and load signatures (R327, R329). -/
def signatureFor (key : Nat) : Option Nat :=
  if keyIx key = 0x1010 then some 0x6576_6173 else if keyIx key = 0x1011 then some 0x6461_6F6C else none

/-- Check 7. A token's signature has been verified by the sender of the command (log entry 30). -/
def Dev.consistencyCode (d : Dev) (p : Path) (key v : Nat) (bs : List Byte) (sigOk : Bool) : Nat :=
  let ix := keyIx key
  if !d.consistent key v then 0x0604_0043
  else if pdoObject ix then d.pdoCode p key v
  else if (signatureFor key).any (fun s => v ≠ s) then 0x0800_0020
  else if key = 0x4812_01 then missing v
  else if key = 0x4406_02 then (if d.tokenOk bs sigOk then 0 else 0x0604_0043)
  else if 0x4610 ≤ ix ∧ ix < 0x4614 ∧ keySub key = 6 ∧ v = 1 then d.loopbackCheck p (ix - 0x4610)
  else 0

/-! ## The ordered checks -/

/-- Value that written bytes spell; 0 for strings and domains. -/
def writtenValue (r : EntryRow) (bs : List Byte) : Nat := if r.ty = 9 ∨ r.ty = 15 then 0 else ofLe bs

/-- Checks 5 to 7. -/
def Dev.stateCode (d : Dev) (p : Path) (key : Nat) (r : EntryRow) (bs : List Byte) (sigOk : Bool) : Nat :=
  let v := writtenValue r bs
  if !(d.stageOk r && d.functionOk key r v) || d.locked p key v bs then 0x0800_0022
  else if d.rangeCode key r v bs ≠ 0 then d.rangeCode key r v bs
  else d.consistencyCode p key v bs sigOk

/-- Abort code of a write, 0 to take it: the first check of Table 16-4 that fails. -/
def Dev.writeCode (d : Dev) (p : Path) (key : Nat) (bs : List Byte) (sigOk : Bool) : Nat :=
  match rowOf key with
  | none => missing key
  | some r =>
    if !r.rw then 0x0601_0002
    else if lengthCode key r bs.length ≠ 0 then lengthCode key r bs.length
    else if r.paired && !pairOk (ofLe bs) then 0x0800_0020
    else d.stateCode p key r bs sigOk

end Sys2Proof.Machine
end

