-- ==== Sys2Proof/Machine/Server.lean ====
section
/-! DEFINITION. The dictionary server (R323 to R329): the effect of each write, refusals, the parameter store, stored
values applied in their turn, and the BAR0 mailbox (R332, R333). -/

namespace Sys2Proof.Machine

/-! ## The parameter store (R327 to R329, R340) -/

/-- Groups of Table 16-8 that a sub-index of 1010h or 1011h names. -/
def storeGroups1010 (sub : Nat) : List Nat := if sub = 1 then [2, 3, 4] else [sub]

/-- Is a value's entry STORABLE and in one of these groups? -/
def inGroups (gs : List Nat) (key : Nat) : Bool :=
  gs.contains (restoreGroup key) && (match rowOf key with | some r => r.storable | none => false)

/-- Entries whose default follows the node-ID (Table 16-9), with its base. -/
def cobEntries : List (Nat × Nat) := [(0x1014_00, 0x80), (0x1400_01, 0x200), (0x1800_01, 0x180)]

/-- No generation is larger than this: with the two newest kept, a third always fits the 16 MiB of the store (R328; DESIGN
CHOICE, log entry 155). -/
def maxGeneration : Nat := 0x50_0000

/-- A generation: values in force of the groups, references of some channels, and what the last one held of the others.
Entries whose default is not a constant of the table are listed at any value. Its size is a free value (log entry 3). -/
def Dev.newGeneration (d : Dev) (gs chs : List Nat) : StoreGen :=
  let old : StoreGen := (d.nv.generation).getD ⟨0, [], [], [], 0, true⟩
  let take {α : Type} (now was : Kv α) : Kv α :=
    (now.filter (fun e => inGroups gs e.1)).foldl (fun m e => kvInsert m e.1 e.2) (was.filter (fun e => !inGroups gs e.1))
  let vs := take d.od old.values
  let vs := if gs.contains 2 then (cobEntries.map (·.1)).foldl (fun m k => kvInsert m k (BitVec.ofNat 64 (d.rd k))) vs else vs
  { generation := old.generation + 1, values := vs, strings := take d.dom old.strings,
    refs := chs.foldl (fun m ch => kvInsert m ch (d.chan ch).ref) old.refs, bytes := d.draw % maxGeneration, ok := true }

/-- Sectors that hold no record, and those whose records belong to no generation that is kept. -/
def Nv.freeSectors (n : Nv) : List Nat := (List.range 256).filter (fun s => !n.sectors.any (fun e => e.2 = s))

def Nv.deadSectors (n : Nv) : List (Nat × Nat) := n.sectors.filter (fun e => !n.store.any (fun g => g.generation = e.1))

/-- The least-erased free sector, the lowest of several (R328). -/
def Nv.leastErased (n : Nv) : Option Nat :=
  n.freeSectors.foldl (fun best s => match best with
    | none => some s
    | some b => if kvGet 0 n.erases s < kvGet 0 n.erases b then some s else some b) none

/-- A sector is erased. -/
def Nv.eraseSector (n : Nv) (s : Nat) : Nv :=
  { n with sectors := n.sectors.filter (fun e => e.2 ≠ s), erases := kvPut 0 n.erases s ((kvGet 0 n.erases s + 1) % 2 ^ 32) }

/-- Records of a generation go into the least-erased free sector. -/
def Nv.takeSector (gen : Nat) (n : Nv) : Nv :=
  match n.leastErased with
  | some s => { n with sectors := n.sectors ++ [(gen, s)] }
  | none => n

/-- A compaction: the sectors of generations that are kept no more are erased. -/
def Nv.compact (n : Nv) : Nv := n.deadSectors.foldl (fun n e => n.eraseSector e.2) n

/-- Sectors that a generation takes. -/
def StoreGen.sectorsOf (g : StoreGen) : Nat := (g.bytes + 65535) / 65536

/-- A store begins: STORE_STATE 1; with too little free space it first compacts the store, STORE_STATE 2 (R327, R328). -/
def Dev.startSave (d : Dev) (p : Path) (key : Nat) (gs chs : List Nat) : Dev :=
  let g := d.newGeneration gs chs
  let d := d.drawn
  let low : Bool := d.nv.freeSectors.length < g.sectorsOf
  let d : Dev := { d with fw := { d.fw with saving := some ⟨p, key, g⟩, compacting := d.fw.compacting || low } }
  d.wr 0x4811_01 (if d.fw.compacting then 2 else 1)

/-- PARAM_STORE_SAVE. -/
def saveDo (p : Path) (sub : Nat) (d : Dev) : Dev :=
  let gs := storeGroups1010 sub
  d.startSave p (dkey 0x1010 sub) (gs.filter (· ≠ 4)) (if gs.contains 4 then List.range 4 else [])

/-- REF_STORE of a channel. -/
def refStoreDo (p : Path) (ch : Nat) (d : Dev) : Dev := d.startSave p (ckey ch 7 2) [] [ch]

/-- PARAM_STORE_RESTORE: the groups are marked for their defaults at the next full reset (R329). -/
def restoreDo (sub : Nat) (d : Dev) : Dev :=
  d.setNv { d.nv with marks := (storeGroups1010 sub).foldl (fun m g => setAdd g m) d.nv.marks }

/-- PARAM_STORE_COMPACT: STORE_STATE 2 until the compaction ends. -/
def compactDo (d : Dev) : Dev := ({ d with fw := { d.fw with compacting := true } } : Dev).wr 0x4811_01 2

/-- STORE_STATE once no store runs. -/
def Dev.storeIdle (d : Dev) : Dev := d.wr 0x4811_01 (if d.fw.compacting then 2 else if d.nv.generation.isSome then 0 else 3)

/-- Flash of the store changes; SECTOR_ERASES_MAX shows it. -/
def Dev.setStore (d : Dev) (n : Nv) : Dev := (d.setNv n).wr 0x4811_04 n.erasesMax

/-- COMPACTION_COMPLETE. -/
def compactionComplete (d : Dev) : Dev :=
  if d.fw.compacting then
    let d := ({ d with fw := { d.fw with compacting := false } } : Dev).setStore d.nv.compact
    if d.fw.saving.isSome then d.wr 0x4811_01 1 else d.storeIdle
  else d

/-- A wear-levelling step (R328): the live records of the sector that has held them longest move to the least-erased free
sector, and the sector they leave is erased (DESIGN CHOICE, log entry 155). -/
def Dev.wearStep (d : Dev) : Dev :=
  match d.nv.sectors.find? (fun e => !d.nv.deadSectors.contains e), d.nv.leastErased with
  | some e, some _ => d.setStore ((d.nv.takeSector e.1).eraseSector e.2)
  | _, _ => d

def paramStoreWearLevel (d : Dev) : Dev := if d.run = .on ∧ d.stage ≤ 3 then d.wearStep else d

/-- The closing record is written: the generation is in force; the two newest are kept; marks of its groups clear. -/
def Dev.keepGeneration (d : Dev) (s : Saving) : Dev :=
  let stored := if keyIx s.sub = 0x1010 then storeGroups1010 (keySub s.sub) else []
  let n := (List.range s.gen.sectorsOf).foldl (fun n _ => n.takeSector s.gen.generation) d.nv
  let d := d.setStore { n with store := s.gen :: n.store.take 1, marks := n.marks.filter (fun g => !stored.contains g) }
  let d := d.each s.gen.refs (fun d r => d.storedReference r.1 r.2)
  ((d.wr 0x4811_02 s.gen.generation).wr 0x4811_03 s.gen.bytes).storeIdle

/-! ## Refusals -/

/-- Statuses that a refused write leaves (R160, R173, R378, R279, R400, R407). -/
def Dev.refusalStatus (d : Dev) (p : Path) (key code : Nat) : Dev :=
  let load := d.loadCheck (d.rdPath p 0x4403_01)
  if code = 0x0604_0043 ∧ chanEntry key 0 9 then d.wr (ckey (chanNo key) 6 13) 0x0201
  else if code = 0x0604_0043 ∧ axisEntry key 0 15 then d.wr (akey (axisNo key) 5 7) 0x0220
  else if code = 0x0604_0043 ∧ key = 0x4200_04 then d.fabStatus 0x0601
  else if code = 0x0604_0043 ∧ key = 0x3E12_01 then d.runStatusIs 0x0817
  else if code = 0x0604_0043 ∧ key = 0x4406_02 then d.wrPath p 0x4403_04 0x070C
  else if code = 0x0800_0022 ∧ key = 0x4403_02 ∧ load ≠ 0x0103 then (d.noteRefusal (d.rdPath p 0x4403_01) load).showLoad (some p) 3 load
  else d

/-- A field-network access (R338). -/
def Dev.accessed (d : Dev) : Dev := d.wr 0x4801_09 d.now

/-! ## Effects of writes -/

/-- Store a written value where the entry keeps it. -/
def Dev.keep (d : Dev) (p : Path) (key : Nat) (r : EntryRow) (bs : List Byte) : Dev :=
  if r.ty = 9 ∨ r.ty = 15 then (if r.perPath then d.wrPathDom p key bs else d.wrDom key bs)
  else if r.perPath then d.wrPath p key (ofLe bs) else d.wr key (ofLe bs)

/-- Every sub-index of a statistics slot returns to its default (R86). -/
def statClear (slot : Nat) (d : Dev) : Dev :=
  (List.range 9).foldl (fun d s => d.wr (dkey (0x2440 + slot) (s + 1)) (entryDefault (dkey (0x2440 + slot) (s + 1)))) d

/-- The error history is cleared (R326). -/
def historyClear (d : Dev) : Dev := (List.range 17).foldl (fun d s => d.wr (dkey 0x1003 s) 0) d

/-- Effects of the entries that stand alone; none: not one of them. -/
def Dev.effectAlone (d : Dev) (p : Path) (key v : Nat) (bs : List Byte) (test : Bool) : Option Dev :=
  match key with
  | 0x1003_00 => some (historyClear d)
  | 0x2000_02 => some (if v = 2 then targetProofDo d else targetPressDo d)
  | 0x2000_08 => some (resetRequestDo d)
  | 0x2201_01 => some (freqRequestDo v d)
  | 0x2503_01 => some (activateDo v test d)
  | 0x2505_04 => some (clearSuspectDo d)
  | 0x3A01_01 => some (textClearDo d)
  | 0x3E12_01 => some (if v = 1 then adaptStartDo d else adaptStopDo d)
  | 0x3E12_04 => some (publishDo d)
  | 0x4200_04 => some (fabricEnableDo v d)
  | 0x4211_01 => some (adapterImportDo v d)
  | 0x4402_01 => some (fwActivateDo v d)
  | 0x4402_02 => some d.confirmNow
  | 0x4403_02 => some (d.startLoad (d.rdPath p 0x4403_01) (some p) false none)
  | 0x4405_02 => some (attestDo p d)
  | 0x4406_02 => some (d.grantToken bs)
  | 0x4406_05 => some (debugLockDo d)
  | 0x4407_09 => some (ownerProgramDo bs d)
  | 0x4407_0A => some (ownerRevokeDo v d)
  | 0x4410_01 => some (d.recoveryWhole p bs)
  | 0x4600_01 => some (d.galleyTestDo v)
  | 0x4811_05 => some (compactDo d)
  | _ => none

/-- Effects of channels and axes. -/
def Dev.effectUnits (d : Dev) (p : Path) (key v : Nat) : Option Dev :=
  if chanEntry key 0 9 then some (if v = 1 then d.channelEnableDo (chanNo key) else d.channelDisableDo (chanNo key))
  else if chanEntry key 7 2 then some (refStoreDo p (chanNo key) d)
  else if axisEntry key 0 15 then some (if v = 1 then d.axisEnableDo (axisNo key) else d.axisDisableDo (axisNo key))
  else if axisEntry key 3 2 then some (d.goDo (axisNo key))
  else if axisEntry key 4 2 then some (d.clearSafeDo (axisNo key))
  else none

/-- A list's or ring's ENABLE: what a change to 1 does comes with it. -/
def Dev.effectEnable (d : Dev) (key v : Nat) : Option Dev :=
  let ix := keyIx key
  if keySub key ≠ 11 then none
  else if 0x4010 ≤ ix ∧ ix < 0x4020 then
    some (if v = 1 ∧ !d.on? key then jobListEnableDo (ix - 0x4010) (d.wr key 1) else d.wr key v)
  else if 0x4030 ≤ ix ∧ ix < 0x4040 then
    some (if v = 1 ∧ !d.on? key then ringEnableDo (ix - 0x4030) (d.wr key 1) else d.wr key v)
  else if 0x4050 ≤ ix ∧ ix < 0x4054 then
    some (if v = 1 ∧ !d.on? key then passEnableDo (ix - 0x4050) (d.wr key 1) else d.wr key v)
  else none

/-- Effects of command entries in runs of equal indices. -/
def Dev.effectRuns (d : Dev) (p : Path) (key v : Nat) : Option Dev :=
  let ix := keyIx key
  if 0x2441 ≤ ix ∧ ix ≤ 0x247F ∧ keySub key = 10 then some (statClear (ix - 0x2440) d)
  else if 0x3A10 ≤ ix ∧ ix < 0x3A18 then some (fountUnloadDo (ix - 0x3A10) d).followBits
  else if 0x3A20 ≤ ix ∧ ix < 0x3A40 then some (grammarUnloadDo (ix - 0x3A20) d).followBits
  else if 0x4610 ≤ ix ∧ ix < 0x4614 ∧ keySub key = 6 then
    some (if v = 1 then d.loopbackStart (ix - 0x4610) else d.loopbackStop (ix - 0x4610))
  else if ix = 0x1010 then some (saveDo p (keySub key) d)
  else if ix = 0x1011 then some (restoreDo (keySub key) d)
  else none

/-- What follows a stored value: E of an along table, the DDR5 layout, TEXT_SET, feeder inhibit. -/
def Dev.afterKeep (d : Dev) (key : Nat) (bs : List Byte) : Dev :=
  let ix := keyIx key
  if 0x3810 ≤ ix ∧ ix < 0x3814 ∧ keySub key = 1 then d.wr (dkey ix 2) (bs.length / 4)
  else if ix = 0x4101 then d.layoutFix
  else if key = 0x2000_04 ∨ key = 0x2000_05 then d.followBits
  else if axisEntry key 4 1 then d.fiAll
  else d

/-- Entries a write of which reaches flash or fuses (R329, R402, R403, R405, R409). -/
def reachesNv (key : Nat) : Bool :=
  key = 0x4402_01 || key = 0x4402_02 || key = 0x4407_09 || key = 0x4407_0A || key = 0x4410_01 || keyIx key = 0x1011

/-- The effect of a write that passed its checks. -/
def Dev.effect (d : Dev) (p : Path) (key : Nat) (r : EntryRow) (bs : List Byte) (test : Bool) : Dev :=
  let v := writtenValue r bs
  match d.effectAlone p key v bs test with
  | some e => e
  | none => match d.effectUnits p key v with
    | some e => e
    | none => match d.effectEnable key v with
      | some e => e
      | none => match d.effectRuns p key v with
        | some e => e
        | none => (d.keep p key r bs).afterKeep key bs

/-- A write that passed its checks takes effect; flash and fuses stay as they are for all but the entries that reach
them. -/
def Dev.accept (d : Dev) (p : Path) (key : Nat) (r : EntryRow) (bs : List Byte) (test : Bool) : Dev :=
  if reachesNv key then d.effect p key r bs test else { d.effect p key r bs test with nv := d.nv }

/-- A domain write to an entry that another path is writing (R324). -/
def Dev.domainBusy (d : Dev) (p : Path) (key : Nat) : Bool := d.net.staging.any (fun s => s.1 ≠ p && s.2.1 = key)

/-- Abort code of a write on a path, 0 to take it. -/
def Dev.serveCode (d : Dev) (p : Path) (key : Nat) (bs : List Byte) (sigOk : Bool) : Nat :=
  let code := d.writeCode p key bs sigOk
  if code = 0 ∧ d.domainBusy p key then 0x0800_0022 else code

/-- Does a write of an entry start a store, whose response comes when it ends (R327)? -/
def storesKey (key : Nat) : Bool := keyIx key = 0x1010 || chanEntry key 7 2

/-- A refused write is answered with an abort; a mailbox request answered is an access (R338). -/
def Dev.refuseWrite (d : Dev) (p : Path) (key code : Nat) : Dev :=
  let d := (d.refusalStatus p key code).abort p key code
  if p = .mailbox then d.accessed else d

/-- A write on a path: refused with an abort, or taken; a completed transfer is an access (R338). The flags are what no
byte of the write says: a token's signature, the result of a readmission test. -/
def Dev.write (d : Dev) (p : Path) (key : Nat) (bs : List Byte) (sigOk test : Bool) : Dev :=
  if d.run ≠ .on then d
  else
    let code := d.serveCode p key bs sigOk
    if code ≠ 0 then d.refuseWrite p key code
    else match rowOf key with
      | some r => (if storesKey key then d else d.accessed).accept p key r bs test
      | none => d

/-- Bytes of a value in its entry's size; one that the size cannot hold is a byte longer. -/
def valueBytes (key v : Nat) : List Byte := leBytes (if v < 256 ^ entrySize key then entrySize key else entrySize key + 1) v

/-- A write of a value in its entry's size. -/
def Dev.writeVal (d : Dev) (p : Path) (key v : Nat) : Dev := d.write p key (valueBytes key v) false false

/-- Do a write's bytes leave open what its command carries: the test of a left-out die? -/
def openKey (key : Nat) : Bool := key = 0x2503_01

/-- What the bytes of such a write leave open is a free value (log entry 30). -/
def Dev.openFlag (d : Dev) : Bool := d.draw % 2 = 1

/-- What a write by bytes alone says beyond them: whether a token's signature verifies, which its bytes and the signer's key
decide (R407), or whether a left-out die's test passes. -/
def Dev.flagOf (d : Dev) (key : Nat) (bs : List Byte) : Bool :=
  if key = 0x4406_02 then d.tokenSigned bs else openKey key && d.openFlag

/-- The free value of an open key has been used. -/
def Dev.spent (d : Dev) (key : Nat) : Dev := if openKey key then d.drawn else d

/-- A write by a path that carries bytes alone. -/
def Dev.writeOpen (d : Dev) (p : Path) (key : Nat) (bs : List Byte) : Dev :=
  (d.spent key).write p key bs (d.flagOf key bs) (d.flagOf key bs)

/-- A store ends: its generation is in force, or the one before it stays (R327). -/
def paramStoreDone (ok : Bool) (d : Dev) : Dev :=
  match d.fw.saving with
  | none => d
  | some s =>
    let d : Dev := { d with fw := { d.fw with saving := none } }
    if ok then d.keepGeneration s else d.storeIdle

/-! ## Stored values (R306, R307, R290) -/

/-- An entry of the store, as bytes. -/
def storedBytes (r : EntryRow) (v : Nat) (s : List Byte) : List Byte := if r.ty = 9 ∨ r.ty = 15 then s else leBytes r.size v

/-- Lengths, ranges and consistency of a stored value, as of a write; the rules on who may write an entry when, and on the
order in which the parts of a list are written, are no checks of the value (DEDUCED, log entry 157). -/
def Dev.storedCode (d : Dev) (key : Nat) (r : EntryRow) (bs : List Byte) : Nat :=
  let v := writtenValue r bs
  if lengthCode key r bs.length ≠ 0 then lengthCode key r bs.length
  else if d.rangeCode key r v bs ≠ 0 then d.rangeCode key r v bs
  else if pdoObject (keyIx key) then 0
  else if !d.stageOk r || d.locked .mailbox key v bs then 0x0800_0022
  else d.consistencyCode .mailbox key v bs false

/-- Apply one stored value with its entry's checks (R306, R307); a refused one stays at its default: 0355h. -/
def Dev.applyChecked (d : Dev) (key : Nat) (r : EntryRow) (bs : List Byte) : Dev :=
  if r.paired && !pairOk (ofLe bs) then (d.bump 0x2100_09).event 0x0335 0
  else
    let code := d.storedCode key r bs
    if code = 0 then d.accept .mailbox key r bs false
    else ((d.refusalStatus .mailbox key code).bump 0x2000_0B).event 0x0355 0

/-- Keys of values still waiting, ascending. -/
def Dev.waitingKeys (d : Dev) : List Nat :=
  ((d.start.later.map (·.1)) ++ d.start.laterDom.map (·.1)).foldl (fun l k => setAdd k l) []

/-- Take a waiting value out of the list. -/
def Dev.takeLater (d : Dev) (key : Nat) : (Nat × List Byte) × Dev :=
  ((((kvGet 0#64 d.start.later key).toNat, kvGet [] d.start.laterDom key)),
   { d with start := { d.start with later := kvErase d.start.later key, laterDom := kvErase d.start.laterDom key } })

/-- May a waiting value be applied: its entry is writable and its function's bit set (R307)? -/
def Dev.mayApply (d : Dev) (key : Nat) (r : EntryRow) : Bool := d.stageOk r && (fnOf key = 255 || d.ready (fnOf key))

/-- One waiting value at Chase entry: applied if its entry is writable in Chase. -/
def Dev.applyOneChase (d : Dev) (key : Nat) : Dev :=
  match rowOf key with
  | some r => if bit r.stages 0 then let t := d.takeLater key; t.2.applyChecked key r (storedBytes r t.1.1 t.1.2) else d
  | none => (d.takeLater key).2

/-- Values of entries writable in Chase, at Chase entry; no stored value reaches flash or fuses. -/
def Dev.applyChase (d : Dev) : Dev := { d.each d.waitingKeys Dev.applyOneChase with nv := d.nv }

/-- Values whose moment has come. -/
def Dev.applyLater (d : Dev) : Dev :=
  if d.run ≠ .on then d
  else d.each d.waitingKeys (fun d key =>
    match rowOf key with
    | some r =>
      if d.mayApply key r then let t := d.takeLater key; t.2.applyChecked key r (storedBytes r t.1.1 t.1.2) else d
    | none => d)

/-- Defaults that follow the node-ID in force (Table 16-9), where the store holds no value. -/
def Dev.cobDefaults (d : Dev) : Dev :=
  let stored (key : Nat) : Bool := (d.nv.generation).any (fun g => g.values.any (fun e => e.1 = key))
  d.each cobEntries (fun d e =>
    if stored e.1 then d else d.wr e.1 (e.2 + d.rd 0x4810_01))

/-- CHASE_ENTRY: stage-0 has verified and started (R305). -/
def chaseEntry (d : Dev) : Dev :=
  if d.run = .booting then
    let d := d.enterChase.applyChase.cobDefaults.startNets.followBits
    if d.busOn then d.sendOwed else d
  else d

/-! ## The mailbox (R332, R333) -/

/-- A response header (Table 16-11). -/
def responseHeader (req len abort : Nat) (more : Bool) : Nat :=
  packFields [(0, 291), (flag more, 1), (bits req 295 292, 4), (bits req 303 296, 8), (bits req 319 304, 16),
    (pairOf abort, 64), (pairOf len, 64), (pairOf (bits req 479 448), 64)]

/-- The response takes its place; an answered request is an access. -/
def Dev.mailReply (d : Dev) (abort : Nat) (data : List Byte) (more : Bool) : Dev :=
  let h := responseHeader d.host.request data.length abort more
  let d := if abort = 0 then d else d.noteAbort (bits d.host.request 319 296) abort
  (({ d with host := { d.host with response := h, responseData := data } } : Dev).emit (.mailbox h data)).accessed

/-- Key of a request, its offset and length. -/
def reqKey (h : Nat) : Nat := bits h 319 296
def reqOffset (h : Nat) : Nat := bits h 351 320
def reqLength (h : Nat) : Nat := bits h 415 384

/-- Abort code before the entry is looked at, or for a length beyond MAX_LENGTH (R333). -/
def requestCode (h : Nat) : Nat :=
  let cmd := bits h 295 292
  if !pairsOk h [384, 320] then 0x0800_0020
  else if cmd ≠ 1 ∧ cmd ≠ 2 then 0x0504_0001
  else if reqLength h > 4096 then 0x0607_0012
  else match rowOf (reqKey h) with
    | some r => if reqOffset h + reqLength h > r.size then 0x0607_0012 else 0
    | none => missing (reqKey h)

/-- A read: up to LENGTH bytes from OFFSET, or all for LENGTH 0, as far as the response area holds. -/
def Dev.mailboxReadDo (d : Dev) (h : Nat) : Dev :=
  let all := ((d.readBytes .mailbox (reqKey h)).getD []).drop (reqOffset h)
  let n := if reqLength h = 0 then 4096 else reqLength h
  d.mailReply 0 (all.take n) (all.length > n)

/-- The staging buffer of a domain write on the mailbox. -/
def Dev.staged (d : Dev) (key : Nat) : Option (List Byte) :=
  (d.net.staging.find? (fun s => s.1 = .mailbox && s.2.1 = key)).map (fun s => s.2.2)

def Dev.unstage (d : Dev) (key : Nat) : Dev :=
  { d with net := { d.net with staging := d.net.staging.filter (fun s => !(s.1 = .mailbox && s.2.1 = key)) } }

def Dev.stage4 (d : Dev) (key : Nat) (bs : List Byte) : Dev :=
  let d := d.unstage key
  { d with net := { d.net with staging := d.net.staging ++ [(.mailbox, key, bs)] } }

/-- A write through the mailbox that is whole: checked, taken, answered; a store is answered when it ends. -/
def Dev.mailboxWhole (d : Dev) (key : Nat) (r : EntryRow) (bs : List Byte) : Dev :=
  let ok := d.flagOf key bs
  let d := d.spent key
  let code := d.serveCode .mailbox key bs ok
  if code ≠ 0 then (d.refusalStatus .mailbox key code).mailReply code [] false
  else
    let d := d.accept .mailbox key r bs ok
    if d.fw.saving.isSome ∧ storesKey key then d else d.mailReply 0 [] false

/-- The first piece of a load starts it; its contents come with the manifest and the end of the load (R400). -/
def Dev.mailboxPiece (d : Dev) (key : Nat) (r : EntryRow) (bs : List Byte) (final : Bool) : Dev :=
  if key = 0x4403_02 then
    if (d.staged key).isNone ∧ d.serveCode .mailbox key bs false ≠ 0 then d.mailboxWhole key r bs
    else
      let d := if (d.staged key).isNone then d.accept .mailbox key r bs false else d
      (if final then d.unstage key else d.stage4 key ((d.staged key).getD [] ++ bs)).mailReply 0 [] false
  else if final then ((d.unstage key).mailboxWhole key r ((d.staged key).getD [] ++ bs))
  else (d.stage4 key ((d.staged key).getD [] ++ bs)).mailReply 0 [] false

/-- A piece of a domain write, in ascending OFFSET; a gap discards what was staged. -/
def Dev.mailboxDomain (d : Dev) (key : Nat) (r : EntryRow) (offset : Nat) (bs : List Byte) (final : Bool) : Dev :=
  let sofar := ((d.staged key).getD []).length
  if !r.rw then d.mailReply 0x0601_0002 [] false
  else if offset ≠ sofar then (d.unstage key).mailReply 0x0607_0010 [] false
  else if (d.staged key).isNone ∧ d.domainBusy .mailbox key then d.mailReply 0x0800_0022 [] false
  else if (d.staged key).isNone ∧ !final ∧ d.net.staging.length ≥ 4 then d.mailReply 0x0504_0005 [] false
  else d.mailboxPiece key r bs final

/-- A piece of the recovery image by the mailbox; the FINAL one is answered and the image then verified (R405). -/
def Dev.mailboxRecovery (d : Dev) (offset : Nat) (bs : List Byte) (final : Bool) : Dev :=
  let code := d.recoveryCode offset bs.length
  if code ≠ 0 then d.recoveryBreak.mailReply code [] false
  else
    let d := (d.recoveryTake offset bs).mailReply 0 [] false
    if final then d.recoveryFinal else d

/-- A write: a domain by pieces, any other entry whole. In recovery the image goes straight to flash (R405). -/
def Dev.mailboxWriteDo (d : Dev) (h : Nat) (bs : List Byte) : Dev :=
  let key := reqKey h
  let bs := fixBytes (reqLength h) bs
  match rowOf key with
  | none => d
  | some r =>
    if key = 0x4410_01 ∧ d.stage = 4 then d.mailboxRecovery (reqOffset h) bs (bit h 291)
    else if r.ty = 15 ∨ r.ty = 9 then d.mailboxDomain key r (reqOffset h) bs (bit h 291)
    else if r.rw ∧ (reqOffset h ≠ 0 ∨ !bit h 291) then d.mailReply 0x0607_0010 [] false
    else d.mailboxWhole key r bs

/-- A poll looks at the request header: well formed and new, it is accepted and served. -/
def mailboxServe (h : Nat) (bs : List Byte) (d : Dev) : Dev :=
  let d := { d with host := { d.host with request := h, requestData := bs } }
  let seq := pairedAt h 448
  if d.run ≠ .on ∨ d.host.perst ∨ !seq.2 ∨ seq.1 = d.host.lastReq then d
  else
    let d := ({ d with host := { d.host with lastReq := seq.1 } } : Dev).bump 0x4801_02
    let code := requestCode h
    if code ≠ 0 then d.mailReply code [] false
    else if bits h 295 292 = 1 then d.mailboxReadDo h
    else d.mailboxWriteDo h bs

/-- The response of a store (R327), which is an access when it completes the transfer or answers the mailbox (R338). -/
def Dev.storeResponse (d : Dev) (before : Option Saving) (ok : Bool) : Dev :=
  match before with
  | none => d
  | some s =>
    if s.path = .mailbox ∧ reqKey d.host.request = s.sub then d.mailReply (if ok then 0 else 0x0606_0000) [] false
    else if ok then d.accessed
    else
      let d := d.abort s.path s.sub 0x0606_0000
      if s.path = .mailbox then d.accessed else d

/-! ## Timeouts (Table 16-5) -/

/-- A load that came by SDO on a path and breaks off. -/
def Dev.breakLoad (d : Dev) (p : Path) : Dev :=
  d.each (d.fw.loads.filter (fun l => l.path = some p && !l.foe)) (fun d l =>
    if l.manifest.isNone then d.refuseEarly l 0x0702 0 else d.refuseLate l 0x0702)

/-- SDO_TRANSFER_TIMEOUT: 1 s without the next piece: the transfer ends and what was staged is dropped. -/
def sdoTransferTimeout (p : Path) (key : Nat) (d : Dev) : Dev :=
  if d.run ≠ .on then d
  else
    let d := { d with net := { d.net with staging := d.net.staging.filter (fun s => !(s.1 = p && s.2.1 = key)) } }
    let d := if key = 0x4403_02 then d.breakLoad p else d
    let d := if key = 0x4410_01 then d.recoveryBreak else d
    d.abort p key 0x0504_0000

end Sys2Proof.Machine
end

