-- ==== Sys2Proof/Machine/FieldBus.lean ====
section
/-! DEFINITION. Process data and the field buses (R330, R331, R334 to R339, R400): the snapshot, TxPDOs and the RxPDO,
emergencies that waited, heartbeats, NMT and AL states, FoE. -/

namespace Sys2Proof.Machine

/-! ## The snapshot and TxPDOs (R334) -/

/-- Entry and size in bytes that a mapping word names (R336). -/
def mapKey (w : Nat) : Nat := bits w 31 16 * 256 + bits w 15 8
def mapSize (w : Nat) : Nat := bits w 7 0 / 8

/-- Mapping words in force of an object, 1600h or 1A00h to 1A07h. -/
def Dev.mapped (d : Dev) (ix : Nat) : List Nat := (List.range (d.rd (dkey ix 0))).map (fun i => d.rd (dkey ix (i + 1)))

/-- A paired entry found not well formed returns to its default, with 0335h, counted (R290, R325). -/
def Dev.mendPair (d : Dev) (e : Nat × Val) : Dev :=
  match rowOf e.1 with
  | some r => if r.paired && !pairOk e.2.toNat then ((d.wr e.1 (entryDefault e.1)).bump 0x2100_09).event 0x0335 0 else d
  | none => d

/-- Every paired entry is looked at when the snapshot is taken. -/
def Dev.mendPairs (d : Dev) : Dev := d.each d.od Dev.mendPair

/-- The snapshot of the dictionary, with its device time: every value, so that an entry mapped after it is sent as it was
then. -/
def Dev.takeSnapshot (d : Dev) : Dev :=
  let d := d.mendPairs.wr 0x4800_01 d.now
  let shown := shownKeys.foldl (fun m key => kvInsert m key ((d.shown key).getD 0)) []
  { d with net := { d.net with snapshot := ⟨d.od, d.perVal, shown⟩ } }

/-- The value of an entry in a snapshot, as a path sees it. -/
def Snapshot.value (s : Snapshot) (p : Path) (key : Nat) : Nat :=
  match s.shown.find? (fun e => e.1 = key), rowOf key with
  | some e, _ => e.2
  | none, some r =>
    let (m, k) := if ownPerPath key r then (s.perPath, pkey p key) else (s.od, key)
    (kvGet (BitVec.ofNat 64 (entryDefault key)) m k).toNat
  | none, none => 0

/-- Bytes of TxPDO n, from the snapshot. -/
def Dev.pdoBytes (d : Dev) (p : Path) (n : Nat) : List Byte :=
  (d.mapped (0x1A00 + n)).flatMap (fun w => leBytes (mapSize w) (d.net.snapshot.value p (mapKey w)))

/-- Process data runs on CANopen: the bus is on and NMT is operational (R331). -/
def Dev.canRuns (d : Dev) : Bool := d.run = .on && d.ready 28 && d.net.nmt = 5

/-- TPDO n is enabled: bit 31 of its COB-ID is 0, and what is mapped fits a PDO of the CAN mode in effect (R331, R336). -/
def Dev.tpdoOn (d : Dev) (n : Nat) : Bool :=
  !bit (d.rd (dkey (0x1800 + n) 1)) 31 && d.rd (dkey (0x1A00 + n) 0) ≠ 0 && ((d.mapped (0x1A00 + n)).map mapSize).sum ≤ d.canLimit

/-- TPDO n goes out. -/
def Dev.sendTpdo (d : Dev) (n : Nat) : Dev :=
  let bs := d.pdoBytes .can n
  ({ d with net := { d.net with sent := kvInsert d.net.sent n d.now, carried := kvInsert d.net.carried n bs } } : Dev).emit
    (.txpdo n bs)

/-- Is TPDO n due at this SYNC: type 0 when what it carries has changed, 1 to 240 every so many SYNCs (R339)? -/
def Dev.dueAtSync (d : Dev) (n : Nat) : Bool :=
  let ty := d.rd (dkey (0x1800 + n) 2)
  d.tpdoOn n && (if ty = 0 then kvGet [] d.net.carried n ≠ d.pdoBytes .can n else ty ≤ 240 && d.net.syncs % ty = 0)

/-- Is the inhibit time of TPDO n over? -/
def Dev.inhibitOver (d : Dev) (n : Nat) : Bool :=
  match d.net.sent.find? (fun e => e.1 = n) with
  | some e => e.2 + d.rd (dkey (0x1800 + n) 3) * 100000 ≤ d.now
  | none => true

/-- A SYNC: the TPDOs due at it go out. -/
def Dev.syncCycle (d : Dev) : Dev :=
  let d : Dev := { d with net := { d.net with syncs := d.net.syncs + 1 } }
  d.each ((List.range 8).filter d.dueAtSync) Dev.sendTpdo

/-- Does a trigger give the cycle of sync manager 3 in the mode that 1C33h:01 names: free run, with the sync manager event, or
with DC SYNC0 (R330; the codes are PRESUMED, log entry 158)? -/
def Dev.ecatCycle (d : Dev) (t : PdoTrigger) : Bool :=
  match t with
  | .freeRun => d.rd 0x1C33_01 = 0
  | .smEvent => d.rd 0x1C33_01 = 1 || d.rd 0x1C33_01 = 0x22
  | .sync0 => d.rd 0x1C33_01 = 2
  | _ => false

/-- A cycle of the EtherCAT sync manager 3: all assigned TxPDOs, in SAFEOP and OP (R330). -/
def Dev.syncManagerCycle (d : Dev) : Dev :=
  d.each ((List.range (d.rd 0x1C13_00)).map (fun i => d.rd (dkey 0x1C13 (i + 1)) - 0x1A00))
    (fun d n => d.emit (.txpdo n (d.pdoBytes .ecat n)))

/-- PDO_CYCLE. -/
def pdoCycle (t : PdoTrigger) (d : Dev) : Dev :=
  match t with
  | .sync => if d.canRuns then d.syncCycle else d
  | .eventTimer n =>
    if d.canRuns ∧ d.tpdoOn n.val ∧ d.rd (dkey (0x1800 + n.val) 2) = 254 ∧ d.rd (dkey (0x1800 + n.val) 5) ≠ 0 ∧
        d.inhibitOver n.val then d.sendTpdo n.val
    else d
  | t => if d.run = .on ∧ (d.net.al = .safeop ∨ d.net.al = .op) ∧ d.ecatCycle t then d.syncManagerCycle else d

/-! ## The RxPDO (R335, R338) -/

/-- Does the path take process data: EtherCAT in OP with 1600h assigned, CANopen operational with its COB-ID enabled? -/
def Dev.rxRuns (d : Dev) : Path → Bool
  | .ecat => d.run = .on && d.net.al = .op && d.rd 0x1C12_00 = 1 && d.rd 0x1C12_01 = 0x1600
  | .can => d.canRuns && !bit (d.rd 0x1400_01) 31
  | .mailbox => false

/-- Values that the bytes of an RxPDO carry, by key. -/
def splitPdo : List Nat → List Byte → List (Nat × List Byte)
  | [], _ => []
  | w :: ws, bs => (mapKey w, bs.take (mapSize w)) :: splitPdo ws (bs.drop (mapSize w))

/-- The status of a refusal's emergency: no rule gives it, but its high byte names a subsystem (R8; log entry 3). -/
def Dev.openStatus (d : Dev) : Nat := d.draw % 10 * 256 + d.draw / 16 % 256

/-- A refused value: counted, and one emergency for its entry, with a status that no rule gives. -/
def Dev.rxRefuse (d : Dev) (p : Path) (key code : Nat) : Dev :=
  let d := (d.refusalStatus p key code).bump 0x4801_05
  let d : Dev := { d with net := { d.net with lastAbort := some d.now } }
  if d.net.rxRefused.contains key then d
  else
    let d : Dev := { d with net := { d.net with rxRefused := setAdd key d.net.rxRefused } }
    (d.drawn).emergency d.openStatus clsRefusal 0

/-- One received value: a change passes the checks of a write. -/
def Dev.rxValue (d : Dev) (p : Path) (key : Nat) (bs : List Byte) : Dev :=
  if ofLe bs = d.value p key then d
  else
    let code := d.serveCode p key bs false
    if code ≠ 0 then d.rxRefuse p key code
    else match rowOf key with
      | some r =>
        let d := d.accept p key r bs false
        { d with net := { d.net with rxRefused := d.net.rxRefused.filter (· ≠ key) } }
      | none => d

/-- Does a received MASTER_TICK differ from its value before? -/
def Dev.tickMoves (d : Dev) (vs : List (Nat × List Byte)) : Bool :=
  vs.any (fun v => v.1 = 0x4801_08 && ofLe v.2 ≠ d.rd 0x4801_08)

/-- RXPDO_RECEIVED. A PDO shorter than what is mapped is not taken. -/
def rxpdoReceived (p : Path) (bs : List Byte) (d : Dev) : Dev :=
  let ws := d.mapped 0x1600
  if d.rxRuns p ∧ (ws.map mapSize).sum ≤ bs.length then
    let vs := splitPdo ws bs
    let d := if d.tickMoves vs then d.accessed else d
    d.each vs (fun d v => d.rxValue p v.1 v.2)
  else d

/-! ## Emergencies, heartbeats, NMT and AL (R330, R331, R337, R339) -/

/-- EMCY_INHIBIT_EXPIRY: the oldest waiting emergency goes out. -/
def emcyInhibitExpiry (d : Dev) : Dev :=
  match d.net.emcyQueue with
  | e :: es => ({ d with net := { d.net with emcyQueue := es } } : Dev).sendEmcy e
  | [] => d

/-- HEARTBEAT. -/
def heartbeat (d : Dev) : Dev :=
  if d.run = .on ∧ d.ready 28 ∧ d.rd 0x1017_00 ≠ 0 then d.emit (.heartbeat d.net.node d.net.nmt) else d

/-- NMT_STATE_COMMAND. -/
def nmtStateCommand (c : NmtCmd) (d : Dev) : Dev :=
  let s := match c with | .start => 5 | .stop => 4 | .preOperational => 127
  if d.run = .on ∧ d.ready 28 then { d with net := { d.net with nmt := s } } else d

/-- An entry that NMT reset communication returns to its stored value. -/
def resetByNmt (key : Nat) : Bool := inGroups [2] key

/-- Entries 1000h to 1FFFh and 4810h at their stored values, or their defaults. -/
def Dev.storedNet (d : Dev) : Dev :=
  let d : Dev := { d with od := d.od.filter (fun e => !resetByNmt e.1) }
  match d.nv.generation with
  | some g => d.each (g.values.filter (fun e => resetByNmt e.1)) (fun d e => d.wr e.1 e.2.toNat)
  | none => d

/-- NMT_RESET_COMMUNICATION: node-ID and mode take effect. -/
def nmtResetCommunication (d : Dev) : Dev :=
  if d.run = .on ∧ d.stage ≤ 3 then
    let d := d.storedNet.cobDefaults
    let d := ({ d with net := { d.net with nmt := 127 } } : Dev).takeCanSettings
    d.setReady 28 (d.net.canMode ≠ 0 && !d.looped 0x52)
  else d

/-- Order of the AL states; BOOT stands beside them. -/
def alRank : AlState → Nat
  | .init => 0
  | .preop => 1
  | .safeop => 2
  | .op => 3
  | .boot => 4

/-- May the AL state change so: down, to the same, or one up; BOOT to and from INIT, in recovery only? -/
def Dev.alAllowed (d : Dev) (s : AlState) : Bool :=
  if s = .boot then d.stage = 4 && (d.net.al = .init || d.net.al = .boot)
  else if d.net.al = .boot then s = .init
  else alRank s ≤ alRank d.net.al + 1

/-- ECAT_STATE_REQUEST; a refused one is answered with AL status code 0011h. -/
def ecatStateRequest (s : AlState) (d : Dev) : Dev :=
  if d.run ≠ .on then d
  else
    let d : Dev := if d.alAllowed s then { d with net := { d.net with al := s, alCode := 0 } }
                   else { d with net := { d.net with alCode := 0x0011 } }
    d.emit (.alStatus d.net.al d.net.alCode)

/-! ## FoE (Table 20-6) -/

/-- ASCII digit. -/
def digitOf (b : Byte) : Option Nat := if 0x30 ≤ b.toNat ∧ b.toNat ≤ 0x39 then some (b.toNat - 0x30) else none

/-- Target of a file name: PLATE0, PLATE1, FOUNTk, GRAMgg, FW. -/
def foeTarget (name : List Byte) : Option Nat :=
  match name with
  | [0x46#8, 0x57#8] => some 0x40
  | [0x50#8, 0x4C#8, 0x41#8, 0x54#8, 0x45#8, k] =>
    match digitOf k with
    | some n => if n ≤ 1 then some n else none
    | none => none
  | [0x46#8, 0x4F#8, 0x55#8, 0x4E#8, 0x54#8, k] =>
    match digitOf k with
    | some n => if n ≤ 7 then some (0x10 + n) else none
    | none => none
  | [0x47#8, 0x52#8, 0x41#8, 0x4D#8, a, b] =>
    match digitOf a, digitOf b with
    | some m, some n => if 10 * m + n < 32 then some (0x20 + 10 * m + n) else none
    | _, _ => none
  | _ => none

/-- The name RECOVERY. -/
def recoveryName : List Byte := [0x52#8, 0x45#8, 0x43#8, 0x4F#8, 0x56#8, 0x45#8, 0x52#8, 0x59#8]

/-- A load by FoE: started, or refused with an FoE error and its status. -/
def Dev.foeLoad (d : Dev) (t : Nat) : Dev :=
  let st := d.loadCheck t
  if st ≠ 0 then ((d.noteRefusal t st).showLoad (some .ecat) 3 st).emit (.foeError 0x8000) else d.startLoad t (some .ecat) true none

/-- FOE_WRITE: a load to the target that the name names; RECOVERY begins a recovery image with EtherCAT in BOOT. -/
def foeWrite (name : List Byte) (d : Dev) : Dev :=
  if d.run ≠ .on then d
  else if name = recoveryName ∧ d.stage = 4 ∧ d.net.al = .boot then
    d.recoveryBreak
  else match foeTarget name with
    | some t => d.foeLoad t
    | none => d.emit (.foeError 0x8001)

end Sys2Proof.Machine
end

