-- ==== Sys2Proof/Machine/Close.lean ====
section
/-! DEFINITION. What closes a command that may free a resource, make a function ready or queue a forme: stored values
whose moment has come, templates made ready, admission, rings and feeder inhibit (R171, R282, R307, R356). -/

namespace Sys2Proof.Machine

/-- The consequences of a change, in their order; none in reset, in the boot ROM and in recovery. None of them reaches
flash and fuses. -/
def Dev.close (d : Dev) : Dev :=
  if d.run = .on ∧ d.stage ≤ 3 then { (d.applyLater.stopTemplates.settleTemplates).settle with nv := d.nv } else d

/-- FRAME_START, with the snapshot of the dictionary taken at it (R334). -/
def frameBegins (temps : TempsIn) (d : Dev) : Dev :=
  if d.inPress then ((frameStart temps d).applyLater).takeSnapshot else d

/-- BACKGROUND_TICK, with the snapshot that Chase and Proof take every 1 ms (R334). -/
def tick (scrub : ScrubIn) (temps : TempsIn) (d : Dev) : Dev :=
  if d.run = .on ∧ d.stage ≤ 2 then (backgroundTick scrub temps d).takeSnapshot else d

/-- PARAM_STORE_DONE, with the response of a store that the mailbox asked for (R327, R333). -/
def storeDone (ok : Bool) (d : Dev) : Dev := (paramStoreDone ok d).storeResponse d.fw.saving ok

/-! ## Lifting to the whole state -/

/-- The next state with another device; flash and fuses stay as they are. -/
def State.after (s : State) (d : Dev) : Host.Outcome State Fault Refusal := .next { s with dev := { d with nv := s.dev.nv } }

/-- A command whose effect lies in the device alone. -/
def State.upd (s : State) (f : Dev → Dev) : Host.Outcome State Fault Refusal := s.after (f s.dev)

/-- An operation that a core issues in a slot cycle: what its data engine does by then comes first. -/
def State.updAt (s : State) (a : At) (f : Dev → Dev) : Host.Outcome State Fault Refusal :=
  s.upd (fun d => f (d.engineTo a.core a.cycle))

/-- A command that may write flash or burn a fuse (R327 to R329, R397 to R405, R409). -/
def State.updNv (s : State) (f : Dev → Dev) : Host.Outcome State Fault Refusal := .next { s with dev := f s.dev }

/-- The block idles: outside reset one count of device time passes (R13, R304; log entry 31). -/
def Dev.idle (d : Dev) : Dev := if d.run = .held then d else { d with now := d.now + 40 }

end Sys2Proof.Machine
end

