-- ==== Sys2Proof/Machine/Matrix.lean ====
section
/-! DEFINITION. Matrix engine operations (R50, R51, R66 to R72): streamed rows, tile loads, SWAP and drains. -/

namespace Sys2Proof.Machine

/-- A streamed row put in flight: from galley it lands L cycles on, from the window tap 2 cycles on (Table 3-3). The
bytes are those at the row's address when the read is issued. -/
def streamOp (init : Bool) (a : At) (row fmt sidx : Nat) (src : StreamSrc) (d : Dev) : Dev :=
  match src with
  | .galley addr => d.issueRead a addr (rowBytes fmt) (fun d x =>
      d.land a x (a.cycle + d.landing) (.mulRow row init fmt sidx (d.word (galleyAddr a.core addr))))
  | .tap => d.issue a (fun d x => d.setCore a.core x)

/-- MAC. -/
def macOp := streamOp false

/-- MAC_INIT. -/
def macInitOp := streamOp true

/-- LOAD_TILE: one word into the shadow when it lands (R68). -/
def loadTile (a : At) (fmt word addr : Nat) (d : Dev) : Dev :=
  d.issueRead a addr 64 (fun d x => d.land a x (a.cycle + d.landing) (.tileWord fmt word (d.word (galleyAddr a.core addr))))

/-- LOAD_SCALE: the column scale word (R67). -/
def loadScale (a : At) (addr : Nat) (d : Dev) : Dev :=
  d.issueRead a addr 64 (fun d x => d.land a x (a.cycle + d.landing) (.tileScale (d.word (galleyAddr a.core addr))))

/-- SWAP at the end of its cycle (R49). -/
def swapOp (a : At) (d : Dev) : Dev := d.issue a (fun d x => d.land a x a.cycle .swap)

/-- DRAIN (R51): the row as it stood at the start of the cycle, in the register 4 cycles on. -/
def drainOp (a : At) (row vd : Nat) (d : Dev) : Dev :=
  d.issue a (fun d x => d.land a x (a.cycle + 4) (.vreg vd (x.accRow row)))

/-- DRAIN_CLEAR (R51): also sets the row to +0 once it has been read. -/
def drainClearOp (a : At) (row vd : Nat) (d : Dev) : Dev :=
  d.issue a (fun d x => d.land a (x.setAcc row zeroLanes) (a.cycle + 4) (.vreg vd (x.accRow row)))

end Sys2Proof.Machine
end

