-- ==== Sys2Proof/Machine/Window.lean ====
section
/-! DEFINITION. Window engine operations (R55, R198 to R202). -/

namespace Sys2Proof.Machine

/-- LINE_LOAD: the word lands in position (y, x) L cycles on (R198). -/
def lineLoadOp (a : At) (y x addr : Nat) (d : Dev) : Dev :=
  d.issueRead a addr 64 (fun d c => d.land a c (a.cycle + d.landing) (.winWord y x (d.word (galleyAddr a.core addr))))

/-- SHIFT by s columns after the cycle's reads (R200, R201). -/
def shiftOp (a : At) (h w s : Nat) (d : Dev) : Dev := d.issue a (fun d c => d.land a c a.cycle (.shift h w s))

/-- EMIT_TAP: the position's 32 channels land at the array 2 cycles on as a BF16 row (R199). -/
def emitTapOp (a : At) (y x row : Nat) (init : Bool) (d : Dev) : Dev :=
  d.issue a (fun d c => d.land a c (a.cycle + 2) (.mulRow row init 0 0 (kvGet 0 c.window (16 * y + x))))

/-- One channel of a window position, as FP32. -/
def winLane (win : Kv Nat) (y x ch : Nat) : F32 := codeTo32 0 (elemAt 0 (kvGet 0 win (16 * y + x)) ch)

/-- The values a pooling operation reduces for one channel, in row-major order (R202). -/
def poolValues (win : Kv Nat) (y x h w dil ch : Nat) : List F32 :=
  (List.range h).flatMap (fun i => (List.range w).map (fun j => winLane win (y + i * (dil + 1)) (x + j * (dil + 1)) ch))

/-- A pooling result: channels in lanes 0 to 31, +0 in lanes 32 to 63 (R55). -/
def poolLanes (f : List F32 → F32) (win : Kv Nat) (y x h w dil : Nat) : List F32 :=
  (List.range 32).map (fun ch => f (poolValues win y x h w dil ch)) ++ List.replicate 32 0#32

/-- Latency 4 + ⌈H · W / 16⌉ (Table 3-3). -/
def poolLatency (h w : Nat) : Nat := 4 + (h * w + 15) / 16

def poolOp (f : List F32 → F32) (a : At) (y x h w dil vd : Nat) (d : Dev) : Dev :=
  vecOp a vd (poolLatency h w) (fun c => poolLanes f c.window y x h w dil) d

/-- POOL_MAX. -/
def poolMaxOp := poolOp poolMaxLane

/-- POOL_AVG. -/
def poolAvgOp := poolOp poolAvgLane

end Sys2Proof.Machine
end

