-- ==== Sys2Proof/Machine/ExecCore.lean ====
section
/-! DEFINITION. The meaning of each command of the compute cores: sequencer, matrix, vector, window and data engines. -/

namespace Sys2Proof.Machine

/-- LOOP_BEGIN (R59). -/
def execLoopBegin (a : At) (level : Fin 4) (count endBundle : Nat) (s : State) : Host.Outcome State Fault Refusal :=
  s.updAt a (loopBegin a level.val count endBundle)

/-- LOOP_END (R59). -/
def execLoopEnd (a : At) (level : Fin 4) (s : State) : Host.Outcome State Fault Refusal :=
  s.updAt a (loopEnd a level.val)

/-- WAIT_CYCLE (R46). -/
def execWaitCycle (a : At) (count : Nat) (s : State) : Host.Outcome State Fault Refusal := s.upd (waitUntil a count)

/-- END (R60). -/
def execEndOp (a : At) (s : State) : Host.Outcome State Fault Refusal := s.updAt a (endOp a)

/-- REPLAY_POINT (R61). -/
def execReplayPoint (a : At) (s : State) : Host.Outcome State Fault Refusal := s.updAt a (replayPoint a)

/-- EXPECT_FILL (R62). -/
def execExpectFill (a : At) (slot : Fin 512) (epoch : Nat) (s : State) : Host.Outcome State Fault Refusal :=
  s.updAt a (expectFill a slot.val epoch)

/-- EXPECT_DRAIN (R62). -/
def execExpectDrain (a : At) (slot : Fin 512) (epoch : Nat) (s : State) : Host.Outcome State Fault Refusal :=
  s.updAt a (expectDrain a slot.val epoch)

/-- FILLED (R63). -/
def execFilled (a : At) (slot : Fin 512) (epoch : Nat) (s : State) : Host.Outcome State Fault Refusal :=
  s.updAt a (filled a slot.val epoch)

/-- DRAINED (R63). -/
def execDrained (a : At) (slot : Fin 512) (epoch : Nat) (s : State) : Host.Outcome State Fault Refusal :=
  s.updAt a (drained a slot.val epoch)

/-- CHECK_TAG (R57). -/
def execCheckTag (a : At) (tag : Fin 128) (s : State) : Host.Outcome State Fault Refusal :=
  s.updAt a (checkTag a tag.val)

/-- RELEASE (R62). -/
def execRelease (a : At) (slot : Fin 512) (s : State) : Host.Outcome State Fault Refusal :=
  s.updAt a (releaseSlot a slot.val)

/-- MAC (R50). -/
def execMac (a : At) (row : Fin 32) (fmt : Nat) (sidx : Fin 32) (src : StreamSrc) (s : State) : Host.Outcome State Fault Refusal :=
  s.updAt a (macOp a row.val fmt sidx.val src)

/-- MAC_INIT (R50). -/
def execMacInit (a : At) (row : Fin 32) (fmt : Nat) (sidx : Fin 32) (src : StreamSrc) (s : State) : Host.Outcome State Fault Refusal :=
  s.updAt a (macInitOp a row.val fmt sidx.val src)

/-- LOAD_TILE (R68). -/
def execLoadTile (a : At) (fmt : Nat) (word : Fin 64) (addr : Nat) (s : State) : Host.Outcome State Fault Refusal :=
  s.updAt a (loadTile a fmt word.val addr)

/-- LOAD_SCALE (R67). -/
def execLoadScale (a : At) (addr : Nat) (s : State) : Host.Outcome State Fault Refusal := s.updAt a (loadScale a addr)

/-- SWAP (R49). -/
def execSwap (a : At) (s : State) : Host.Outcome State Fault Refusal := s.updAt a (swapOp a)

/-- DRAIN (R51). -/
def execDrain (a : At) (row vd : Fin 32) (s : State) : Host.Outcome State Fault Refusal :=
  s.updAt a (drainOp a row.val vd.val)

/-- DRAIN_CLEAR (R51). -/
def execDrainClear (a : At) (row vd : Fin 32) (s : State) : Host.Outcome State Fault Refusal :=
  s.updAt a (drainClearOp a row.val vd.val)

/-- ADD (R52). -/
def execAdd (a : At) (vd va vb : Fin 32) (s : State) : Host.Outcome State Fault Refusal :=
  s.updAt a (addOp a vd.val va.val vb.val)

/-- SUB (R52). -/
def execSub (a : At) (vd va vb : Fin 32) (s : State) : Host.Outcome State Fault Refusal :=
  s.updAt a (subOp a vd.val va.val vb.val)

/-- MUL (R52). -/
def execMul (a : At) (vd va vb : Fin 32) (s : State) : Host.Outcome State Fault Refusal :=
  s.updAt a (mulOp a vd.val va.val vb.val)

/-- FMA (R52). -/
def execFma (a : At) (vd va vb vc : Fin 32) (s : State) : Host.Outcome State Fault Refusal :=
  s.updAt a (fmaOp a vd.val va.val vb.val vc.val)

/-- MAX (R52). -/
def execMax (a : At) (vd va vb : Fin 32) (s : State) : Host.Outcome State Fault Refusal :=
  s.updAt a (maxOp a vd.val va.val vb.val)

/-- MIN (R52). -/
def execMin (a : At) (vd va vb : Fin 32) (s : State) : Host.Outcome State Fault Refusal :=
  s.updAt a (minOp a vd.val va.val vb.val)

/-- MOVI (R52). -/
def execMovi (a : At) (vd : Fin 32) (imm : F32) (s : State) : Host.Outcome State Fault Refusal :=
  s.updAt a (moviOp a vd.val imm)

/-- SCALE (R52). -/
def execScale (a : At) (vd va : Fin 32) (imm : BitVec 32) (s : State) : Host.Outcome State Fault Refusal :=
  s.updAt a (scaleOp a vd.val va.val imm)

/-- EXP (R53). -/
def execExp (a : At) (vd va : Fin 32) (s : State) : Host.Outcome State Fault Refusal :=
  s.updAt a (expOp a vd.val va.val)

/-- RCP (R53). -/
def execRcp (a : At) (vd va : Fin 32) (s : State) : Host.Outcome State Fault Refusal :=
  s.updAt a (rcpOp a vd.val va.val)

/-- RSQRT (R53). -/
def execRsqrt (a : At) (vd va : Fin 32) (s : State) : Host.Outcome State Fault Refusal :=
  s.updAt a (rsqrtOp a vd.val va.val)

/-- SCORR (R53). -/
def execScorr (a : At) (vd va vb : Fin 32) (s : State) : Host.Outcome State Fault Refusal :=
  s.updAt a (scorrOp a vd.val va.val vb.val)

/-- RSUM (R54). -/
def execRsum (a : At) (vd va : Fin 32) (s : State) : Host.Outcome State Fault Refusal :=
  s.updAt a (rsumOp a vd.val va.val)

/-- RMAX (R54). -/
def execRmax (a : At) (vd va : Fin 32) (s : State) : Host.Outcome State Fault Refusal :=
  s.updAt a (rmaxOp a vd.val va.val)

/-- CVT (R77). -/
def execCvt (a : At) (vd va : Fin 32) (fmt : Fin 6) (rnd : Fin 3) (imm : BitVec 32) (s : State) : Host.Outcome State Fault Refusal :=
  s.updAt a (cvtOp a vd.val va.val fmt.val rnd.val imm)

/-- MSE_RANGE (R84). -/
def execMseRange (a : At) (vd va vb : Fin 32) (fmt : Nat) (split first zp : Bool) (slot : Fin 64) (s : State) : Host.Outcome State Fault Refusal :=
  s.updAt a (mseRangeOp a vd.val va.val vb.val fmt split first zp slot.val)

/-- MSE_ERROR (R84). -/
def execMseError (a : At) (vd va vb : Fin 32) (fmt : Nat) (split first zp : Bool) (slot : Fin 64) (s : State) : Host.Outcome State Fault Refusal :=
  s.updAt a (mseErrorOp a vd.val va.val vb.val fmt split first zp slot.val)

/-- VECTOR_LOAD (R47). -/
def execVectorLoad (a : At) (reg : Fin 32) (addr : Nat) (s : State) : Host.Outcome State Fault Refusal :=
  s.updAt a (vectorLoadOp a reg.val addr)

/-- VECTOR_STORE (R90). -/
def execVectorStore (a : At) (reg : Fin 32) (addr : Nat) (s : State) : Host.Outcome State Fault Refusal :=
  s.updAt a (vectorStoreOp a reg.val addr)

/-- STORE_CONVERT (R77). -/
def execStoreConvert (a : At) (reg : Fin 32) (addr : Nat) (fmt : Fin 6) (rnd : Fin 3) (imm : BitVec 32) (s : State) : Host.Outcome State Fault Refusal :=
  s.updAt a (storeConvertOp a reg.val addr fmt.val rnd.val imm)

/-- LINE_LOAD (R198). -/
def execLineLoad (a : At) (y x : Fin 15) (addr : Nat) (s : State) : Host.Outcome State Fault Refusal :=
  s.updAt a (lineLoadOp a y.val x.val addr)

/-- SHIFT (R201). -/
def execShift (a : At) (h w st : Nat) (s : State) : Host.Outcome State Fault Refusal := s.updAt a (shiftOp a h w st)

/-- EMIT_TAP (R199). -/
def execEmitTap (a : At) (y x : Fin 15) (row : Fin 32) (init : Bool) (s : State) : Host.Outcome State Fault Refusal :=
  s.updAt a (emitTapOp a y.val x.val row.val init)

/-- POOL_MAX (R55). -/
def execPoolMax (a : At) (y x h w dil : Nat) (vd : Fin 32) (s : State) : Host.Outcome State Fault Refusal :=
  s.updAt a (poolMaxOp a y x h w dil vd.val)

/-- POOL_AVG (R55). -/
def execPoolAvg (a : At) (y x h w dil : Nat) (vd : Fin 32) (s : State) : Host.Outcome State Fault Refusal :=
  s.updAt a (poolAvgOp a y x h w dil vd.val)

/-- GALLEY_COPY (R92). -/
def execGalleyCopy (a : At) (desc : Nat) (tag : Fin 128) (s : State) : Host.Outcome State Fault Refusal :=
  s.updAt a (galleyCopyOp a desc tag.val)

/-- GALLEY_FILL (R92). -/
def execGalleyFill (a : At) (desc : Nat) (tag : Fin 128) (s : State) : Host.Outcome State Fault Refusal :=
  s.updAt a (galleyFillOp a desc tag.val)

/-- DDR_READ (R107). -/
def execDdrRead (a : At) (desc : Nat) (tag : Fin 128) (s : State) : Host.Outcome State Fault Refusal :=
  s.updAt a (ddrReadOp a desc tag.val)

/-- DDR_WRITE (R107). -/
def execDdrWrite (a : At) (desc : Nat) (tag : Fin 128) (s : State) : Host.Outcome State Fault Refusal :=
  s.updAt a (ddrWriteOp a desc tag.val)

/-- SLUG_WALK_GATHER (R218). -/
def execSlugWalkGather (a : At) (desc : Nat) (tag : Fin 128) (s : State) : Host.Outcome State Fault Refusal :=
  s.updAt a (walkOp 0 a desc tag.val)

/-- SLUG_WALK_APPEND (R218). -/
def execSlugWalkAppend (a : At) (desc : Nat) (tag : Fin 128) (s : State) : Host.Outcome State Fault Refusal :=
  s.updAt a (walkOp 1 a desc tag.val)

/-- SLUG_WALK_SEAL_READ (R218). -/
def execSlugWalkSealRead (a : At) (desc : Nat) (tag : Fin 128) (s : State) : Host.Outcome State Fault Refusal :=
  s.updAt a (walkOp 2 a desc tag.val)

/-- SLUG_WALK_SEAL_WRITE (R218). -/
def execSlugWalkSealWrite (a : At) (desc : Nat) (tag : Fin 128) (s : State) : Host.Outcome State Fault Refusal :=
  s.updAt a (walkOp 3 a desc tag.val)

/-- REMOTE_WRITE (R384). -/
def execRemoteWrite (a : At) (desc : Nat) (tag : Fin 128) (s : State) : Host.Outcome State Fault Refusal :=
  s.updAt a (remoteWriteOp a desc tag.val)

/-- LOAD_STREAM_SCALE_TABLE (R56). -/
def execLoadStreamScaleTable (a : At) (desc : Nat) (tag : Fin 128) (s : State) : Host.Outcome State Fault Refusal :=
  s.updAt a (loadTableOp a desc tag.val)

/-- TRANSFER_COMPLETE (R56). -/
def execTransferComplete (core : Fin 96) (tag : Fin 128) (how : TransferEnd) (s : State) : Host.Outcome State Fault Refusal :=
  s.upd (transferComplete core tag.val how)

/-- GALLEY_READ_LANDING (R47). -/
def execGalleyReadLanding (a : At) (addr : Nat) (fetch : Bool) (how : Landing) (restore : Restore) (s : State) : Host.Outcome State Fault Refusal :=
  s.updAt a (readLanding a addr fetch how restore)

/-- STEP_REPLAY (R61). -/
def execStepReplay (core : Fin 96) (s : State) : Host.Outcome State Fault Refusal := s.upd (stepReplay core)

/-- SUPPLY_DROOP (R35). -/
def execSupplyDroop (core : Fin 96) (need : Nat) (s : State) : Host.Outcome State Fault Refusal :=
  s.upd (supplyDroop core need)

/-- SUPPLY_PROTECTIVE_STOP (R35). -/
def execSupplyProtectiveStop (core : Fin 96) (s : State) : Host.Outcome State Fault Refusal := s.upd (supplyStop core)

/-- LINK_CRC_ERROR (R30). -/
def execLinkCrcError (hop : LinkHop) (forme : Nat) (s : State) : Host.Outcome State Fault Refusal :=
  s.upd (linkCrcError hop forme)

end Sys2Proof.Machine
end

