-- ==== Sys2Proof/Machine/ExecFabric.lean ====
section
/-! DEFINITION. The meaning of each command of the fabric. -/

namespace Sys2Proof.Machine

/-- FABRIC_ENABLE (R378). -/
def execFabricEnable (p : Path) (s : State) : Host.Outcome State Fault Refusal :=
  s.upd (fun d => (d.writeVal p 0x4200_04 1).close)

/-- FABRIC_PORT_ALIGNED (R377). -/
def execFabricPortAligned (port : Fin 4) (neighbour sizeX sizeY : Nat) (facing : Fin 4) (s : State) : Host.Outcome State Fault Refusal :=
  s.upd (fun d => (fabricPortAligned port.val neighbour sizeX sizeY facing.val d).close)

/-- FABRIC_RETRAIN (R377). -/
def execFabricRetrain (port : Fin 4) (s : State) : Host.Outcome State Fault Refusal := s.upd (fabricRetrain port.val)

/-- FABRIC_ALIGNMENT_LOST (R383). -/
def execFabricAlignmentLost (port : Fin 4) (s : State) : Host.Outcome State Fault Refusal :=
  s.upd (fun d => (fabricAlignmentLost port.val d).close)

/-- FABRIC_LINK_SILENT (R383). -/
def execFabricLinkSilent (port : Fin 4) (s : State) : Host.Outcome State Fault Refusal :=
  s.upd (fun d => (fabricLinkSilent port.val d).close)

/-- FABRIC_LINK_RECEIVED (R382). -/
def execFabricLinkReceived (port : Fin 4) (pk : PacketIn) (s : State) : Host.Outcome State Fault Refusal :=
  s.upd (fabricLinkReceived port.val pk)

/-- FABRIC_PACKET_FORWARD (R379). -/
def execFabricPacketForward (port : Fin 4) (pk : PacketIn) (s : State) : Host.Outcome State Fault Refusal :=
  s.upd (fabricPacketForward port.val pk)

/-- FABRIC_WRITE_RECEIVED (R385). -/
def execFabricWriteReceived (port : Fin 4) (pk : PacketIn) (s : State) : Host.Outcome State Fault Refusal :=
  s.upd (fun d => (fabricWriteReceived port.val pk d).close)

/-- FABRIC_WRITE_RESP_RECEIVED (R385). -/
def execFabricWriteRespReceived (port : Fin 4) (pk : PacketIn) (s : State) : Host.Outcome State Fault Refusal :=
  s.upd (fun d => (fabricWriteRespReceived port.val pk d).close)

/-- FABRIC_GRANT_RECEIVED (R388). -/
def execFabricGrantReceived (port : Fin 4) (pk : PacketIn) (s : State) : Host.Outcome State Fault Refusal :=
  s.upd (fun d => (fabricGrantReceived port.val pk d).close)

/-- FABRIC_CLOSE_RECEIVED (R388). -/
def execFabricCloseReceived (port : Fin 4) (pk : PacketIn) (s : State) : Host.Outcome State Fault Refusal :=
  s.upd (fun d => (fabricCloseReceived port.val pk d).close)

/-- FABRIC_MGMT_RESP_RECEIVED (R392). -/
def execFabricMgmtRespReceived (port : Fin 4) (pk : PacketIn) (s : State) : Host.Outcome State Fault Refusal :=
  s.upd (fun d => (fabricMgmtRespReceived port.val pk d).close)

/-- FABRIC_ADAPTER_REQ_RECEIVED (R393). -/
def execFabricAdapterReqReceived (port : Fin 4) (pk : PacketIn) (s : State) : Host.Outcome State Fault Refusal :=
  s.upd (fabricAdapterReqReceived port.val pk)

/-- FABRIC_ADAPTER_DATA_RECEIVED (R393). -/
def execFabricAdapterDataReceived (port : Fin 4) (pk : PacketIn) (s : State) : Host.Outcome State Fault Refusal :=
  s.upd (fun d => (fabricAdapterDataReceived port.val pk d).close)

/-- FABRIC_RESP_TIMEOUT (R386). -/
def execFabricRespTimeout (tag : Nat) (s : State) : Host.Outcome State Fault Refusal :=
  s.upd (fun d => (fabricRespTimeout tag d).close)

/-- WINDOW_DEADLINE (R390). -/
def execWindowDeadline (window : Fin 256) (s : State) : Host.Outcome State Fault Refusal :=
  s.upd (fun d => (windowDeadline window.val d).close)

/-- ADAPTER_IMPORT_FROM (R393). -/
def execAdapterImportFrom (p : Path) (dev : Nat) (s : State) : Host.Outcome State Fault Refusal :=
  s.upd (fun d => d.writeVal p 0x4211_01 dev)

/-- FABRIC_CRC_MISMATCH (R383). -/
def execFabricCrcMismatch (port : Fin 4) (s : State) : Host.Outcome State Fault Refusal :=
  s.upd (fabricCrcMismatch port.val)

end Sys2Proof.Machine
end

