-- ==== Sys2Proof/Machine/ExecHost.lean ====
section
/-! DEFINITION. The meaning of each command of the dictionary, the field buses and the host interface. -/

namespace Sys2Proof.Machine

/-- CORE_COUNTER_CLEAR (R65). -/
def execCoreCounterClear (p : Path) (sub v : Nat) (s : State) : Host.Outcome State Fault Refusal :=
  s.upd (fun d => d.writeVal p (dkey 0x2403 sub) v)

/-- STAT_SLOT_CLEAR (R86). -/
def execStatSlotClear (p : Path) (slot : Fin 64) (v : Nat) (s : State) : Host.Outcome State Fault Refusal :=
  s.upd (fun d => d.writeVal p (dkey (0x2440 + slot.val) 10) v)

/-- DICTIONARY_WRITE (R323). -/
def execDictionaryWrite (p : Path) (index sub : Nat) (bytes : List Byte) (s : State) : Host.Outcome State Fault Refusal :=
  s.updNv (fun d => (Dev.writeOpen d p (dkey index sub) bytes).close)

/-- SDO_TRANSFER_TIMEOUT (R324). -/
def execSdoTransferTimeout (p : Path) (index sub : Nat) (s : State) : Host.Outcome State Fault Refusal :=
  s.upd (fun d => (sdoTransferTimeout p (dkey index sub) d).close)

/-- MAILBOX_READ (R333). -/
def execMailboxRead (header : Nat) (s : State) : Host.Outcome State Fault Refusal := s.updNv (mailboxServe header [])

/-- MAILBOX_WRITE (R333). -/
def execMailboxWrite (header : Nat) (bytes : List Byte) (s : State) : Host.Outcome State Fault Refusal :=
  s.updNv (fun d => (mailboxServe header bytes d).close)

/-- DESCRIBE_SELECT (R322). -/
def execDescribeSelect (p : Path) (v : Nat) (s : State) : Host.Outcome State Fault Refusal :=
  s.upd (fun d => d.writeVal p 0x4812_01 v)

/-- PARAM_STORE_SAVE (R327). -/
def execParamStoreSave (p : Path) (sub v : Nat) (s : State) : Host.Outcome State Fault Refusal :=
  s.upd (fun d => d.writeVal p (dkey 0x1010 sub) v)

/-- PARAM_STORE_DONE (R327). -/
def execParamStoreDone (ok : Bool) (s : State) : Host.Outcome State Fault Refusal := s.updNv (storeDone ok)

/-- PARAM_STORE_RESTORE (R329). -/
def execParamStoreRestore (p : Path) (sub v : Nat) (s : State) : Host.Outcome State Fault Refusal :=
  s.updNv (fun d => d.writeVal p (dkey 0x1011 sub) v)

/-- PARAM_STORE_COMPACT (R340). -/
def execParamStoreCompact (p : Path) (v : Nat) (s : State) : Host.Outcome State Fault Refusal :=
  s.upd (fun d => d.writeVal p 0x4811_05 v)

/-- PARAM_STORE_WEAR_LEVEL (R328). -/
def execParamStoreWearLevel (s : State) : Host.Outcome State Fault Refusal := s.updNv paramStoreWearLevel

/-- COMPACTION_COMPLETE (R340). -/
def execCompactionComplete (s : State) : Host.Outcome State Fault Refusal := s.updNv compactionComplete

/-- ERROR_HISTORY_CLEAR (R326). -/
def execErrorHistoryClear (p : Path) (v : Nat) (s : State) : Host.Outcome State Fault Refusal :=
  s.upd (fun d => d.writeVal p 0x1003_00 v)

/-- RXPDO_RECEIVED (R335). -/
def execRxpdoReceived (p : Path) (bytes : List Byte) (s : State) : Host.Outcome State Fault Refusal :=
  s.upd (fun d => (rxpdoReceived p bytes d).close)

/-- PDO_CYCLE (R334). -/
def execPdoCycle (trigger : PdoTrigger) (s : State) : Host.Outcome State Fault Refusal := s.upd (pdoCycle trigger)

/-- EMCY_INHIBIT_EXPIRY (R337). -/
def execEmcyInhibitExpiry (s : State) : Host.Outcome State Fault Refusal := s.upd emcyInhibitExpiry

/-- HEARTBEAT (R339). -/
def execHeartbeat (s : State) : Host.Outcome State Fault Refusal := s.upd heartbeat

/-- NMT_RESET_COMMUNICATION (R331). -/
def execNmtResetCommunication (s : State) : Host.Outcome State Fault Refusal := s.upd nmtResetCommunication

/-- NMT_STATE_COMMAND (R331). -/
def execNmtStateCommand (cmd : NmtCmd) (s : State) : Host.Outcome State Fault Refusal := s.upd (nmtStateCommand cmd)

/-- ECAT_STATE_REQUEST (R330). -/
def execEcatStateRequest (state : AlState) (s : State) : Host.Outcome State Fault Refusal :=
  s.upd (ecatStateRequest state)

/-- FOE_WRITE (R330). -/
def execFoeWrite (name : List Byte) (s : State) : Host.Outcome State Fault Refusal := s.upd (foeWrite name)

/-- HOST_POLL (R344). -/
def execHostPoll (poll : PollIn) (s : State) : Host.Outcome State Fault Refusal :=
  s.upd (fun d => (hostPoll poll d).close)

/-- JOB_IMAGE (R348). -/
def execJobImage (list : Fin 16) (mesh : List Byte) (s : State) : Host.Outcome State Fault Refusal :=
  s.upd (fun d => (jobImage list mesh d).close)

/-- JOB_TOKENISE (R349). -/
def execJobTokenise (list : Fin 16) (text : List Byte) (s : State) : Host.Outcome State Fault Refusal :=
  s.upd (fun d => (jobTokenise list text d).close)

/-- JOB_SAMPLE (R350). -/
def execJobSample (list : Fin 16) (img : SampleIn) (text : List Byte) (s : State) : Host.Outcome State Fault Refusal :=
  s.upd (fun d => (jobSample list img text d).close)

/-- JOB_TEMPLATE_BUILD (R351). -/
def execJobTemplateBuild (list : Fin 16) (text : List Byte) (s : State) : Host.Outcome State Fault Refusal :=
  s.upd (fun d => (jobTemplateBuild list text d).close)

/-- JOB_TEMPLATE_IMPORT (R235). -/
def execJobTemplateImport (list : Fin 16) (text : List Byte) (s : State) : Host.Outcome State Fault Refusal :=
  s.upd (fun d => (jobTemplateImport list text d).close)

/-- JOB_TEMPLATE_CLEAR (R351). -/
def execJobTemplateClear (list : Fin 16) (s : State) : Host.Outcome State Fault Refusal :=
  s.upd (fun d => (jobTemplateClear list d).close)

/-- JOB_REQUESTS (R352). -/
def execJobRequests (list : Fin 16) (table : List Byte) (s : State) : Host.Outcome State Fault Refusal :=
  s.upd (fun d => (jobRequests list table d).close)

/-- JOB_LOAD (R354). -/
def execJobLoad (list : Fin 16) (s : State) : Host.Outcome State Fault Refusal :=
  s.upd (fun d => (jobLoad list d).close)

/-- HOST_READ_COMPLETION (R360). -/
def execHostReadCompletion (what : HostReadOf) (_fail : HostFail) (s : State) : Host.Outcome State Fault Refusal :=
  s.upd (hostReadCompletion what)

/-- HOST_READ_RETRY (R360). -/
def execHostReadRetry (what : HostReadOf) (fail : Option HostFail) (s : State) : Host.Outcome State Fault Refusal :=
  s.upd (fun d => (hostReadRetry what fail d).close)

/-- MSIX_HOLDOFF_EXPIRY (R359). -/
def execMsixHoldoffExpiry (src : MsixSrc) (s : State) : Host.Outcome State Fault Refusal :=
  s.upd (msixHoldoffExpiry src)

/-- MSIX_UNMASK (R359). -/
def execMsixUnmask (vector : Fin 64) (s : State) : Host.Outcome State Fault Refusal := s.upd (msixUnmask vector.val)

/-- RING_ENABLE (R11). -/
def execRingEnable (p : Path) (ring : Fin 16) (s : State) : Host.Outcome State Fault Refusal :=
  s.upd (fun d => (d.writeVal p (dkey (0x4030 + ring.val) 11) 1).close)

/-- JOB_LIST_ENABLE (R345). -/
def execJobListEnable (p : Path) (list : Fin 16) (s : State) : Host.Outcome State Fault Refusal :=
  s.upd (fun d => (d.writeVal p (dkey (0x4010 + list.val) 11) 1).close)

/-- PASSTHROUGH_DRAIN (R358). -/
def execPassthroughDrain (ch : Fin 4) (s : State) : Host.Outcome State Fault Refusal := s.upd (passthroughDrain ch)

/-- BAR2_READ (R342). -/
def execBar2Read (offset : Nat) (read : BarRead) (s : State) : Host.Outcome State Fault Refusal :=
  s.upd (bar2Read offset read)

/-- BAR2_WRITE (R342). -/
def execBar2Write (_offset : Nat) (_bytes : List Byte) (s : State) : Host.Outcome State Fault Refusal :=
  s.upd bar2Write

end Sys2Proof.Machine
end

