-- ==== Sys2Proof/Machine/ExecScan.lean ====
section
/-! DEFINITION. The meaning of each command of transport, scan channels, geometry, slugs, text, batches and adaptation. -/

namespace Sys2Proof.Machine

/-- LINE_STEP (R162). -/
def execLineStep (ax : Fin 4) (s : State) : Host.Outcome State Fault Refusal := s.upd (lineStep ax.val)

/-- AXIS_RESUME (R176). -/
def execAxisResume (ax : Fin 4) (s : State) : Host.Outcome State Fault Refusal := s.upd (axisResume ax.val)

/-- STALL_EVENT (R176). -/
def execStallEvent (ax : Fin 4) (s : State) : Host.Outcome State Fault Refusal := s.upd (stallEvent ax.val)

/-- SENSOR_EDGE (R167). -/
def execSensorEdge (ds : Fin 8) (level : Bool) (s : State) : Host.Outcome State Fault Refusal :=
  s.upd (sensorEdge ds.val level)

/-- RESERVATION_RESUME (R172). -/
def execReservationResume (ax : Fin 4) (s : State) : Host.Outcome State Fault Refusal :=
  s.upd (reservationResume ax.val)

/-- JAM (R169). -/
def execJam (ax : Fin 4) (s : State) : Host.Outcome State Fault Refusal := s.upd (fun d => (jam ax.val d).close)

/-- LONG_DOCUMENT_JAM (R169). -/
def execLongDocumentJam (ax : Fin 4) (s : State) : Host.Outcome State Fault Refusal :=
  s.upd (fun d => (longDocumentJam ax.val d).close)

/-- DRIVER_FAULT (R177). -/
def execDriverFault (ax : Fin 4) (s : State) : Host.Outcome State Fault Refusal :=
  s.upd (fun d => (driverFault ax.val d).close)

/-- DRIVER_FAULT_RELEASE (R442). -/
def execDriverFaultRelease (ax : Fin 4) (s : State) : Host.Outcome State Fault Refusal :=
  s.upd (fun d => (driverFaultRelease ax.val d).close)

/-- FIELD_TIMEOUT (R177). -/
def execFieldTimeout (ax : Fin 4) (s : State) : Host.Outcome State Fault Refusal :=
  s.upd (fun d => (fieldTimeout ax.val d).close)

/-- AXIS_ENABLE (R173). -/
def execAxisEnable (p : Path) (ax : Fin 4) (s : State) : Host.Outcome State Fault Refusal :=
  s.upd (fun d => (d.writeVal p (akey ax.val 0 15) 1).close)

/-- AXIS_DISABLE (R177). -/
def execAxisDisable (p : Path) (ax : Fin 4) (s : State) : Host.Outcome State Fault Refusal :=
  s.upd (fun d => (d.writeVal p (akey ax.val 0 15) 0).close)

/-- CLEAR_SAFE (R178). -/
def execClearSafe (p : Path) (ax : Fin 4) (v : Nat) (s : State) : Host.Outcome State Fault Refusal :=
  s.upd (fun d => (d.writeVal p (akey ax.val 4 2) v).close)

/-- GO (R166). -/
def execGo (p : Path) (ax : Fin 4) (v : Nat) (s : State) : Host.Outcome State Fault Refusal :=
  s.upd (fun d => d.writeVal p (akey ax.val 3 2) v)

/-- FREE_AXIS_PULSE (R166). -/
def execFreeAxisPulse (ax : Fin 4) (s : State) : Host.Outcome State Fault Refusal := s.upd (freeAxisPulse ax.val)

/-- SCAN_LINE_COMPLETE (R134). -/
def execScanLineComplete (ch : Fin 4) (line : LineIn) (s : State) : Host.Outcome State Fault Refusal :=
  s.upd (fun d => (scanLineComplete ch.val line d).close)

/-- PAGE_TRUNCATED (R149). -/
def execPageTruncated (ch : Fin 4) (s : State) : Host.Outcome State Fault Refusal :=
  s.upd (fun d => (pageTruncated ch.val d).close)

/-- CHANNEL_ENABLE (R160). -/
def execChannelEnable (p : Path) (ch : Fin 4) (s : State) : Host.Outcome State Fault Refusal :=
  s.upd (fun d => (d.writeVal p (ckey ch.val 0 9) 1).close)

/-- CHANNEL_DISABLE (R159). -/
def execChannelDisable (p : Path) (ch : Fin 4) (s : State) : Host.Outcome State Fault Refusal :=
  s.upd (fun d => (d.writeVal p (ckey ch.val 0 9) 0).close)

/-- REF_STORE (R159). -/
def execRefStore (p : Path) (ch : Fin 4) (v : Nat) (s : State) : Host.Outcome State Fault Refusal :=
  s.upd (fun d => d.writeVal p (ckey ch.val 7 2) v)

/-- GEOMETRY_FORME_RUN (R181). -/
def execGeometryFormeRun (unit : Fin 2) (s : State) : Host.Outcome State Fault Refusal :=
  s.upd (fun d => (geometryFormeRun unit.val d).close)

/-- SLUG_MIGRATE (R230). -/
def execSlugMigrate (slug : Nat) (way : Migration) (s : State) : Host.Outcome State Fault Refusal :=
  s.upd (fun d => d.migrate slug way)

/-- TEXT_ROW_PROCESS (R248). -/
def execTextRowProcess (row : Fin 256) (s : State) : Host.Outcome State Fault Refusal :=
  s.upd (fun d => (textRowProcess row.val d).close)

/-- DECODE_CUTOFF (R15). -/
def execDecodeCutoff (seq : Nat) (s : State) : Host.Outcome State Fault Refusal :=
  s.upd (fun d => (decodeCutoff seq d).close)

/-- LAYOUT_CUTOFF (R293). -/
def execLayoutCutoff (ring : Fin 16) (seq : Nat) (s : State) : Host.Outcome State Fault Refusal :=
  s.upd (fun d => (layoutCutoff ring.val seq d).close)

/-- STRUCTURING_CUTOFF (R293). -/
def execStructuringCutoff (ring : Fin 16) (seq : Nat) (s : State) : Host.Outcome State Fault Refusal :=
  s.upd (fun d => (structuringCutoff ring.val seq d).close)

/-- FOUNT_UNLOAD (R238). -/
def execFountUnload (p : Path) (slot : Fin 8) (v : Nat) (s : State) : Host.Outcome State Fault Refusal :=
  s.upd (fun d => (d.writeVal p (fountKey slot.val 7) v).close)

/-- GRAMMAR_UNLOAD (R238). -/
def execGrammarUnload (p : Path) (slot : Fin 32) (v : Nat) (s : State) : Host.Outcome State Fault Refusal :=
  s.upd (fun d => (d.writeVal p (grammarKey slot.val 7) v).close)

/-- TEXT_CLEAR_COUNTERS (R260). -/
def execTextClearCounters (p : Path) (v : Nat) (s : State) : Host.Outcome State Fault Refusal :=
  s.upd (fun d => d.writeVal p 0x3A01_01 v)

/-- IMAGE_DECODE_START (R440). -/
def execImageDecodeStart (img : ImageIn) (s : State) : Host.Outcome State Fault Refusal :=
  s.upd (fun d => (imageDecodeStart img d).close)

/-- IMAGE_DECODE_COMPLETE (R267). -/
def execImageDecodeComplete (engine : Fin 8) (s : State) : Host.Outcome State Fault Refusal :=
  s.upd (fun d => (imageDecodeComplete engine.val d).close)

/-- DECODE_DEFERRED (R269). -/
def execDecodeDeferred (engine : Fin 8) (s : State) : Host.Outcome State Fault Refusal :=
  s.upd (fun d => (decodeDeferred engine.val d).close)

/-- DECODE_ABANDONED (R269). -/
def execDecodeAbandoned (engine : Fin 8) (s : State) : Host.Outcome State Fault Refusal :=
  s.upd (fun d => (decodeAbandoned engine.val d).close)

/-- ADAPT_RUN_START (R279). -/
def execAdaptRunStart (p : Path) (s : State) : Host.Outcome State Fault Refusal :=
  s.upd (fun d => (d.writeVal p 0x3E12_01 1).close)

/-- ADAPT_RUN_STOP (R279). -/
def execAdaptRunStop (p : Path) (s : State) : Host.Outcome State Fault Refusal :=
  s.upd (fun d => (d.writeVal p 0x3E12_01 0).close)

/-- ADAPT_BATCH_BUILD (R271). -/
def execAdaptBatchBuild (times : List Nat) (s : State) : Host.Outcome State Fault Refusal :=
  s.upd (fun d => (adaptBatchBuild times d).close)

/-- PUBLISH (R278). -/
def execPublish (p : Path) (v : Nat) (s : State) : Host.Outcome State Fault Refusal :=
  s.upd (fun d => d.writeVal p 0x3E12_04 v)

/-- SAMPLE_DECODE_OVER_BUDGET (R271). -/
def execSampleDecodeOverBudget (s : State) : Host.Outcome State Fault Refusal :=
  s.upd (fun d => (sampleOverBudget d).close)

end Sys2Proof.Machine
end

