-- ==== Sys2Proof/Machine/ExecStart.lean ====
section
/-! DEFINITION. The meaning of each command of the staged start, frames, power and plates. -/

namespace Sys2Proof.Machine

/-- POWER_ON_RESET (R303). -/
def execPowerOnReset (s : State) : Host.Outcome State Fault Refusal := s.upd powerOnReset

/-- RESET_N_ASSERTED (R303). -/
def execResetNAsserted (s : State) : Host.Outcome State Fault Refusal := s.upd resetNAsserted

/-- MANAGEMENT_WATCHDOG (R303). -/
def execManagementWatchdog (s : State) : Host.Outcome State Fault Refusal := s.upd managementWatchdog

/-- RESET_REQUEST (R303). -/
def execResetRequest (p : Path) (v : Nat) (s : State) : Host.Outcome State Fault Refusal :=
  s.upd (fun d => d.writeVal p 0x2000_08 v)

/-- FIELD_NETWORK_RESET (R331). -/
def execFieldNetworkReset (s : State) : Host.Outcome State Fault Refusal := s.upd fieldNetworkReset

/-- REFERENCE_CLOCK_LOSS (R432). -/
def execReferenceClockLoss (s : State) : Host.Outcome State Fault Refusal := s.upd referenceClockLoss

/-- PERST_N (R343). -/
def execPerstN (asserted : Bool) (s : State) : Host.Outcome State Fault Refusal :=
  s.upd (fun d => (perstN asserted d).close)

/-- FUNCTION_LEVEL_RESET (R343). -/
def execFunctionLevelReset (s : State) : Host.Outcome State Fault Refusal :=
  s.upd (fun d => (functionLevelReset d).close)

/-- PCIE_LINK_CHANGE (R343). -/
def execPcieLinkChange (up : Bool) (gen width : Nat) (s : State) : Host.Outcome State Fault Refusal :=
  s.upd (fun d => (pcieLinkChange up gen width d).close)

/-- BUS_MASTER_ENABLE (R343). -/
def execBusMasterEnable (on : Bool) (s : State) : Host.Outcome State Fault Refusal := s.upd (busMasterEnable on)

/-- RESET_RELEASE (R304). -/
def execResetRelease (tmode : BitVec 2) (s : State) : Host.Outcome State Fault Refusal :=
  s.updNv (resetRelease tmode.toNat)

/-- CHASE_ENTRY (R305). -/
def execChaseEntry (s : State) : Host.Outcome State Fault Refusal := s.updNv chaseEntry

/-- PROOF_ENTRY (R310). -/
def execProofEntry (spd : List (Fin 8 × Spd)) (s : State) : Host.Outcome State Fault Refusal :=
  s.updNv (fun d => (proofEntryBase spd d).close)

/-- GALLEY_TEST_DONE (R310). -/
def execGalleyTestDone (die : Fin 6) (fail : Option GalleyFail) (s : State) : Host.Outcome State Fault Refusal :=
  s.upd (fun d => (galleyTestDone die.val fail d).close)

/-- DDR_TRAINING_DONE (R311). -/
def execDdrTrainingDone (ch : Fin 8) (ok : Bool) (s : State) : Host.Outcome State Fault Refusal :=
  s.upd (fun d => (ddrTrainingDone ch.val ok d).close)

/-- DDR_MEMORY_TEST_DONE (R311). -/
def execDdrMemoryTestDone (ch : Fin 8) (ok : Bool) (corrected : Nat) (s : State) : Host.Outcome State Fault Refusal :=
  s.upd (fun d => (ddrMemoryTestDone ch.val ok corrected d).close)

/-- DDR_LAYOUT_SIZE_WRITE (R369). -/
def execDdrLayoutSizeWrite (p : Path) (sub : Nat) (raw : Val) (s : State) : Host.Outcome State Fault Refusal :=
  s.upd (fun d => (d.write p (dkey 0x4101 sub) (leBytes 8 raw.toNat) false false).close)

/-- PRESS_ENTRY (R315). -/
def execPressEntry (s : State) : Host.Outcome State Fault Refusal := s.upd (fun d => (pressEntry d).close)

/-- TARGET_STAGE_PROOF (R318). -/
def execTargetStageProof (p : Path) (s : State) : Host.Outcome State Fault Refusal :=
  s.upd (fun d => (d.writeVal p 0x2000_02 2).close)

/-- TARGET_STAGE_PRESS (R320). -/
def execTargetStagePress (p : Path) (s : State) : Host.Outcome State Fault Refusal :=
  s.upd (fun d => (d.writeVal p 0x2000_02 3).close)

/-- RECOVERY_IMAGE_WRITE (R405). -/
def execRecoveryImageWrite (p : Path) (offset : Nat) (bytes : List Byte) (last : Option ContainerIn) (s : State) : Host.Outcome State Fault Refusal :=
  s.updNv (recoveryImageWrite p offset bytes last)

/-- FUNCTION_START_COMPLETE (R308). -/
def execFunctionStartComplete (fn : StartFn) (s : State) : Host.Outcome State Fault Refusal :=
  s.upd (fun d => (functionStart fn d).close)

/-- FRAME_START (R36). -/
def execFrameStart (temps : TempsIn) (s : State) : Host.Outcome State Fault Refusal := s.upd (frameBegins temps)

/-- SLOT_START (R111). -/
def execSlotStart (core : Fin 96) (slot : Nat) (scrub : ScrubIn) (s : State) : Host.Outcome State Fault Refusal :=
  s.upd (slotStart core slot scrub)

/-- FORME_COMMIT (R285). -/
def execFormeCommit (id : Nat) (res : CommitIn) (s : State) : Host.Outcome State Fault Refusal :=
  s.upd (fun d => (formeCommit id res d).close)

/-- THERMAL_POINT_UP (R298). -/
def execThermalPointUp (s : State) : Host.Outcome State Fault Refusal := s.upd thermalPointUp

/-- THERMAL_POINT_DOWN (R298). -/
def execThermalPointDown (s : State) : Host.Outcome State Fault Refusal := s.upd thermalPointDown

/-- POWER_POINT_UP (R298). -/
def execPowerPointUp (s : State) : Host.Outcome State Fault Refusal := s.upd powerPointUp

/-- POWER_POINT_DOWN (R298). -/
def execPowerPointDown (s : State) : Host.Outcome State Fault Refusal := s.upd powerPointDown

/-- PROTECTIVE_STEP_RELEASE (R299). -/
def execProtectiveStepRelease (s : State) : Host.Outcome State Fault Refusal := s.upd protectiveStepRelease

/-- PMBUS_POLL (R425). -/
def execPmbusPoll (rails : List RailRead) (temps : TempsIn) (s : State) : Host.Outcome State Fault Refusal :=
  s.upd (pmbusPoll rails temps)

/-- PMBUS_ALERT (R425). -/
def execPmbusAlert (rails : List RailRead) (s : State) : Host.Outcome State Fault Refusal := s.upd (pmbusAlert rails)

/-- SENSOR_CALIBRATION (R296). -/
def execSensorCalibration (die : Fin 8) (s : State) : Host.Outcome State Fault Refusal :=
  s.upd (sensorCalibration die.val)

/-- BACKGROUND_TICK (R296). -/
def execBackgroundTick (scrub : ScrubIn) (temps : TempsIn) (s : State) : Host.Outcome State Fault Refusal :=
  s.upd (tick scrub temps)

/-- FREQ_REQUEST (R41). -/
def execFreqRequest (p : Path) (v : Nat) (s : State) : Host.Outcome State Fault Refusal :=
  s.upd (fun d => d.writeVal p 0x2201_01 v)

/-- ACTIVATE_AREA (R126). -/
def execActivateArea (p : Path) (v : Nat) (testPass : Bool) (s : State) : Host.Outcome State Fault Refusal :=
  s.upd (fun d => (d.write p 0x2503_01 (valueBytes 0x2503_01 v) false testPass).close)

/-- CLEAR_SUSPECT (R125). -/
def execClearSuspect (p : Path) (v : Nat) (s : State) : Host.Outcome State Fault Refusal :=
  s.upd (fun d => (d.writeVal p 0x2505_04 v).close)

end Sys2Proof.Machine
end

