-- ==== Sys2Proof/Machine/ExecSystem.lean ====
section
/-! DEFINITION. The meaning of each command of loads, firmware, identity and test. -/

namespace Sys2Proof.Machine

/-- LOAD_MANIFEST_RECEIVED (R396). -/
def execLoadManifestReceived (target : Nat) (c : ContainerIn) (s : State) : Host.Outcome State Fault Refusal :=
  s.updNv (fun d => (loadManifestReceived target c d).close)

/-- LOAD_COMPLETE (R396). -/
def execLoadComplete (target : Nat) (c : ContainerIn) (s : State) : Host.Outcome State Fault Refusal :=
  s.updNv (fun d => (loadComplete target c d).close)

/-- FW_SLOT_WRITTEN (R401). -/
def execFwSlotWritten (ok : Bool) (s : State) : Host.Outcome State Fault Refusal :=
  s.updNv (fun d => (fwSlotWritten ok d).close)

/-- FW_ACTIVATE (R402). -/
def execFwActivate (p : Path) (v : Nat) (s : State) : Host.Outcome State Fault Refusal :=
  s.updNv (fun d => d.writeVal p 0x4402_01 v)

/-- CONFIRM (R403). -/
def execConfirm (p : Path) (v : Nat) (s : State) : Host.Outcome State Fault Refusal :=
  s.updNv (fun d => d.writeVal p 0x4402_02 v)

/-- TRIAL_TIMEOUT (R403). -/
def execTrialTimeout (s : State) : Host.Outcome State Fault Refusal := s.upd trialTimeout

/-- ATTEST_REQUEST (R406). -/
def execAttestRequest (p : Path) (v : Nat) (s : State) : Host.Outcome State Fault Refusal :=
  s.upd (fun d => d.writeVal p 0x4405_02 v)

/-- TOKEN_WRITE: the field map of Table 20-11 and the signature over it, written one after the other (R407). -/
def execTokenWrite (p : Path) (token signature : List Byte) (s : State) : Host.Outcome State Fault Refusal :=
  s.upd (fun d => d.write p 0x4406_02 (token ++ signature) (d.tokenSigned (token ++ signature)) false)

/-- DEBUG_GRANT_EXPIRY (R407). -/
def execDebugGrantExpiry (s : State) : Host.Outcome State Fault Refusal := s.upd debugGrantExpiry

/-- DEBUG_LOCK (R407). -/
def execDebugLock (p : Path) (v : Nat) (s : State) : Host.Outcome State Fault Refusal :=
  s.upd (fun d => d.writeVal p 0x4406_05 v)

/-- OWNER_KEY_PROGRAM (R409). -/
def execOwnerKeyProgram (p : Path) (bytes : List Byte) (s : State) : Host.Outcome State Fault Refusal :=
  s.updNv (fun d => d.write p 0x4407_09 bytes false false)

/-- OWNER_KEY_REVOKE (R409). -/
def execOwnerKeyRevoke (p : Path) (v : Nat) (s : State) : Host.Outcome State Fault Refusal :=
  s.updNv (fun d => d.writeVal p 0x4407_0A v)

/-- LOOPBACK_START (R412). -/
def execLoopbackStart (p : Path) (engine : Fin 4) (s : State) : Host.Outcome State Fault Refusal :=
  s.upd (fun d => (d.writeVal p (dkey (0x4610 + engine.val) 6) 1).close)

/-- LOOPBACK_LOCK (R414). -/
def execLoopbackLock (seen : LockIn) (s : State) : Host.Outcome State Fault Refusal := s.upd (loopbackLock seen)

/-- LOOPBACK_LOCK_TIMEOUT (R414). -/
def execLoopbackLockTimeout (engine : Fin 4) (s : State) : Host.Outcome State Fault Refusal :=
  s.upd (fun d => (loopbackLockTimeout engine.val d).close)

/-- LOOPBACK_DURATION_END (R415). -/
def execLoopbackDurationEnd (engine : Fin 4) (bits errors firstError : Nat) (s : State) : Host.Outcome State Fault Refusal :=
  s.upd (fun d => (loopbackDurationEnd engine.val bits errors firstError d).close)

/-- LOOPBACK_STOP (R415). -/
def execLoopbackStop (p : Path) (engine : Fin 4) (s : State) : Host.Outcome State Fault Refusal :=
  s.upd (fun d => (d.writeVal p (dkey (0x4610 + engine.val) 6) 0).close)

/-- PCIE_LOOPBACK_ENTRY (R412). -/
def execPcieLoopbackEntry (s : State) : Host.Outcome State Fault Refusal := s.upd pcieLoopbackEntry

/-- GALLEY_TEST_REQUEST (R417). -/
def execGalleyTestRequest (p : Path) (v : Nat) (s : State) : Host.Outcome State Fault Refusal :=
  s.upd (fun d => d.writeVal p 0x4600_01 v)

/-- JTAG_IDCODE (R418). -/
def execJtagIdcode (s : State) : Host.Outcome State Fault Refusal := s.upd jtagIdcode

/-- JTAG_SAMPLE_PRELOAD (R418). -/
def execJtagSamplePreload (s : State) : Host.Outcome State Fault Refusal := s.upd jtagSamplePreload

/-- JTAG_EXTEST (R419). -/
def execJtagExtest (s : State) : Host.Outcome State Fault Refusal := s.upd jtagExtest

/-- JTAG_CLAMP (R419). -/
def execJtagClamp (s : State) : Host.Outcome State Fault Refusal := s.upd jtagClamp

/-- JTAG_HIGHZ (R419). -/
def execJtagHighz (s : State) : Host.Outcome State Fault Refusal := s.upd jtagHighz

/-- JTAG_DEBUG_ACCESS (R408). -/
def execJtagDebugAccess (port : DebugPort) (s : State) : Host.Outcome State Fault Refusal :=
  s.upd (jtagDebugAccess port)

/-- JTAG_BYPASS (R418). -/
def execJtagBypass (s : State) : Host.Outcome State Fault Refusal := s.upd jtagBypass

end Sys2Proof.Machine
end

