-- ==== Sys2Proof/Machine/Dispatch.lean ====
section
/-! DEFINITION. The dispatcher: one arm per command. -/

namespace Sys2Proof.Machine

/-- What a command does to everything but the queue. -/
def exec (i : Instr) (s : State) : Host.Outcome State Fault Refusal :=
  match i with
  | .powerOnReset => Sys2Proof.Machine.execPowerOnReset s
  | .resetNAsserted => Sys2Proof.Machine.execResetNAsserted s
  | .managementWatchdog => Sys2Proof.Machine.execManagementWatchdog s
  | .resetRequest p v => Sys2Proof.Machine.execResetRequest p v s
  | .fieldNetworkReset => Sys2Proof.Machine.execFieldNetworkReset s
  | .referenceClockLoss => Sys2Proof.Machine.execReferenceClockLoss s
  | .perstN asserted => Sys2Proof.Machine.execPerstN asserted s
  | .functionLevelReset => Sys2Proof.Machine.execFunctionLevelReset s
  | .pcieLinkChange up gen width => Sys2Proof.Machine.execPcieLinkChange up gen width s
  | .busMasterEnable on => Sys2Proof.Machine.execBusMasterEnable on s
  | .resetRelease tmode => Sys2Proof.Machine.execResetRelease tmode s
  | .chaseEntry => Sys2Proof.Machine.execChaseEntry s
  | .proofEntry spd => Sys2Proof.Machine.execProofEntry spd s
  | .galleyTestDone die fail => Sys2Proof.Machine.execGalleyTestDone die fail s
  | .ddrTrainingDone ch ok => Sys2Proof.Machine.execDdrTrainingDone ch ok s
  | .ddrMemoryTestDone ch ok corrected => Sys2Proof.Machine.execDdrMemoryTestDone ch ok corrected s
  | .ddrLayoutSizeWrite p sub raw => Sys2Proof.Machine.execDdrLayoutSizeWrite p sub raw s
  | .pressEntry => Sys2Proof.Machine.execPressEntry s
  | .targetStageProof p => Sys2Proof.Machine.execTargetStageProof p s
  | .targetStagePress p => Sys2Proof.Machine.execTargetStagePress p s
  | .recoveryImageWrite p offset bytes last => Sys2Proof.Machine.execRecoveryImageWrite p offset bytes last s
  | .frameStart temps => Sys2Proof.Machine.execFrameStart temps s
  | .slotStart core slot scrub => Sys2Proof.Machine.execSlotStart core slot scrub s
  | .formeCommit id res => Sys2Proof.Machine.execFormeCommit id res s
  | .loopBegin a level count endBundle => Sys2Proof.Machine.execLoopBegin a level count endBundle s
  | .loopEnd a level => Sys2Proof.Machine.execLoopEnd a level s
  | .waitCycle a count => Sys2Proof.Machine.execWaitCycle a count s
  | .endOp a => Sys2Proof.Machine.execEndOp a s
  | .replayPoint a => Sys2Proof.Machine.execReplayPoint a s
  | .expectFill a slot epoch => Sys2Proof.Machine.execExpectFill a slot epoch s
  | .expectDrain a slot epoch => Sys2Proof.Machine.execExpectDrain a slot epoch s
  | .filled a slot epoch => Sys2Proof.Machine.execFilled a slot epoch s
  | .drained a slot epoch => Sys2Proof.Machine.execDrained a slot epoch s
  | .checkTag a tag => Sys2Proof.Machine.execCheckTag a tag s
  | .release a slot => Sys2Proof.Machine.execRelease a slot s
  | .mac a row fmt sidx src => Sys2Proof.Machine.execMac a row fmt sidx src s
  | .macInit a row fmt sidx src => Sys2Proof.Machine.execMacInit a row fmt sidx src s
  | .loadTile a fmt word addr => Sys2Proof.Machine.execLoadTile a fmt word addr s
  | .loadScale a addr => Sys2Proof.Machine.execLoadScale a addr s
  | .swap a => Sys2Proof.Machine.execSwap a s
  | .drain a row vd => Sys2Proof.Machine.execDrain a row vd s
  | .drainClear a row vd => Sys2Proof.Machine.execDrainClear a row vd s
  | .add a vd va vb => Sys2Proof.Machine.execAdd a vd va vb s
  | .sub a vd va vb => Sys2Proof.Machine.execSub a vd va vb s
  | .mul a vd va vb => Sys2Proof.Machine.execMul a vd va vb s
  | .fma a vd va vb vc => Sys2Proof.Machine.execFma a vd va vb vc s
  | .max a vd va vb => Sys2Proof.Machine.execMax a vd va vb s
  | .min a vd va vb => Sys2Proof.Machine.execMin a vd va vb s
  | .movi a vd imm => Sys2Proof.Machine.execMovi a vd imm s
  | .scale a vd va imm => Sys2Proof.Machine.execScale a vd va imm s
  | .exp a vd va => Sys2Proof.Machine.execExp a vd va s
  | .rcp a vd va => Sys2Proof.Machine.execRcp a vd va s
  | .rsqrt a vd va => Sys2Proof.Machine.execRsqrt a vd va s
  | .scorr a vd va vb => Sys2Proof.Machine.execScorr a vd va vb s
  | .rsum a vd va => Sys2Proof.Machine.execRsum a vd va s
  | .rmax a vd va => Sys2Proof.Machine.execRmax a vd va s
  | .cvt a vd va fmt rnd imm => Sys2Proof.Machine.execCvt a vd va fmt rnd imm s
  | .mseRange a vd va vb fmt split first zp slot => Sys2Proof.Machine.execMseRange a vd va vb fmt split first zp slot s
  | .mseError a vd va vb fmt split first zp slot => Sys2Proof.Machine.execMseError a vd va vb fmt split first zp slot s
  | .vectorLoad a reg addr => Sys2Proof.Machine.execVectorLoad a reg addr s
  | .vectorStore a reg addr => Sys2Proof.Machine.execVectorStore a reg addr s
  | .storeConvert a reg addr fmt rnd imm => Sys2Proof.Machine.execStoreConvert a reg addr fmt rnd imm s
  | .lineLoad a y x addr => Sys2Proof.Machine.execLineLoad a y x addr s
  | .shift a h w st => Sys2Proof.Machine.execShift a h w st s
  | .emitTap a y x row init => Sys2Proof.Machine.execEmitTap a y x row init s
  | .poolMax a y x h w dil vd => Sys2Proof.Machine.execPoolMax a y x h w dil vd s
  | .poolAvg a y x h w dil vd => Sys2Proof.Machine.execPoolAvg a y x h w dil vd s
  | .galleyCopy a desc tag => Sys2Proof.Machine.execGalleyCopy a desc tag s
  | .galleyFill a desc tag => Sys2Proof.Machine.execGalleyFill a desc tag s
  | .ddrRead a desc tag => Sys2Proof.Machine.execDdrRead a desc tag s
  | .ddrWrite a desc tag => Sys2Proof.Machine.execDdrWrite a desc tag s
  | .slugWalkGather a desc tag => Sys2Proof.Machine.execSlugWalkGather a desc tag s
  | .slugWalkAppend a desc tag => Sys2Proof.Machine.execSlugWalkAppend a desc tag s
  | .slugWalkSealRead a desc tag => Sys2Proof.Machine.execSlugWalkSealRead a desc tag s
  | .slugWalkSealWrite a desc tag => Sys2Proof.Machine.execSlugWalkSealWrite a desc tag s
  | .remoteWrite a desc tag => Sys2Proof.Machine.execRemoteWrite a desc tag s
  | .loadStreamScaleTable a desc tag => Sys2Proof.Machine.execLoadStreamScaleTable a desc tag s
  | .transferComplete core tag how => Sys2Proof.Machine.execTransferComplete core tag how s
  | .galleyReadLanding a addr fetch how restore => Sys2Proof.Machine.execGalleyReadLanding a addr fetch how restore s
  | .stepReplay core => Sys2Proof.Machine.execStepReplay core s
  | .supplyDroop core need => Sys2Proof.Machine.execSupplyDroop core need s
  | .supplyProtectiveStop core => Sys2Proof.Machine.execSupplyProtectiveStop core s
  | .linkCrcError hop forme => Sys2Proof.Machine.execLinkCrcError hop forme s
  | .lineStep ax => Sys2Proof.Machine.execLineStep ax s
  | .axisResume ax => Sys2Proof.Machine.execAxisResume ax s
  | .stallEvent ax => Sys2Proof.Machine.execStallEvent ax s
  | .sensorEdge ds level => Sys2Proof.Machine.execSensorEdge ds level s
  | .reservationResume ax => Sys2Proof.Machine.execReservationResume ax s
  | .jam ax => Sys2Proof.Machine.execJam ax s
  | .longDocumentJam ax => Sys2Proof.Machine.execLongDocumentJam ax s
  | .driverFault ax => Sys2Proof.Machine.execDriverFault ax s
  | .driverFaultRelease ax => Sys2Proof.Machine.execDriverFaultRelease ax s
  | .fieldTimeout ax => Sys2Proof.Machine.execFieldTimeout ax s
  | .axisEnable p ax => Sys2Proof.Machine.execAxisEnable p ax s
  | .axisDisable p ax => Sys2Proof.Machine.execAxisDisable p ax s
  | .clearSafe p ax v => Sys2Proof.Machine.execClearSafe p ax v s
  | .go p ax v => Sys2Proof.Machine.execGo p ax v s
  | .freeAxisPulse ax => Sys2Proof.Machine.execFreeAxisPulse ax s
  | .scanLineComplete ch line => Sys2Proof.Machine.execScanLineComplete ch line s
  | .pageTruncated ch => Sys2Proof.Machine.execPageTruncated ch s
  | .channelEnable p ch => Sys2Proof.Machine.execChannelEnable p ch s
  | .channelDisable p ch => Sys2Proof.Machine.execChannelDisable p ch s
  | .refStore p ch v => Sys2Proof.Machine.execRefStore p ch v s
  | .geometryFormeRun unit => Sys2Proof.Machine.execGeometryFormeRun unit s
  | .slugMigrate slug way => Sys2Proof.Machine.execSlugMigrate slug way s
  | .textRowProcess row => Sys2Proof.Machine.execTextRowProcess row s
  | .decodeCutoff seq => Sys2Proof.Machine.execDecodeCutoff seq s
  | .layoutCutoff ring seq => Sys2Proof.Machine.execLayoutCutoff ring seq s
  | .structuringCutoff ring seq => Sys2Proof.Machine.execStructuringCutoff ring seq s
  | .fountUnload p slot v => Sys2Proof.Machine.execFountUnload p slot v s
  | .grammarUnload p slot v => Sys2Proof.Machine.execGrammarUnload p slot v s
  | .textClearCounters p v => Sys2Proof.Machine.execTextClearCounters p v s
  | .imageDecodeStart img => Sys2Proof.Machine.execImageDecodeStart img s
  | .imageDecodeComplete engine => Sys2Proof.Machine.execImageDecodeComplete engine s
  | .decodeDeferred engine => Sys2Proof.Machine.execDecodeDeferred engine s
  | .decodeAbandoned engine => Sys2Proof.Machine.execDecodeAbandoned engine s
  | .adaptRunStart p => Sys2Proof.Machine.execAdaptRunStart p s
  | .adaptRunStop p => Sys2Proof.Machine.execAdaptRunStop p s
  | .adaptBatchBuild times => Sys2Proof.Machine.execAdaptBatchBuild times s
  | .publish p v => Sys2Proof.Machine.execPublish p v s
  | .thermalPointUp => Sys2Proof.Machine.execThermalPointUp s
  | .thermalPointDown => Sys2Proof.Machine.execThermalPointDown s
  | .powerPointUp => Sys2Proof.Machine.execPowerPointUp s
  | .powerPointDown => Sys2Proof.Machine.execPowerPointDown s
  | .protectiveStepRelease => Sys2Proof.Machine.execProtectiveStepRelease s
  | .pmbusPoll rails temps => Sys2Proof.Machine.execPmbusPoll rails temps s
  | .pmbusAlert rails => Sys2Proof.Machine.execPmbusAlert rails s
  | .sensorCalibration die => Sys2Proof.Machine.execSensorCalibration die s
  | .backgroundTick scrub temps => Sys2Proof.Machine.execBackgroundTick scrub temps s
  | .freqRequest p v => Sys2Proof.Machine.execFreqRequest p v s
  | .activateArea p v testPass => Sys2Proof.Machine.execActivateArea p v testPass s
  | .clearSuspect p v => Sys2Proof.Machine.execClearSuspect p v s
  | .coreCounterClear p sub v => Sys2Proof.Machine.execCoreCounterClear p sub v s
  | .statSlotClear p slot v => Sys2Proof.Machine.execStatSlotClear p slot v s
  | .dictionaryWrite p index sub bytes => Sys2Proof.Machine.execDictionaryWrite p index sub bytes s
  | .sdoTransferTimeout p index sub => Sys2Proof.Machine.execSdoTransferTimeout p index sub s
  | .mailboxRead header => Sys2Proof.Machine.execMailboxRead header s
  | .mailboxWrite header bytes => Sys2Proof.Machine.execMailboxWrite header bytes s
  | .describeSelect p v => Sys2Proof.Machine.execDescribeSelect p v s
  | .paramStoreSave p sub v => Sys2Proof.Machine.execParamStoreSave p sub v s
  | .paramStoreDone ok => Sys2Proof.Machine.execParamStoreDone ok s
  | .paramStoreRestore p sub v => Sys2Proof.Machine.execParamStoreRestore p sub v s
  | .paramStoreCompact p v => Sys2Proof.Machine.execParamStoreCompact p v s
  | .paramStoreWearLevel => Sys2Proof.Machine.execParamStoreWearLevel s
  | .errorHistoryClear p v => Sys2Proof.Machine.execErrorHistoryClear p v s
  | .rxpdoReceived p bytes => Sys2Proof.Machine.execRxpdoReceived p bytes s
  | .pdoCycle trigger => Sys2Proof.Machine.execPdoCycle trigger s
  | .emcyInhibitExpiry => Sys2Proof.Machine.execEmcyInhibitExpiry s
  | .heartbeat => Sys2Proof.Machine.execHeartbeat s
  | .nmtResetCommunication => Sys2Proof.Machine.execNmtResetCommunication s
  | .nmtStateCommand cmd => Sys2Proof.Machine.execNmtStateCommand cmd s
  | .ecatStateRequest state => Sys2Proof.Machine.execEcatStateRequest state s
  | .foeWrite name => Sys2Proof.Machine.execFoeWrite name s
  | .hostPoll poll => Sys2Proof.Machine.execHostPoll poll s
  | .jobImage list mesh => Sys2Proof.Machine.execJobImage list mesh s
  | .jobTokenise list text => Sys2Proof.Machine.execJobTokenise list text s
  | .jobSample list img text => Sys2Proof.Machine.execJobSample list img text s
  | .jobTemplateBuild list text => Sys2Proof.Machine.execJobTemplateBuild list text s
  | .jobTemplateImport list text => Sys2Proof.Machine.execJobTemplateImport list text s
  | .jobTemplateClear list => Sys2Proof.Machine.execJobTemplateClear list s
  | .jobRequests list table => Sys2Proof.Machine.execJobRequests list table s
  | .jobLoad list => Sys2Proof.Machine.execJobLoad list s
  | .hostReadRetry what fail => Sys2Proof.Machine.execHostReadRetry what fail s
  | .msixHoldoffExpiry src => Sys2Proof.Machine.execMsixHoldoffExpiry src s
  | .msixUnmask vector => Sys2Proof.Machine.execMsixUnmask vector s
  | .ringEnable p ring => Sys2Proof.Machine.execRingEnable p ring s
  | .jobListEnable p list => Sys2Proof.Machine.execJobListEnable p list s
  | .passthroughDrain ch => Sys2Proof.Machine.execPassthroughDrain ch s
  | .bar2Read offset read => Sys2Proof.Machine.execBar2Read offset read s
  | .bar2Write offset bytes => Sys2Proof.Machine.execBar2Write offset bytes s
  | .fabricEnable p => Sys2Proof.Machine.execFabricEnable p s
  | .fabricPortAligned port neighbour sizeX sizeY facing => Sys2Proof.Machine.execFabricPortAligned port neighbour sizeX sizeY facing s
  | .fabricRetrain port => Sys2Proof.Machine.execFabricRetrain port s
  | .fabricAlignmentLost port => Sys2Proof.Machine.execFabricAlignmentLost port s
  | .fabricLinkSilent port => Sys2Proof.Machine.execFabricLinkSilent port s
  | .fabricLinkReceived port pk => Sys2Proof.Machine.execFabricLinkReceived port pk s
  | .fabricPacketForward port pk => Sys2Proof.Machine.execFabricPacketForward port pk s
  | .fabricWriteReceived port pk => Sys2Proof.Machine.execFabricWriteReceived port pk s
  | .fabricWriteRespReceived port pk => Sys2Proof.Machine.execFabricWriteRespReceived port pk s
  | .fabricGrantReceived port pk => Sys2Proof.Machine.execFabricGrantReceived port pk s
  | .fabricCloseReceived port pk => Sys2Proof.Machine.execFabricCloseReceived port pk s
  | .fabricMgmtRespReceived port pk => Sys2Proof.Machine.execFabricMgmtRespReceived port pk s
  | .fabricAdapterReqReceived port pk => Sys2Proof.Machine.execFabricAdapterReqReceived port pk s
  | .fabricAdapterDataReceived port pk => Sys2Proof.Machine.execFabricAdapterDataReceived port pk s
  | .fabricRespTimeout tag => Sys2Proof.Machine.execFabricRespTimeout tag s
  | .windowDeadline window => Sys2Proof.Machine.execWindowDeadline window s
  | .adapterImportFrom p dev => Sys2Proof.Machine.execAdapterImportFrom p dev s
  | .loadManifestReceived target c => Sys2Proof.Machine.execLoadManifestReceived target c s
  | .loadComplete target c => Sys2Proof.Machine.execLoadComplete target c s
  | .fwSlotWritten ok => Sys2Proof.Machine.execFwSlotWritten ok s
  | .fwActivate p v => Sys2Proof.Machine.execFwActivate p v s
  | .confirm p v => Sys2Proof.Machine.execConfirm p v s
  | .trialTimeout => Sys2Proof.Machine.execTrialTimeout s
  | .attestRequest p v => Sys2Proof.Machine.execAttestRequest p v s
  | .tokenWrite p token signature => Sys2Proof.Machine.execTokenWrite p token signature s
  | .debugGrantExpiry => Sys2Proof.Machine.execDebugGrantExpiry s
  | .debugLock p v => Sys2Proof.Machine.execDebugLock p v s
  | .ownerKeyProgram p bytes => Sys2Proof.Machine.execOwnerKeyProgram p bytes s
  | .ownerKeyRevoke p v => Sys2Proof.Machine.execOwnerKeyRevoke p v s
  | .loopbackStart p engine => Sys2Proof.Machine.execLoopbackStart p engine s
  | .loopbackLock seen => Sys2Proof.Machine.execLoopbackLock seen s
  | .loopbackLockTimeout engine => Sys2Proof.Machine.execLoopbackLockTimeout engine s
  | .loopbackDurationEnd engine bits errors firstError => Sys2Proof.Machine.execLoopbackDurationEnd engine bits errors firstError s
  | .loopbackStop p engine => Sys2Proof.Machine.execLoopbackStop p engine s
  | .pcieLoopbackEntry => Sys2Proof.Machine.execPcieLoopbackEntry s
  | .galleyTestRequest p v => Sys2Proof.Machine.execGalleyTestRequest p v s
  | .jtagIdcode => Sys2Proof.Machine.execJtagIdcode s
  | .jtagSamplePreload => Sys2Proof.Machine.execJtagSamplePreload s
  | .jtagExtest => Sys2Proof.Machine.execJtagExtest s
  | .jtagClamp => Sys2Proof.Machine.execJtagClamp s
  | .jtagHighz => Sys2Proof.Machine.execJtagHighz s
  | .jtagDebugAccess port => Sys2Proof.Machine.execJtagDebugAccess port s
  | .jtagBypass => Sys2Proof.Machine.execJtagBypass s
  | .functionStartComplete fn => Sys2Proof.Machine.execFunctionStartComplete fn s
  | .compactionComplete => Sys2Proof.Machine.execCompactionComplete s
  | .hostReadCompletion what fail => Sys2Proof.Machine.execHostReadCompletion what fail s
  | .fabricCrcMismatch port => Sys2Proof.Machine.execFabricCrcMismatch port s
  | .sampleDecodeOverBudget => Sys2Proof.Machine.execSampleDecodeOverBudget s

end Sys2Proof.Machine
end

