-- ==== Sys2Proof/Safety.lean ====
section
/-! DEFINITION. What counts as a safe run, and the words in which the statements about the machine are put. -/

namespace Sys2Proof.Machine

/-- The step goes on: neither a fault nor a refusal. -/
def State.goesOn (s : State) : Prop := ∃ t, step s = .next t

/-- The canonical form of local space: addresses rising, no byte listed that reads so unlisted. -/
def Memory.wf (m : List Host.Cell) : Bool := memWf m

/-- A core reaches an operation's cycle: it runs, it is not frozen, and no result due by the cycle stops it; x is the core as
the operation finds it (R46, R61). -/
abbrev Dev.reaches (d : Dev) (a : At) (x : CoreSt) : Prop :=
  (d.core a.core).running = true ∧ (d.core a.core).frozen = false ∧
    ∃ y, (d.coreAt a.core a.cycle).until_ a.cycle = (y, 0) ∧ x = { y with cycle := a.cycle, bundle := a.bundle }

/-- A landing finds a core that runs and is not frozen, with every result due before its cycle (R48, R61). -/
abbrev Dev.lands (d : Dev) (a : At) (x : CoreSt) : Prop :=
  (d.core a.core).running = true ∧ (d.core a.core).frozen = false ∧
    ∃ y, (d.coreAt a.core a.cycle).before_ a.cycle = (y, 0) ∧ x = { y with cycle := a.cycle, bundle := a.bundle }

/-- An operation issues (R60): d is the device as it finds it, with what the core's data engine does by the cycle done
(Table 3-3), and x the core. -/
abbrev State.issues (s : State) (a : At) (d : Dev) (x : CoreSt) : Prop :=
  s.dev.engineTo a.core a.cycle = d ∧ (d.core a.core).ended = false ∧ d.reaches a x

/-- A galley read of n bytes issues: the operation issues, and no EXPECT_FILL of a slot in the way names an epoch that has not
come (R62). -/
abbrev State.reads (s : State) (a : At) (addr n : Nat) (d : Dev) (x : CoreSt) : Prop :=
  s.issues a d x ∧ d.unfilled x (galleyAddr a.core addr) n = none

/-- The core with one more result of its bundle in flight. -/
def CoreSt.flying (x : CoreSt) (cycle : Nat) (act : CoreAct) : CoreSt :=
  { x with inFlight := insertEv ⟨cycle, act.phase, x.bundle, act⟩ x.inFlight }

/-- The next state in which the operation's core has changed, and nothing else of what the operation finds. -/
def State.withCore (s : State) (d : Dev) (a : At) (x : CoreSt) : Host.Outcome State Fault Refusal := s.after (d.setCore a.core x)

/-- The next state in which an operation's lanes are on their way to a vector register of its core, and their NaN and
infinite lanes have been counted (2403h); nothing else changes. -/
def State.result (s : State) (d : Dev) (a : At) (x : CoreSt) (lat : Nat) (vd : Fin 32) (r : List F32) :
    Host.Outcome State Fault Refusal :=
  s.after ((d.countLanes r).setCore a.core (x.flying (a.cycle + lat) (.vreg vd.val r)))

/-- The core with a launch of a descriptor, which lands L cycles on, and its transfer on its tag (R47, R56). -/
def CoreSt.launched (x : CoreSt) (op mode : Nat) (d : Dev) (a : At) (desc : Nat) (tag : Fin 128) : CoreSt :=
  let p := galleyAddr a.core desc
  let y := descOf (d.word p)
  { x with launches := x.launches ++ [⟨a.cycle + d.landing, false, a.bundle, p, d.word p, d.isPoisoned p, op, mode, tag.val, [], none, []⟩],
           tags := kvInsert x.tags tag.val ⟨op, d.word p, y.publish, y.pubSlot, y.pubEpoch, x.forme, x.plate, false, none⟩ }

/-- Commands that may write flash or burn a fuse (R327 to R329, R397 to R405, R409). -/
def writesNv : Instr → Bool
  | .resetRelease _ => true
  | .chaseEntry => true
  | .proofEntry _ => true
  | .recoveryImageWrite _ _ _ _ => true
  | .dictionaryWrite _ _ _ _ => true
  | .mailboxRead _ => true
  | .mailboxWrite _ _ => true
  | .paramStoreDone _ => true
  | .paramStoreRestore _ _ _ => true
  | .paramStoreWearLevel => true
  | .compactionComplete => true
  | .loadManifestReceived _ _ => true
  | .loadComplete _ _ => true
  | .fwSlotWritten _ => true
  | .fwActivate _ _ => true
  | .confirm _ _ => true
  | .ownerKeyProgram _ _ => true
  | .ownerKeyRevoke _ _ => true
  | _ => false

/-- The device after a full reset of a cause (R303): every unit in its reset state, RESET_CAUSE set; flash, fuses and pins as
they were, and what has left the part. -/
def Dev.afterReset (d : Dev) (cause : Nat) : Dev :=
  { Dev.inReset with od := [(0x2002_01, BitVec.ofNat 64 cause)], nv := d.nv, out := d.out, draws := d.draws,
                     axes := keepPins d.axes, host := { HostSt.init with perst := d.host.perst } }

/-- A write of a value to an entry passes the checks of Table 16-4 on a path. -/
abbrev Dev.passes (d : Dev) (p : Path) (key v : Nat) : Prop := d.run = .on ∧ d.serveCode p key (valueBytes key v) false = 0

/-- The next state in which a write's effect is followed by its consequences; flash and fuses stay as they are. -/
def State.closing (s : State) (d : Dev) : Host.Outcome State Fault Refusal := s.after (Dev.close { d with nv := s.dev.nv })

/-- A packet of a type for this device comes in by a port that is up, in LINK_SEQ order (R382). -/
abbrev Dev.inOrder (d : Dev) (port : Nat) (pk : PacketIn) (ty : Nat) : Prop :=
  d.portState port = 2 ∧ (hdrOf pk.header).seq = ((d.port port).lastRx + 1) % 4096 ∧ (hdrOf pk.header).ty = ty ∧
    (hdrOf pk.header).dest = d.here

/-- The port's side of a packet's arrival (R382): its number, the count, and its buffer slot. -/
def Dev.numbered (d : Dev) (port : Nat) (pk : PacketIn) : Dev :=
  (d.setPort port { d.port port with lastRx := (hdrOf pk.header).seq, dropping := false }).bump (dkey (portIx port) 9)

def Dev.arrived (d : Dev) (port : Nat) (pk : PacketIn) : Dev :=
  (d.numbered port pk).freeCredit (1 + 8 * port + 2 * (hdrOf pk.header).vc + (hdrOf pk.header).cls)

/-- Flash and fuses have not been turned back: no security version lowered, no key restored, no owner key changed. -/
def Nv.burnt (a b : Nv) : Prop :=
  a.minSv ≤ b.minSv ∧ a.plovantRevoked = b.plovantRevoked ∧
    (∀ i, a.ownerRevoked.testBit i = true → b.ownerRevoked.testBit i = true) ∧
    ∀ k, kvGet [] a.ownerKeys k ≠ [] → kvGet [] b.ownerKeys k = kvGet [] a.ownerKeys k

end Sys2Proof.Machine
end

