-- ==== Sys2Proof/Certificates/Slice0/Obligations.lean ====
section
/-! DEFINITION. The statements about the model, each with the rules of spec/ it formalises. -/

open Sys2Proof Sys2Proof.Machine

/-- O1. The command at the front of the queue is run on the rest of it. -/
def Obligations.StepRunsTheFront : Prop :=
  ∀ (c : Instr) (r : List Instr) (s : State), step { s with pending := c :: r } = exec c { s with pending := r }

/-- O2. On an empty queue the block idles: outside reset 40 ns of device time pass, in reset none, and nothing else changes
(R13, R304; the tick is the model's choice, log entry 31). -/
def Obligations.AnEmptyQueueIdles : Prop :=
  ∀ s : State, s.pending = [] →
    (s.dev.run = .held → step s = .next s) ∧
    (s.dev.run ≠ .held → step s = .next { s with dev := { s.dev with now := s.dev.now + 40 } })

/-- O3. Every step goes on, takes exactly the front of the queue, and leaves flash and fuses turned forward only: no security
version lowered, no key restored, no owner key overwritten (R403, R404, R409). From every state, reachable or not. -/
def Obligations.FusesOnlyBurn : Prop :=
  ∀ s : State, ∃ t, step s = .next t ∧ t.pending = s.pending.tail ∧ s.dev.nv.burnt t.dev.nv

/-- O4. Only the commands that R397 to R405, R327 to R329 and R409 let write flash or burn a fuse change either. -/
def Obligations.FlashIsOutOfReach : Prop :=
  ∀ (c : Instr) (s t : State), writesNv c = false → exec c s = .next t → t.dev.nv = s.dev.nv

/-- O5. R59: LOOP_BEGIN with COUNT 0 skips past LOOP_END; else its body begins at the next bundle with COUNT passes left;
LOOP_END goes back until the last pass is done. Only the issuing core changes, beside what its data engine does by then. -/
def Obligations.LoopsRun : Prop :=
  ∀ (s : State) (a : At) (d : Dev) (x : CoreSt) (level : Fin 4), s.issues a d x →
    (∀ e, exec (.loopBegin a level 0 e) s = s.withCore d a { x with bundle := e + 1 }) ∧
    (∀ n e, n ≠ 0 → exec (.loopBegin a level n e) s =
      s.withCore d a { x with loops := kvInsert x.loops level.val ⟨n, a.bundle + 1⟩, bundle := a.bundle + 1 }) ∧
    (∀ n b, kvGet ⟨0, 0⟩ x.loops level.val = ⟨n + 2, b⟩ → exec (.loopEnd a level) s =
      s.withCore d a { x with loops := kvInsert x.loops level.val ⟨n + 1, b⟩, bundle := b }) ∧
    (∀ n b, kvGet ⟨0, 0⟩ x.loops level.val = ⟨n, b⟩ → n ≤ 1 → exec (.loopEnd a level) s =
      s.withCore d a { x with loops := kvErase x.loops level.val, bundle := a.bundle + 1 })

/-- O6. R60: END idles the core until the next slot start, while what is in flight still lands; a slot start that comes before
END has issued stops the core with 0302h. WAIT_CYCLE issues no-ops until its cycle, and a replay point saves the loop
counters and takes the mark of a detection back, unless a replay begins at it (R61). A WAIT_CYCLE lets the words of a LOAD be
read in their cycles (R47). -/
def Obligations.SequencerMoves : Prop :=
  ∀ s : State,
    (∀ (a : At) (d : Dev) (x : CoreSt), s.issues a d x →
      (∀ y, x.flush = (y, 0) → exec (.endOp a) s = s.withCore d a { x with ended := true }) ∧
      (x.replaying = false → exec (.replayPoint a) s =
        s.withCore d a { x with replayLoops := x.loops, replayBundle := a.bundle, detected := false, replaying := false }) ∧
      (x.replaying = true → a.bundle = x.replayBundle → exec (.replayPoint a) s =
        s.withCore d a { x with replayLoops := x.loops, replayBundle := a.bundle, replaying := false })) ∧
    (∀ (a : At) (count : Nat) (d : Dev) (x y : CoreSt), (s.dev.core a.core).ended = false →
      s.dev.engineTo a.core (max a.cycle count) = d → (d.core a.core).ended = false → d.reaches a x →
      (x.catchUp d.word count).until_ count = (y, 0) →
      exec (.waitCycle a count) s = s.withCore d a { y with cycle := max a.cycle count, bundle := a.bundle + 1 }) ∧
    ∀ (c : Fin 96) (n : Nat) (e : SlotEntry) scrub, s.dev.inPress = true → (s.dev.slotList c.val)[n]? = some e →
      (s.dev.core c).running = true → (s.dev.core c).ended = false → exec (.slotStart c n scrub) s =
        s.after ((((s.dev.stopCore c (s.dev.core c) 0x0302).idleCore c).headerStart c e n).slotWork c.val e scrub)

/-- O7. STEP_REPLAY on a frozen core (R61, R290): it issues again from the replay point, with the loop counters saved there, and
the replay is counted; a core that a slot's occupancy header froze reads that header again. -/
def Obligations.ReplayReturnsToItsPoint : Prop :=
  ∀ (s : State) (c : Fin 96), (s.dev.core c).running = true → (s.dev.core c).frozen = true →
    ((s.dev.core c).header = none → exec (.stepReplay c) s = s.after ((s.dev.setCore c
      { s.dev.core c with frozen := false, replaying := true, loops := (s.dev.core c).replayLoops,
                          bundle := (s.dev.core c).replayBundle }).bump 0x2404_01)) ∧
    ∀ n e, (s.dev.core c).header = some n → (s.dev.slotList c.val)[n]? = some e → exec (.stepReplay c) s =
      s.after (((s.dev.setCore c { s.dev.core c with running := false, frozen := false, header := none }).bump
        0x2404_01).headerStart c e n true)

/-- O8. The scoreboard (R62, R63): EXPECT_FILL and EXPECT_DRAIN set the expected epoch modulo 65,536, RELEASE ends the check,
FILLED reaches every consumer's entry, once the transfers into the slot that its core launched before have written their words
(R63; the last of them takes the epoch along), and DRAINED the producer's, each with no further effect where its epoch has
been reached; CHECK_TAG passes over a tag with no transfer. -/
def Obligations.ScoreboardEpochs : Prop :=
  ∀ (s : State) (a : At) (d : Dev) (x : CoreSt) (slot : Fin 512) (epoch : Nat), s.issues a d x →
    exec (.expectFill a slot epoch) s =
      s.withCore d a (x.setSb slot.val { x.sbEntry slot.val with expectFill := some (epoch % 65536) }) ∧
    exec (.expectDrain a slot epoch) s =
      s.withCore d a (x.setSb slot.val { x.sbEntry slot.val with expectDrain := some (epoch % 65536) }) ∧
    exec (.release a slot) s = s.withCore d a (x.setSb slot.val { x.sbEntry slot.val with expectFill := none }) ∧
    (∀ e, d.sbSlot slot.val = some e →
      (x.launches.any (·.writesTo e) = false →
        exec (.filled a slot epoch) s = s.after ((d.setCore a.core x).each e.consumers (fun d n =>
          d.atCore n (fun y => y.setSb slot.val (if reached (y.sbEntry slot.val).fill epoch then y.sbEntry slot.val
            else { y.sbEntry slot.val with fill := epoch % 65536 }))))) ∧
      (x.launches.any (·.writesTo e) = true →
        exec (.filled a slot epoch) s = s.withCore d a { x with launches := fillWith e (slot.val, epoch) x.launches }) ∧
      exec (.drained a slot epoch) s = s.after ((d.setCore a.core x).atCore e.producer (fun y =>
        y.setSb slot.val (if (y.sbEntry slot.val).drainedBy a.core.val epoch then y.sbEntry slot.val
          else { y.sbEntry slot.val with
            drained := kvInsert (y.sbEntry slot.val).drained a.core.val (epoch % 65536) })))) ∧
    (∀ tag : Fin 128, (∀ t ∈ x.tags, t.1 ≠ tag.val) → exec (.checkTag a tag) s = s.withCore d a x)

/-- O9. What stops a core stops its forme (R49, R57, R62): two results due to one destination in one cycle stop it in that
cycle with 0304h, whatever is to issue; a running tag is 0307h, a read that issues while a fill epoch is not the expected one
0305h. -/
def Obligations.ViolationsStopTheCore : Prop :=
  ∀ (s : State) (a : At) (d : Dev) (x : CoreSt),
    (∀ e f r, s.dev.engineTo a.core a.cycle = d → (d.core a.core).running = true → (d.core a.core).frozen = false →
      (d.core a.core).ended = false → (d.core a.core).inFlight = e :: r → (e.cycle < a.cycle ∨ (e.cycle = a.cycle ∧ e.phase < 1)) →
      (d.core a.core).loads = [] → twinOf e r = some f → ∀ c, (c = .swap a ∨ c = .endOp a ∨ ∃ row vd, c = .drain a row vd) →
      exec c s = s.after (d.stopCore a.core { d.core a.core with cycle := a.cycle, bundle := f.bundle } 0x0304)) ∧
    (s.issues a d x → ∀ (tag : Fin 128) (t : Xfer), (tag.val, t) ∈ x.tags →
      exec (.checkTag a tag) s = s.after (d.stopCore a.core x 0x0307)) ∧
    (s.issues a d x → ∀ (row : Fin 32) (r : Fin 32) (y c : Fin 15) fmt (i : Fin 32) (w : Fin 64) addr desc (tag : Fin 128) n,
      (d.unfilled x (galleyAddr a.core addr) (rowBytes fmt) = some n →
        exec (.mac a row fmt i (.galley addr)) s = s.after (d.stopCore a.core x 0x0305 (some n)) ∧
        exec (.macInit a row fmt i (.galley addr)) s = s.after (d.stopCore a.core x 0x0305 (some n))) ∧
      (d.unfilled x (galleyAddr a.core addr) 256 = some n →
        exec (.vectorLoad a r addr) s = s.after (d.stopCore a.core x 0x0305 (some n))) ∧
      (d.unfilled x (galleyAddr a.core addr) 64 = some n →
        exec (.lineLoad a y c addr) s = s.after (d.stopCore a.core x 0x0305 (some n)) ∧
        exec (.loadTile a fmt w addr) s = s.after (d.stopCore a.core x 0x0305 (some n)) ∧
        exec (.loadScale a addr) s = s.after (d.stopCore a.core x 0x0305 (some n))) ∧
      (d.unfilled x (galleyAddr a.core desc) 64 = some n →
        exec (.galleyCopy a desc tag) s = s.after (d.stopCore a.core x 0x0305 (some n))))

/-- O10. The matrix engine (R49, R50, R51, R67, R68, Table 3-3): each operation puts one result in flight with its latency: a
streamed row lands L cycles on, a tile word and a scale word L cycles on, SWAP at the end of its cycle, DRAIN 4 cycles on
with the row as it stands; DRAIN_CLEAR also clears it. A row streamed from a tap is put in flight by its EMIT_TAP. What reads
galley does so where no unexpected epoch stands (R62). -/
def Obligations.MatrixOperations : Prop :=
  ∀ (s : State) (a : At) (d : Dev) (x : CoreSt) (row vd : Fin 32), s.issues a d x →
    (∀ fmt (i : Fin 32) addr,
      (d.unfilled x (galleyAddr a.core addr) (rowBytes fmt) = none →
        exec (.mac a row fmt i (.galley addr)) s = s.withCore d a
          (x.flying (a.cycle + d.landing) (.mulRow row.val false fmt i.val (d.word (galleyAddr a.core addr)))) ∧
        exec (.macInit a row fmt i (.galley addr)) s = s.withCore d a
          (x.flying (a.cycle + d.landing) (.mulRow row.val true fmt i.val (d.word (galleyAddr a.core addr))))) ∧
      exec (.mac a row fmt i .tap) s = s.withCore d a x ∧ exec (.macInit a row fmt i .tap) s = s.withCore d a x) ∧
    (∀ fmt (w : Fin 64) addr, d.unfilled x (galleyAddr a.core addr) 64 = none →
      exec (.loadTile a fmt w addr) s = s.withCore d a
        (x.flying (a.cycle + d.landing) (.tileWord fmt w.val (d.word (galleyAddr a.core addr)))) ∧
      exec (.loadScale a addr) s = s.withCore d a
        (x.flying (a.cycle + d.landing) (.tileScale (d.word (galleyAddr a.core addr))))) ∧
    exec (.swap a) s = s.withCore d a (x.flying a.cycle .swap) ∧
    exec (.drain a row vd) s = s.withCore d a (x.flying (a.cycle + 4) (.vreg vd.val (x.accRow row.val))) ∧
    exec (.drainClear a row vd) s =
      s.withCore d a ((x.setAcc row.val zeroLanes).flying (a.cycle + 4) (.vreg vd.val (x.accRow row.val)))

/-- O11. Vector arithmetic (R46, R52 to R55, R77, Table 3-3, Table 3-4): the result of each operation, lane by lane from the
source registers as the operation finds them, is on its way to VD with the operation's latency; its NaN and infinite lanes
are counted (when, is the model's choice, log entry 126); a NaN immediate of MOVI is the canonical NaN. Nothing else of
what the operation finds changes. -/
def Obligations.VectorArithmetic : Prop :=
  ∀ (s : State) (a : At) (d : Dev) (x : CoreSt) (vd va vb vc : Fin 32), s.issues a d x →
    exec (.add a vd va vb) s = s.result d a x 4 vd (List.zipWith fadd (x.vreg va) (x.vreg vb)) ∧
    exec (.sub a vd va vb) s = s.result d a x 4 vd (List.zipWith fsub (x.vreg va) (x.vreg vb)) ∧
    exec (.mul a vd va vb) s = s.result d a x 4 vd (List.zipWith fmul (x.vreg va) (x.vreg vb)) ∧
    exec (.max a vd va vb) s = s.result d a x 4 vd (List.zipWith fmax (x.vreg va) (x.vreg vb)) ∧
    exec (.min a vd va vb) s = s.result d a x 4 vd (List.zipWith fmin (x.vreg va) (x.vreg vb)) ∧
    exec (.fma a vd va vb vc) s = s.result d a x 4 vd
      (List.zipWith (fun p c => ffma p.1 p.2 c) ((x.vreg va).zip (x.vreg vb)) (x.vreg vc)) ∧
    (∀ w, exec (.movi a vd w) s =
      s.result d a x 4 vd (List.replicate 64 (if Num.of32 w = .nan then 0x7FC0_0000#32 else w))) ∧
    (∀ k : BitVec 32, exec (.scale a vd va k) s = s.result d a x 4 vd ((x.vreg va).map (fun w => fscale w k.toInt))) ∧
    exec (.exp a vd va) s = s.result d a x 8 vd ((x.vreg va).map fexp) ∧
    exec (.rcp a vd va) s = s.result d a x 8 vd ((x.vreg va).map frcp) ∧
    exec (.rsqrt a vd va) s = s.result d a x 8 vd ((x.vreg va).map frsqrt) ∧
    exec (.scorr a vd va vb) s = s.result d a x 8 vd (List.zipWith fscorr (x.vreg va) (x.vreg vb)) ∧
    exec (.rsum a vd va) s = s.result d a x 6 vd (rsumLanes (x.vreg va)) ∧
    exec (.rmax a vd va) s = s.result d a x 6 vd (rmaxLanes (x.vreg va))

/-- O12. CVT and the two modes of MSE (R72, R77, R84): CVT's result is the FP32 value of the converted code, 3 cycles on, and
rounding mode 2 counts its 64 stochastic conversions; MSE's lanes are on their way 6 cycles on, in error mode if every scale
lane is one of Table 4-2, else the core stops with 0311h. -/
def Obligations.ConversionsAndErrors : Prop :=
  ∀ (s : State) (a : At) (d : Dev) (x : CoreSt) (vd va vb : Fin 32), s.issues a d x →
    (∀ (fmt : Fin 6) (rnd : Fin 3) (imm : BitVec 32), exec (.cvt a vd va fmt rnd imm) s =
      s.result (if rnd = 2 then d.bumpBy 0x2440_03 64 else d) a x 3 vd
        ((convertLanes fmt.val rnd.val x.seed x.step imm.toNat (x.vreg va)).map (codeTo32 fmt.val))) ∧
    ∀ fmt split first zp (slot : Fin 64),
      exec (.mseRange a vd va vb fmt split first zp slot) s = s.result d a x 6 vd
        (mseLanes (fun _ q v => mseRangeSeg fmt ⟨split, first, zp, slot.val⟩ q v) ⟨split, first, zp, slot.val⟩
          (x.vreg va) (x.vreg vb)) ∧
      ((mseBases ⟨split, first, zp, slot.val⟩ (x.vreg vb)).all (mseScaleOk fmt ⟨split, first, zp, slot.val⟩) = true →
        exec (.mseError a vd va vb fmt split first zp slot) s = s.result d a x 6 vd
          (mseLanes (fun k q v => mseErrorSeg fmt k ⟨split, first, zp, slot.val⟩ q v) ⟨split, first, zp, slot.val⟩
            (x.vreg va) (x.vreg vb))) ∧
      ((mseBases ⟨split, first, zp, slot.val⟩ (x.vreg vb)).all (mseScaleOk fmt ⟨split, first, zp, slot.val⟩) = false →
        exec (.mseError a vd va vb fmt split first zp slot) s = s.after (d.stopCore a.core x 0x0311))

/-- O13. R46 seen from outside: with nothing else in flight, an operation of the next three cycles still reads the old value
of ADD's destination, one of the fourth cycle reads the sums, and no other register of the core has changed by then. -/
def Obligations.AddIsSeenAfterItsLatency : Prop :=
  ∀ (s : State) (a : At) (d : Dev) (x : CoreSt) (vd va vb : Fin 32), s.issues a d x → x.inFlight = [] →
    ∃ t, exec (.add a vd va vb) s = .next t ∧
      (∀ k, k < 4 → ((t.dev.core a.core).until_ (a.cycle + k)).1.vreg vd = x.vreg vd) ∧
      ((t.dev.core a.core).until_ (a.cycle + 4)).1.vreg vd = List.zipWith fadd (x.vreg va) (x.vreg vb) ∧
      (∀ r, r ≠ vd.val → ((t.dev.core a.core).until_ (a.cycle + 4)).1.vreg r = x.vreg r) ∧
      ∀ c, c ≠ a.core → t.dev.core c = d.core c

/-- O14. R52 and R53 on single values: a NaN gives the canonical NaN, MAX and MIN too; MAX orders −0 below +0; RCP of a zero is
an infinity, RSQRT of −0 is −∞ and of a negative number a NaN; SCORR(−∞, −∞) is +0. -/
def Obligations.SpecialValues : Prop :=
  (∀ w : F32, fadd 0x7FC0_0000#32 w = 0x7FC0_0000#32 ∧ fmul w 0x7F80_0001#32 = 0x7FC0_0000#32 ∧
    fmax 0xFFC0_0000#32 w = 0x7FC0_0000#32 ∧ fmin w 0x7FC0_0000#32 = 0x7FC0_0000#32) ∧
  fmax 0x8000_0000#32 0#32 = 0#32 ∧ fmin 0#32 0x8000_0000#32 = 0x8000_0000#32 ∧
  frcp 0#32 = 0x7F80_0000#32 ∧ frcp 0x8000_0000#32 = 0xFF80_0000#32 ∧
  frsqrt 0x8000_0000#32 = 0xFF80_0000#32 ∧ frsqrt 0xBF80_0000#32 = 0x7FC0_0000#32 ∧
  fscorr 0xFF80_0000#32 0xFF80_0000#32 = 0#32 ∧ fexp 0xFF80_0000#32 = 0#32

/-- O15. V_MEM LOAD (R47, R62): where no unexpected epoch stands its first word is read in the cycle of issue and the others
one a cycle behind it; the 64 lanes of the 256 bytes reach the register three cycles after the landing latency. -/
def Obligations.VectorLoads : Prop :=
  ∀ (s : State) (a : At) (d : Dev) (x : CoreSt) (r : Fin 32) (addr : Nat), s.reads a addr 256 d x →
    exec (.vectorLoad a r addr) s = s.withCore d a
      { x.flying (a.cycle + 3 + d.landing) (.vreg r.val (lanesOf (memBytes d.mem (galleyAddr a.core addr) 256))) with
        loads := x.loads ++ [⟨r.val, a.cycle + 3 + d.landing, galleyAddr a.core addr, a.cycle, 1⟩] }

/-- O16. V_MEM STORE (R62, R90, R105): on a die of the imposition and words whose bank is not gated, whose checks agree and on
which no EXPECT_DRAIN stands, the bytes stored are those of the register, little-endian, and every other byte of local space
reads as the operation finds it. -/
def Obligations.StoresChangeTheirBytesOnly : Prop :=
  ∀ (s : State) (a : At) (d : Dev) (x : CoreSt) (r : Fin 32) (addr : Nat), s.issues a d x →
    d.dieIn (galleyAddr a.core addr) = true →
    (∀ w ∈ wordsOf (galleyAddr a.core addr) (lanesBytes (x.vreg r)).length,
      d.gatedAt (w * 64) = false ∧ w ∉ d.poisoned) →
    d.undrained x (galleyAddr a.core addr) (lanesBytes (x.vreg r)).length = none →
    ∃ t, exec (.vectorStore a r addr) s = .next t ∧
      memBytes t.dev.mem (galleyAddr a.core addr) (lanesBytes (x.vreg r)).length = lanesBytes (x.vreg r) ∧
      ∀ y, y < galleyAddr a.core addr ∨ galleyAddr a.core addr + (lanesBytes (x.vreg r)).length ≤ y →
        memByte t.dev.mem y = memByte d.mem y

/-- O17. STORE_CONVERT on such words, its stochastic conversions counted (R66, R77, R90): the bytes stored are the lanes' codes
packed, and every other byte of local space reads as the operation finds it. -/
def Obligations.ConvertedStoresChangeTheirBytesOnly : Prop :=
  ∀ (s : State) (a : At) (d e : Dev) (x : CoreSt) (r : Fin 32) (addr : Nat) (fmt : Fin 6) (rnd : Fin 3) (imm : BitVec 32),
    s.issues a d x → e = d.countStochastic rnd.val → e.dieIn (galleyAddr a.core addr) = true →
    (∀ w ∈ wordsOf (galleyAddr a.core addr) (8 * vfmtBits fmt.val), e.gatedAt (w * 64) = false ∧ w ∉ e.poisoned) →
    e.undrained x (galleyAddr a.core addr) (8 * vfmtBits fmt.val) = none →
    ∃ t, exec (.storeConvert a r addr fmt rnd imm) s = .next t ∧
      memBytes t.dev.mem (galleyAddr a.core addr) (8 * vfmtBits fmt.val) =
        leBytes (8 * vfmtBits fmt.val)
          (packCodes (vfmtBits fmt.val) (convertLanes fmt.val rnd.val x.seed x.step imm.toNat (x.vreg r))) ∧
      ∀ y, y < galleyAddr a.core addr ∨ galleyAddr a.core addr + 8 * vfmtBits fmt.val ≤ y →
        memByte t.dev.mem y = memByte d.mem y

/-- O18. The window engine (R55, R198 to R202, Table 3-3): a line word lands in its position L cycles on; SHIFT moves the
window at the end of its cycle, and R201 says where each position's value comes from; a tap lands at the array 2 cycles on as
a BF16 row, and pooling reduces each channel over its window with latency 4 + ⌈H · W / 16⌉. -/
def Obligations.WindowOperations : Prop :=
  ∀ (s : State) (a : At) (d : Dev) (x : CoreSt), s.issues a d x →
    (∀ (y c : Fin 15) addr, d.unfilled x (galleyAddr a.core addr) 64 = none → exec (.lineLoad a y c addr) s = s.withCore d a
      (x.flying (a.cycle + d.landing) (.winWord y.val c.val (d.word (galleyAddr a.core addr))))) ∧
    (∀ h w n, exec (.shift a h w n) s = s.withCore d a (x.flying a.cycle (.shift h w n))) ∧
    (∀ k b h w n y c, h ≤ 15 → w ≤ 15 → y < 15 → c < 15 → kvGet 0 (x.apply k b (.shift h w n)).1.window (16 * y + c) =
      if y < h ∧ c + n < w then kvGet 0 x.window (16 * y + c + n) else kvGet 0 x.window (16 * y + c)) ∧
    (∀ (y c : Fin 15) (row : Fin 32) init, exec (.emitTap a y c row init) s = s.withCore d a
      (x.flying (a.cycle + 2) (.mulRow row.val init 0 0 (kvGet 0 x.window (16 * y.val + c.val))))) ∧
    (∀ y c h w dil (vd : Fin 32),
      exec (.poolMax a y c h w dil vd) s =
        s.result d a x (poolLatency h w) vd (poolLanes poolMaxLane x.window y c h w dil) ∧
      exec (.poolAvg a y c h w dil vd) s =
        s.result d a x (poolLatency h w) vd (poolLanes poolAvgLane x.window y c h w dil))

/-- O19. A launch (R47, R56, Table 3-3), of each D_OP: its transfer stands on its tag, and its descriptor, as it stands in
galley when the operation issues with no unexpected epoch on it, is on its way to land L cycles on. -/
def Obligations.TransfersLaunch : Prop :=
  ∀ (s : State) (a : At) (d : Dev) (x : CoreSt) (desc : Nat) (tag : Fin 128), s.reads a desc 64 d x →
    exec (.galleyCopy a desc tag) s = s.withCore d a (x.launched 1 0 d a desc tag) ∧
    exec (.galleyFill a desc tag) s = s.withCore d a (x.launched 1 1 d a desc tag) ∧
    exec (.ddrRead a desc tag) s = s.withCore d a (x.launched 2 0 d a desc tag) ∧
    exec (.ddrWrite a desc tag) s = s.withCore d a (x.launched 3 0 d a desc tag) ∧
    exec (.slugWalkGather a desc tag) s = s.withCore d a (x.launched 4 0 d a desc tag) ∧
    exec (.slugWalkAppend a desc tag) s = s.withCore d a (x.launched 4 1 d a desc tag) ∧
    exec (.slugWalkSealRead a desc tag) s = s.withCore d a (x.launched 4 2 d a desc tag) ∧
    exec (.slugWalkSealWrite a desc tag) s = s.withCore d a (x.launched 4 3 d a desc tag) ∧
    exec (.remoteWrite a desc tag) s = s.withCore d a (x.launched 5 0 d a desc tag) ∧
    exec (.loadStreamScaleTable a desc tag) s = s.withCore d a (x.launched 6 0 d a desc tag)

/-- O20. What a launch does when its time has come (R47, R56, R62, R92, R107, R218, R384, R386, R389, Table 3-3): its descriptor,
where it is well formed, has its words move 8 cycles on (all of them in that cycle: the model's choice, log entry 127); then,
where every address is there and every slot that it writes is drained, a copy, a fill, DDR5 into galley, galley to DDR5, the
stream scale table, the rows of a walk in order, or words to a granted window; with no live grant nothing is sent and the
forme faults with 0605h. The table's word is read when it moves and lands L cycles on. A walk or a table load of no rows or no
length moves nothing. The epochs that FILLED left with the launch are then published (R63). -/
def Obligations.LaunchedTransfersMove : Prop :=
  ∀ (d e : Dev) (c : Fin 96) (l : Launch) (t : Xfer) (y : CoreSt), e = d.toCycle c l.due → l ∈ (e.core c).launches →
    (e.core c).tags.find? (fun t => t.1 = l.tag) = some (l.tag, t) →
    y = { e.core c with launches := (e.core c).launches.erase l } →
    (l.moving = false → e.gatedAt l.desc = false → l.bad = false → descPairsOk l.word = true → d.stepLaunch c l = e.setCore c { e.core c with
      launches := updIf (· = l) (fun l => { l with moving := true, due := l.due + 8 }) (e.core c).launches }) ∧
    (l.moving = true → l.dropped = [] → ∀ f, f = e.setCore c y →
      ∀ out : Dev → Dev, (∀ g, out g = g.each l.fills (fun g e => g.publishFill e.1 e.2)) →
      (f.runStatus l.shape = 0 → f.undrainedIn y l.shape.writes = none →
        (l.op = 1 → l.shape.isFill = false → d.stepLaunch c l = out (f.copyRows 4 l.shape)) ∧
        (l.op = 1 → l.shape.isFill = true → d.stepLaunch c l = out (f.fillRows l.shape)) ∧
        (l.op = 2 → f.poisonRead l.shape = none → d.stepLaunch c l = out (f.copyRows 4 l.shape)) ∧
        (l.op = 3 → d.stepLaunch c l = out (f.copyRows 5 l.shape))) ∧
      (l.op = 4 ∨ l.op = 6 → l.table = none → (descOf l.word).rows = 0 ∨ (descOf l.word).length = 0 →
        d.stepLaunch c l = out f) ∧
      (∀ w, l.op = 4 → (descOf l.word).rows ≠ 0 → (descOf l.word).length ≠ 0 → w = (descOf l.word).src / 64 * 64 →
        f.walkWord w 64 (pairsOk (f.word w) [448, 384, 320]) = none → ∀ r, r = f.walkRows l.mode y (walkDescOf (f.word w))
          (descOf l.word) ((List.range (walkDescOf (f.word w)).rowCount).map (· + (walkDescOf (f.word w)).firstRow)) →
        d.stepLaunch c l = out (r.1.walkEnd c y l.bundle t r.2)) ∧
      (l.op = 5 → f.poisoned = [] → f.remoteWords (descOf l.word) ≠ [] → f.reachStatus (descOf l.word).src
          (spanOf (descOf l.word).rows (descOf l.word).length (descOf l.word).srcPitch) = 0 →
        (∀ g, f.grantOf (bits (descOf l.word).dst 55 48) (bits (descOf l.word).dst 47 40) = some g →
          (f.outPort (bits (descOf l.word).dst 55 48)).isSome = true →
          d.stepLaunch c l = out (f.sendWords c l.tag t.forme g (f.remoteWords (descOf l.word)))) ∧
        (f.grantOf (bits (descOf l.word).dst 55 48) (bits (descOf l.word).dst 47 40) = none →
          d.stepLaunch c l = out ((f.remoteFault c.val t.plate t.forme 0x0605).finishRemote c.val l.tag t.forme))) ∧
      (l.op = 6 → l.table = none → (descOf l.word).rows ≠ 0 → (descOf l.word).length ≠ 0 →
        ∀ p, p = (descOf l.word).src / 64 * 64 → f.reachStatus p 64 = 0 →
        d.stepLaunch c l = out (f.setCore c { y with
          launches := y.launches ++ [{ l with due := l.due + f.landing, table := some (f.word p, f.isPoisoned p) }] })) ∧
      ∀ w, l.op = 6 → l.table = some (w, false) → d.stepLaunch c l = out (f.setCore c { y with streamTable := w }))

/-- O21. A copy of clean words within local space (R56, R92): every byte outside the rows' destinations reads as before. -/
def Obligations.CopiesChangeTheirRowsOnly : Prop :=
  ∀ (d : Dev) (source : Nat) (y : Desc), d.poisoned = [] → addrSpace y.src ≠ 2 → addrSpace y.dst ≠ 2 →
    ∀ b, (∀ r, r < y.rows → b < y.dst + r * y.dstPitch * 64 ∨ y.dst + r * y.dstPitch * 64 + y.length ≤ b) →
      memByte (d.copyRows source y).mem b = memByte d.mem b

/-- O22. A transfer that ends well, the words of its launch moved and no poisoned DDR5 word among them, frees its tag and
publishes its epoch if its descriptor says so (R56, R63); a word that lands clean leaves the core as it is (R47), one that
misses its landing stops the core with 0303h (R48); a word whose check fails freezes the core for replay, with nothing left
in flight, and is recorded (R61, R96). -/
def Obligations.TransfersEndAndWordsLand : Prop :=
  ∀ s : State,
    (∀ (c : Fin 96) (tag : Fin 128) (t : Xfer) (d : Dev),
      d = s.dev.engineTo c (lastMove s.dev.landing ((s.dev.core c).launches.filter (fun l => l.tag = tag.val))) →
      (d.core c).tags.find? (fun e => e.1 = tag.val) = some (tag.val, t) → t.poison = none →
      (t.publish = false → exec (.transferComplete c tag .ok) s =
        s.after (d.setCore c { d.core c with tags := kvErase (d.core c).tags tag.val })) ∧
      (t.publish = true → exec (.transferComplete c tag .ok) s =
        s.after ((d.setCore c { d.core c with tags := kvErase (d.core c).tags tag.val }).publishFill
          t.pubSlot t.pubEpoch))) ∧
    ∀ (a : At) (d : Dev) (x : CoreSt) (addr : Nat) (fetch : Bool), s.dev.engineTo a.core a.cycle = d → d.lands a x →
      d.addrOk addr = true → d.dieIn addr = true → d.gatedAt addr = false →
      (d.isPoisoned addr = false → exec (.galleyReadLanding a addr fetch .clean .none) s = s.withCore d a x) ∧
      exec (.galleyReadLanding a addr fetch .missed .none) s = s.after (d.stopCore a.core x 0x0303) ∧
      (x.detected = false → ∀ e, e = d.detection addr (if fetch then 1 else 0) → e.restorable addr = false →
        exec (.galleyReadLanding a addr fetch .detected .none) s = s.after (e.setCore a.core
          { x.discard with frozen := true, ended := false, detected := true }))

/-- O23. Supply and links (R30, R35, R297, R299): a need within the envelope ends a standing droop; one beyond it raises
0340h once and is counted; at the protective limit the core stops with 0308h and the override is logged; a CRC error on a
link drops the word and restarts the sending forme with 03E0h, charged to the receiving compute die. -/
def Obligations.SupplyAndLinks : Prop :=
  ∀ (s : State) (c : Fin 96),
    (∀ need, need ≤ s.dev.rd 0x2200_01 → exec (.supplyDroop c need) s =
      s.after { s.dev with power := { s.dev.power with atDroop := s.dev.power.atDroop.filter (· ≠ c.val) } }) ∧
    (∀ need, s.dev.rd 0x2200_01 < need → c.val ∉ s.dev.power.atDroop → exec (.supplyDroop c need) s =
      s.after ((({ s.dev with power := { s.dev.power with atDroop := setAdd c.val s.dev.power.atDroop } } : Dev).bump
        0x2205_01).event 0x0340 0)) ∧
    (∀ d, d = s.dev.overrideOpen 0x0308 → (d.core c).running = true → (d.core c).ended = false →
      exec (.supplyProtectiveStop c) s =
      s.after (d.stopCore c (d.core c) 0x0308)) ∧
    ∀ (h : LinkHop) (id : Nat) (d : Dev), h.receiver.val < 6 →
      d = { s.dev with cores := s.dev.cores.map (fun (c : Nat × CoreSt) => (c.1, c.2.dropWord id h.word)) } →
      exec (.linkCrcError h id) s = s.after ((d.faultForme id 0x03E0).charge 0x03E0 0 h.receiver.val)

/-- O24. R303: each cause of a full reset sets every unit and memory to its reset state and RESET_CAUSE to its number; flash
and fuses, and the levels of pins, stay. -/
def Obligations.FullResets : Prop :=
  ∀ s : State,
    exec .powerOnReset s = s.after (s.dev.afterReset 1) ∧
    exec .resetNAsserted s = s.after (s.dev.afterReset 2) ∧
    (s.dev.run ≠ .held → exec .managementWatchdog s = s.after (s.dev.afterReset 3)) ∧
    (∀ p, s.dev.passes p 0x2000_08 1 → exec (.resetRequest p 1) s = s.after (s.dev.afterReset 4)) ∧
    (s.dev.run = .on → exec .fieldNetworkReset s = s.after (s.dev.afterReset 5)) ∧
    exec .referenceClockLoss s = s.after (s.dev.afterReset 7)

/-- O25. R304, R422: at reset release with TMODE 00b device time starts at 0 and the boot ROM decides; with another TMODE the
part stays in reset. A boot that names a slot goes on to Chase. -/
def Obligations.ReleaseBoots : Prop :=
  ∀ (s : State) (m : BitVec 2), s.dev.run = .held →
    (m ≠ 0 → exec (.resetRelease m) s =
      .next { s with dev := { s.dev with now := 0, start := { s.dev.start with tmode := m.toNat } } }) ∧
    (exec (.resetRelease 0) s =
      .next { s with dev := Dev.boot { s.dev with now := 0, start := { s.dev.start with tmode := 0 } } }) ∧
    ∀ t k, ((s.dev.nv.cutShort 0).cutShort 1).decide.2.2 = some k → exec (.resetRelease 0) s = .next t →
      t.dev.run = .booting ∧ t.dev.now = 0 ∧ t.dev.fw.running = k

/-- O26. R305, R331: Chase is entered out of the boot ROM; with nothing in the parameter store STAGE is 1, the part answers,
and the EtherCAT controller is ready; where bus mastering is already on, what was owed to the host then goes out (R444). -/
def Obligations.ChaseAnswers : Prop :=
  ∀ s : State, s.dev.run = .booting → s.dev.nv.store = [] → s.dev.start.later = [] →
    s.dev.start.laterDom = [] →
    ∃ d : Dev, exec .chaseEntry s = .next { s with dev := if s.dev.on? 0x4000_04 then d.sendOwed else d } ∧
      d.run = .on ∧ d.stage = 1 ∧ d.ready 27 = true ∧ d.rd 0x4811_01 = 3 ∧ d.now = s.dev.now ∧ d.mem = s.dev.mem

/-- O27. R308, R310, R311: the starts of Proof, each with its own effect, before what follows from a changed readiness: the
entry itself from Chase, a galley test that passes or fails, DDR5 training and memory test, and a function's start. -/
def Obligations.ProofStarts : Prop :=
  ∀ s : State,
    (∀ spd, s.dev.run = .on → s.dev.stage = 1 →
      exec (.proofEntry spd) s = .next { s with dev := (s.dev.enterProof spd).close }) ∧
    (∀ (n : Fin 6) f, s.dev.test.dies.contains n.val = true →
      exec (.galleyTestDone n f) s = s.after (Dev.close (
        let d := Dev.setView { s.dev with test := { s.dev.test with dies := s.dev.test.dies.filter (· ≠ n.val) } } n.val false
        match f with
        | none => d.galleyPassed n.val
        | some g => d.galleyFailed n.val g))) ∧
    (∀ x : Fin 8, s.dev.channelOpen x.val = true → x.val ∉ s.dev.ddrTrained →
      exec (.ddrTrainingDone x true) s =
        s.after (Dev.close { s.dev with ddrTrained := setAdd x.val s.dev.ddrTrained }) ∧
      exec (.ddrTrainingDone x false) s =
        s.after (Dev.close (((s.dev.setFailed (12 + x.val)).emergency 0x0450 clsLasting x.val).layoutFix))) ∧
    (∀ (x : Fin 8) n, s.dev.channelOpen x.val = true → x.val ∈ s.dev.ddrTrained →
      exec (.ddrMemoryTestDone x true n) s = s.after (Dev.close (
        let d := s.dev.bumpBy (dkey 0x4105 (x.val + 1)) n
        ({ d with ddrPassed := setAdd x.val d.ddrPassed } : Dev).layoutFix))) ∧
    ∀ fn, s.dev.run = .on → s.dev.stage = 2 → fnBit fn ∉ s.dev.start.fnsStarted →
      exec (.functionStartComplete fn) s = s.after (Dev.close (Dev.setReady
        { s.dev with start := { s.dev.start with fnsStarted := setAdd (fnBit fn) s.dev.start.fnsStarted } } (fnBit fn) true))

/-- O28. R314, R315, R318: TARGET_STAGE is written; a target of Proof in Press marks the leave, which waits for its frame start;
with the target Press and nothing in the way, Press is entered in the order of R315, and the first frame starts. -/
def Obligations.StageTargets : Prop :=
  ∀ (s : State) (p : Path),
    (s.dev.passes p 0x2000_02 2 → s.dev.stage ≠ 3 → exec (.targetStageProof p) s =
      s.after (s.dev.accessed.wr 0x2000_02 2).close) ∧
    (s.dev.passes p 0x2000_02 2 → s.dev.stage = 3 → s.dev.rd 0x3E12_02 ≠ 1 → exec (.targetStageProof p) s =
      s.after ((s.dev.accessed.wr 0x2000_02 2).wr 0x2000_06 1).close) ∧
    (s.dev.passes p 0x2000_02 3 → exec (.targetStagePress p) s =
      s.after ((s.dev.accessed.wr 0x2000_02 3).wr 0x2000_06 0).close) ∧
    (s.dev.run = .on → s.dev.stage = 2 → s.dev.rd 0x2000_02 = 3 → s.dev.pressCondition = 0 →
      exec .pressEntry s = s.after (Dev.close (
        let d := ((s.dev.abortLoops (fun _ => true)).wr 0x2000_01 3).enterPress.firstGaps
        let d := (((d.wr 0x2000_09 d.now).bump 0x2000_0A).wr 0x2504_06 0).wr 0x2000_06 0
        ((d.setReady 2 true).setReady 3 (!d.readingStopped)).startFrame)))

/-- O29. Frames (R36, R57, R60, R110, R126, R282, R296, R298, R318, R334): at a frame start FRAME_COUNT rises and transfers that
still run fault their formes; formes of the frame go, faulted ones try again, and a leave of Press whose time has come is
taken; otherwise changes take effect, the lead-in does its work and the frame is filled; then temperatures are sampled and
the snapshot is taken. A slot start stops a core that has not met END, and begins what its header names. -/
def Obligations.FramesAndSlots : Prop :=
  ∀ s : State, s.dev.inPress = true →
    (∀ temps, exec (.frameStart temps) s = s.after (((s.dev.startFrame.sampleTemps temps).applyLater).takeSnapshot)) ∧
    (s.dev.startFrame =
      (let d := ({ s.dev with plate := { s.dev.plate with frameStart := s.dev.now, slip := 0, slotsNow := [], scrubbed := [],
                                                          patrolled := false } } : Dev).bump 0x2504_06
       let old := d.frameEndTags.perFrameOld
       let e := d.frameEndTags.dropPerFrame.readmitAll.ageGroups
       if e.mayLeave then e.takeLeaving.leavePress else (((e.forceRestarts old).takeChanges).leadIn).fillFrame old)) ∧
    ∀ (c : Fin 96) (n : Nat) (e : SlotEntry) scrub, (s.dev.slotList c.val)[n]? = some e →
      (((s.dev.core c).running = false ∨ (s.dev.core c).ended = true) →
        exec (.slotStart c n scrub) s = s.after (((s.dev.idleCore c).headerStart c e n).slotWork c.val e scrub)) ∧
      ((s.dev.core c).running = true → (s.dev.core c).ended = false → exec (.slotStart c n scrub) s =
        s.after ((((s.dev.stopCore c (s.dev.core c) 0x0302).idleCore c).headerStart c e n).slotWork c.val e scrub))

/-- O30. Background work of Chase and Proof (R98, R296, R298, R334, R372, R374): on the 1 ms tick every die is scrubbed, DDR5 is
patrolled and its refresh looked at in Proof, temperatures are sampled and the snapshot taken. -/
def Obligations.BackgroundTicks : Prop :=
  ∀ (s : State) scrub temps d, s.dev.run = .on →
    d = (List.range 6).foldl (fun d n => d.scrubDie n (d.rd 0x2301_01) scrub) s.dev →
    (s.dev.stage = 1 → d.stage = 1 → exec (.backgroundTick scrub temps) s = s.after ((d.sampleTemps temps).takeSnapshot)) ∧
    (s.dev.stage = 2 → d.stage = 2 → exec (.backgroundTick scrub temps) s =
      s.after ((((d.patrol scrub).refreshWork scrub.dram).sampleTemps temps).takeSnapshot))

/-- O31. The thermal and power loops (R38, R297, R298, R425): a point steps down when its limit is reached and back when its
quantity has fallen, by the POWER_CAP_W that the last poll took (R302); a protective step ends when the temperature is back; a
poll takes POWER_CAP_W, the power mean, the rails and the temperatures; an alert takes the rails; a calibration marks its
die. -/
def Obligations.ThermalAndPowerLoops : Prop :=
  ∀ s : State,
    (s.dev.tjStep ≤ s.dev.tjMax → s.dev.power.thermal < s.dev.floorPoint → exec .thermalPointUp s = s.after (
      (({ s.dev with power := { s.dev.power with thermal := s.dev.power.thermal + 1, atThermal := false } } : Dev).loopPoint).thermalEdge)) ∧
    (s.dev.tjMax ≤ s.dev.tjBack → 0 < s.dev.power.thermal → exec .thermalPointDown s = s.after (
      ({ s.dev with power := { s.dev.power with thermal := s.dev.power.thermal - 1, atThermal := false } } : Dev).loopPoint)) ∧
    (s.dev.capMw ≠ 0 → s.dev.capMw < s.dev.rd 0x2204_02 → s.dev.power.power < s.dev.floorPoint →
      exec .powerPointUp s = s.after (
        (({ s.dev with power := { s.dev.power with power := s.dev.power.power + 1, atPower := false } } : Dev).loopPoint).powerEdge)) ∧
    (10 * s.dev.rd 0x2204_02 < 9 * s.dev.capMw → 0 < s.dev.power.power → exec .powerPointDown s = s.after (
      ({ s.dev with power := { s.dev.power with power := s.dev.power.power - 1, atPower := false } } : Dev).loopPoint)) ∧
    (s.dev.tjMax ≤ s.dev.tjBack → exec .protectiveStepRelease s = s.after
      { s.dev with power := { s.dev.power with protective := false, tempOverride := false } }) ∧
    (∀ rails temps d, d = { s.dev with power := { s.dev.power with cap := s.dev.rd 0x2204_01 } } →
      exec (.pmbusPoll rails temps) s = s.after (((d.powerMean rails).railsRead rails).sampleTemps temps)) ∧
    (∀ rails, exec (.pmbusAlert rails) s = s.after (s.dev.railsRead rails)) ∧
    ∀ die : Fin 8, exec (.sensorCalibration die) s =
      s.after { s.dev with power := { s.dev.power with calibrating := some die.val } }

/-- O32. Frequency, plate set and suspect entries (R38, R126, R128, R129): a frequency request is kept; outside Press a
verified set becomes the active one at once, its slug regions and rings checked, in Press it waits for a frame start; clearing the suspect mark clears it. -/
def Obligations.PlateEntries : Prop :=
  ∀ (s : State) (p : Path),
    (∀ v : Fin 3, s.dev.passes p 0x2201_01 v.val → exec (.freqRequest p v.val) s =
      s.after (s.dev.accessed.wr 0x2201_01 v.val)) ∧
    (∀ (v : Fin 2) t, s.dev.passes p 0x2503_01 v.val → s.dev.accessed.stage ≠ 3 → exec (.activateArea p v.val t) s =
      s.closing (((s.dev.accessed.testLeftOut t).makeActive v.val).checkRegions.ringChecks)) ∧
    (∀ (v : Fin 2) t, s.dev.passes p 0x2503_01 v.val → s.dev.accessed.stage = 3 → exec (.activateArea p v.val t) s =
      s.closing (Dev.wr { s.dev.accessed with
        plate := { s.dev.accessed.plate with pendingArea := some v.val, pendingTest := t } } 0x2503_02 1)) ∧
    (s.dev.passes p 0x2505_04 1 → exec (.clearSuspect p 1) s = s.closing (s.dev.accessed.wr 0x2505_01 0))

/-- O33. Line-coupled axes (R162, R166 to R171, R176): a line step is taken while no taking channel lacks space, else withheld;
an axis that stands for line space or for a reservation starts again once it may; a pulse of a free axis moves POSITION by
one, and the axis stops at its target and decelerates in time for it; a stall raises 0227h once. -/
def Obligations.AxesMove : Prop :=
  ∀ (s : State) (ax : Fin 4),
    (s.dev.stepping ax.val = true → (s.dev.taking ax.val).any s.dev.spaceLow = false →
      exec (.lineStep ax) s = s.after (s.dev.takeStep ax.val).fiAll) ∧
    (s.dev.stepping ax.val = true → (s.dev.taking ax.val).any s.dev.spaceLow = true →
      exec (.lineStep ax) s = s.after (s.dev.withhold ax.val).fiAll) ∧
    (s.dev.axState ax.val = 4 → (s.dev.retrySheet ax.val).roomBack ax.val = true →
      ((s.dev.retrySheet ax.val).axis ax.val).need = 0 →
      exec (.axisResume ax) s = s.after (((s.dev.retrySheet ax.val).startAxis ax.val true).fiAll)) ∧
    (s.dev.axState ax.val = 5 → ((s.dev.retrySheet ax.val).axis ax.val).need = 0 →
      exec (.reservationResume ax) s = s.after (((s.dev.retrySheet ax.val).startAxis ax.val false).fiAll)) ∧
    (s.dev.axState ax.val = 4 → (s.dev.axis ax.val).stallRaised = false → exec (.stallEvent ax) s =
      s.after ((s.dev.updAxis ax.val (fun a => { a with stallRaised := true })).axisStatus ax.val 0x0227)) ∧
    (s.dev.run = .on → ∀ (ds : Fin 8) level, exec (.sensorEdge ds level) s =
      s.after (((List.range 4).foldl (Dev.axisEdge ds.val level) s.dev).fiAll)) ∧
    ∀ (k : Nat) (pos : Int) (d : Dev), s.dev.run = .on → s.dev.aget ax.val 0 1 = 2 →
      1 ≤ s.dev.axState ax.val → s.dev.axState ax.val ≤ 3 → k = s.dev.nextIndex ax.val →
      pos = (if (s.dev.axis ax.val).forward then s.dev.rdInt (akey ax.val 3 3) + 1 else s.dev.rdInt (akey ax.val 3 3) - 1) →
      d = ((s.dev.wrp (akey ax.val 3 3) (unsigned 32 pos)).emit (.stepPulse ax.val)).updAxis ax.val
        (fun a => { a with rest := false, index := k }) →
      ((s.dev.axis ax.val).decel = true → (s.dev.axis ax.val).reason = 3 → exec (.freeAxisPulse ax) s =
        s.after (if k = 0 then d.stopAxis ax.val 3 else d.setAxState ax.val 3)) ∧
      ((s.dev.axis ax.val).decel = false → pos = signed 32 (s.dev.axis ax.val).goal → exec (.freeAxisPulse ax) s = s.after
        ((d.updAxis ax.val (fun a => { a with rest := true, index := 0, decel := false, reason := 0 })).setAxState ax.val 0)) ∧
      ((s.dev.axis ax.val).decel = false → pos ≠ signed 32 (s.dev.axis ax.val).goal →
        (signed 32 (s.dev.axis ax.val).goal - pos).natAbs ≤ k → exec (.freeAxisPulse ax) s = s.after (d.decelerate ax.val 0)) ∧
      ((s.dev.axis ax.val).decel = false → k < (signed 32 (s.dev.axis ax.val).goal - pos).natAbs →
        exec (.freeAxisPulse ax) s = s.after (d.setAxState ax.val (d.movingState ax.val k)))

/-- O34. What drives an axis into its safe state (R169, R174, R177): a jam or a long document, a driver fault, a field timeout;
the fault input's release lets it leave once nothing holds it. -/
def Obligations.AxesFail : Prop :=
  ∀ (s : State) (ax : Fin 4),
    (∀ e es, (s.dev.axis ax.val).edges = e :: es → s.dev.onPath ax.val = true → (s.dev.front ax.val).isSome = true → s.dev.aget ax.val 0 10 ≠ 255 →
      e + s.dev.aget ax.val 0 11 + s.dev.rdp (akey ax.val 2 2) ≤ s.dev.lineSteps ax.val →
      exec (.jam ax) s = s.after (s.dev.jammed ax.val 0x0223).close) ∧
    (∀ ch n, s.dev.onPath ax.val = true → ch ∈ s.dev.coupled ax.val →
      (s.dev.chan ch).longSteps = some n → s.dev.rdp (akey ax.val 2 3) ≤ n →
      exec (.longDocumentJam ax) s = s.after (s.dev.jammed ax.val 0x0228).close) ∧
    (s.dev.run = .on → exec (.driverFault ax) s = s.after (Dev.close
      ((((s.dev.overrideOpen 0x0225).axisStatus ax.val 0x0225).updAxis ax.val
        (fun a => { a with fltLow := true, faultLatched := true })).enterSafe ax.val true))) ∧
    (exec (.driverFaultRelease ax) s = s.after (Dev.close
      (((s.dev.updAxis ax.val (fun a => { a with fltLow := false })).axisReady ax.val).tryLeave ax.val))) ∧
    (s.dev.rdp (akey ax.val 2 5) ≠ 0 → s.dev.axState ax.val ≠ 6 → exec (.fieldTimeout ax) s = s.after (Dev.close (
      let d := (s.dev.axisStatus ax.val 0x0226).updAxis ax.val (fun a => { a with timeoutLatched := true })
      if (d.axis ax.val).rest then d.enterSafe ax.val false else d.decelerate ax.val 3)))

/-- O35. Axis entries (R166, R174, R179): ENABLE 1 lets the axis leave its safe state, ENABLE 0 clears what was latched and
brings it into the safe state; CLEAR_SAFE clears what was latched and lets the axis leave; GO starts the move to TARGET, with
DIR at its level (R163). -/
def Obligations.AxisEntries : Prop :=
  ∀ (s : State) (p : Path) (ax : Fin 4),
    (s.dev.passes p (akey ax.val 0 15) 1 → exec (.axisEnable p ax) s =
      s.closing (((s.dev.accessed.wr (akey ax.val 0 15) 1).tryLeave ax.val).fiAll)) ∧
    (s.dev.passes p (akey ax.val 0 15) 0 →
      ∀ d, d = (s.dev.accessed.clearLatched ax.val).wr (akey ax.val 0 15) 0 → d.axState ax.val ≠ 6 →
        ((d.axis ax.val).rest = true → exec (.axisDisable p ax) s = s.closing (d.enterSafe ax.val false).fiAll) ∧
        ((d.axis ax.val).rest = false → exec (.axisDisable p ax) s = s.closing (d.decelerate ax.val 3).fiAll)) ∧
    (s.dev.passes p (akey ax.val 4 2) 1 → exec (.clearSafe p ax 1) s =
      s.closing ((s.dev.accessed.clearLatched ax.val).tryLeave ax.val).fiAll) ∧
    (s.dev.passes p (akey ax.val 3 2) 1 → ∀ d, d = s.dev.accessed →
      (d.rdp (akey ax.val 3 1) = d.rdp (akey ax.val 3 3) → exec (.go p ax 1) s = s.after d) ∧
      (d.rdp (akey ax.val 3 1) ≠ d.rdp (akey ax.val 3 3) → ∀ fwd : Bool,
        fwd = decide (signed 32 (d.rdp (akey ax.val 3 1)) > d.rdInt (akey ax.val 3 3)) → exec (.go p ax 1) s = s.after
          ((d.updAxis ax.val (fun a => { a with
            goal := d.rdp (akey ax.val 3 1), forward := fwd,
            dir := (fwd == decide (d.aget ax.val 0 7 = 1)) })).startAxis ax.val false)))

/-- O36. Scan channels (R130, R139, R149, R157, R160): a line of a running channel is taken, after a truncation that is due;
ENABLE 1 starts a channel with a fresh line count and its mode at the gap; ENABLE 0 cuts the page of a channel that is on and
lets its axis forget the channel's sheets; REF_STORE begins a store of the channel's references. -/
def Obligations.ScanChannels : Prop :=
  ∀ (s : State) (p : Path) (ch : Fin 4),
    (∀ line, s.dev.run = .on → s.dev.takes ch.val = true → exec (.scanLineComplete ch line) s =
      s.after (Dev.close (((pageTruncated ch.val s.dev).takeLine ch.val line).fiAll))) ∧
    (s.dev.truncationDue ch.val = true → exec (.pageTruncated ch) s = s.after (Dev.close
      ((((s.dev.storeHeld ch.val).closePage ch.val 0x0209).updChan ch.val (fun c => { c with
        held := ((s.dev.chan ch.val).held.reverse.takeWhile (fun l => l.paper.isNone)).reverse })).updChan ch.val
          (fun c => { c with longSteps := some 0 })).fiAll)) ∧
    (s.dev.passes p (ckey ch.val 0 9) 1 → s.dev.accessed.chanOn ch.val = false →
      ∀ n, n = (match s.dev.accessed.axisOf ch.val with | some ax => (s.dev.accessed.axis ax).edges.length | none => 0) →
      exec (.channelEnable p ch) s = s.closing ((((s.dev.accessed.wr (ckey ch.val 0 9) 1).updChan ch.val (fun c =>
        { c with lineNo := 0, trigs := [], lastGood := none, held := [], clear := false,
                 inPage := false, skipping := false, stops := 0, makeready := none, wantMakeready := false,
                 firstGap := true, unres := n, longSteps := none, ringChecked := false })).modeAtGap ch.val).gapBegins
        ch.val).fiAll) ∧
    (s.dev.passes p (ckey ch.val 0 9) 0 → s.dev.accessed.chanOn ch.val = true →
      ∀ d, d = ((s.dev.accessed.cutPage ch.val).wr (ckey ch.val 0 9) 0).updChan ch.val (fun c =>
          { c with held := [], skipping := false, inPage := false, makeready := none, wantMakeready := false,
                   longSteps := none, unres := 0 }) →
        (d.axisOf ch.val = none → exec (.channelDisable p ch) s = s.closing d.fiAll) ∧
        ∀ ax, d.axisOf ch.val = some ax → exec (.channelDisable p ch) s = s.closing (Dev.fiAll (d.updAxis ax (fun a =>
          { a with sheets := dropItems ch.val a.sheets, edges := if d.coupledOn ax = [] then [] else a.edges })))) ∧
    (s.dev.passes p (ckey ch.val 0 9) 0 → s.dev.accessed.chanOn ch.val = false →
      exec (.channelDisable p ch) s = s.closing (s.dev.accessed.wr (ckey ch.val 0 9) 0)) ∧
    (s.dev.passes p (ckey ch.val 7 2) 1 → exec (.refStore p ch 1) s =
      s.after (s.dev.startSave p (ckey ch.val 7 2) [] [ch.val]))

/-- O37. Geometry, slugs and text (R194, R226, R227, R443, R248, R15, R293): a Geometry Unit runs the forme it is assigned; a
migration copies a slug's form to its new slot and waits for the lead-in; the Text Unit takes the token of the next due row of
its engine, once the candidates of its step have passed; a cut-off ends a sequence, or marks one whose step has not committed, and bares a page side. -/
def Obligations.GeometrySlugsAndText : Prop :=
  ∀ s : State,
    (∀ (u : Fin 2) f pg r p, s.dev.unitForme u.val = some f → f.pages = pg :: r → s.dev.page? pg.1 pg.2 = some p →
      exec (.geometryFormeRun u) s = s.after (s.dev.runGeometry f p).close) ∧
    (∀ n a l b, slugWordOk (s.dev.slugWord n) = true → (s.dev.slugAt n).state = 1 → (s.dev.slugAt n).pool = 1 → (∀ m ∈ s.dev.slug.moves, m.1 ≠ n) →
      s.dev.slotAddr 1 (s.dev.slugAt n).loc = some a → s.dev.freeLoc 2 = some l → s.dev.slotAddr 2 l = some b →
      exec (.slugMigrate n .toDdr) s = s.after (
        let d := (s.dev.copyRow 4 a b (s.dev.formBytes (s.dev.slugAt n))).bump 0x3C02_04
        { d with slug := { d.slug with moves := d.slug.moves ++ [(n, 2, l)] } })) ∧
    (∀ (row : Fin 256) i f d x, s.dev.dueSeqs.find? (fun i =>
        (s.dev.seqEnt i).row = row.val && s.dev.dueSeqs.all (fun j => !s.dev.rowBefore j i)) = some i →
      (s.dev.stepOf i).find? (fun j => !(kvGet SeqSt.init s.dev.seqs j).checked && !s.dev.rowCandsOk j) = none →
      d = s.dev.checkStep i → x = kvGet SeqSt.init d.seqs i → d.fount? (textReqOf x.request).fount = some f →
      exec (.textRowProcess row) s = s.after (Dev.close (d.takeToken i x (textReqOf x.request) f
        (if (textReqOf x.request).grammar = 255 then none else d.grammar? (textReqOf x.request).grammar)))) ∧
    (∀ i, s.dev.liveSeqs.contains i = true → (s.dev.seqEnt i).state ≠ 2 → (s.dev.seqEnt i).state ≠ 3 →
      exec (.decodeCutoff i) s = s.after (s.dev.cutSeq i).close) ∧
    (∀ i, s.dev.liveSeqs.contains i = true → (s.dev.seqEnt i).state = 2 → exec (.decodeCutoff i) s = s.after (Dev.close
      { s.dev with seqs := kvPut SeqSt.init s.dev.seqs i { kvGet SeqSt.init s.dev.seqs i with cut := true } })) ∧
    ∀ (r : Fin 16) n p, s.dev.page? r.val n = some p → p.bare = none → p.group = none →
      (p.geometryDone = false → exec (.layoutCutoff r n) s = s.after (Dev.close ((s.dev.bumpBy 0x2100_05
        (s.dev.formes.filter (fun f => f.kind ≤ 2 && f.pages.contains (r.val, n))).length).barePage p 0x0331))) ∧
      exec (.structuringCutoff r n) s = s.after (s.dev.barePage p 0x0332).close

/-- O38. Text entries (R238, R239, R260): UNLOAD empties a slot, sets its sub-indices 1 to 6 to 0 and drops the friskets that
name it; TEXT_CLEAR sets the counters of 3A00h to zero. -/
def Obligations.TextEntries : Prop :=
  ∀ (s : State) (p : Path),
    (∀ k : Fin 8, s.dev.passes p (fountKey k.val 7) 1 →
      ∀ d : Dev, d = { s.dev.accessed with text := { s.dev.text with founts := kvErase s.dev.text.founts k.val } } →
      exec (.fountUnload p k 1) s = s.closing (Dev.followBits (Dev.showResident (Dev.dropFriskets
        ((((((d.wr (fountKey k.val 1) 0).wr (fountKey k.val 2) 0).wr (fountKey k.val 3) 0).wr (fountKey k.val 4) 0).wr
          (fountKey k.val 5) 0).wr (fountKey k.val 6) 0) (fun c => c = 2 ^ 32 + k.val))))) ∧
    (∀ g : Fin 32, s.dev.passes p (grammarKey g.val 7) 1 →
      ∀ d : Dev, d = { s.dev.accessed with text := { s.dev.text with grammars := kvErase s.dev.text.grammars g.val } } →
      exec (.grammarUnload p g 1) s = s.closing (Dev.followBits (Dev.showResident (Dev.dropFriskets
        ((((((d.wr (grammarKey g.val 1) 0).wr (grammarKey g.val 2) 0).wr (grammarKey g.val 3) 0).wr (grammarKey g.val 4) 0).wr
          (grammarKey g.val 5) 0).wr (grammarKey g.val 6) 0) (fun c => c / 65536 = g.val))))) ∧
    (s.dev.passes p 0x3A01_01 1 → exec (.textClearCounters p 1) s = s.after
      (((((((((s.dev.accessed.wr 0x3A00_03 0).wr 0x3A00_04 0).wr 0x3A00_05 0).wr 0x3A00_06 0).wr 0x3A00_07 0).wr
        0x3A00_08 0).wr 0x3A00_09 0).wr 0x3A00_0A 0).wr 0x3A00_0B 0))

/-- O39. Image decodes (R265 to R270, R440): the oldest waiting image takes a free engine
while host accesses are issued; a decode that ends places its rows
and completes its job; one past its budget is deferred once, and a deferred one past the limit fails with 0812h. -/
def Obligations.ImageDecodes : Prop :=
  ∀ (s : State) (e : Fin 8),
    (∀ img ring n rest k, s.dev.busOn = true → s.dev.batch.images = (ring, n) :: rest → s.dev.freeEngine = some k →
      ∀ job desc x d, job = (s.dev.page? ring n).bind (·.job) →
      desc = ((job.bind (fun j => s.dev.entry? j.1 j.2)).map (·.desc)).getD 0 →
      x = Decode.mk k ring n (boundImage desc img) s.dev.now (max (8 * meanOf s.dev.batch.times) 2000000) false false job →
      d = (Dev.bump { s.dev with batch := { s.dev.batch with images := rest, decodes := s.dev.batch.decodes ++ [x] } }
          0x3E01_01).updPage ring n (fun p => { p with engine := some k }) →
      (∀ q, d.picture x = some q → exec (.imageDecodeStart img) s = s.after (d.reserveImage x q).close) ∧
      (d.picture x = none → exec (.imageDecodeStart img) s = s.after (d.failDecode x 0x0811 0x3E01_04).close)) ∧
    (∀ x q pg, s.dev.decodeAt e.val = some x → x.waits = false → s.dev.picture x = some q →
      s.dev.page? x.ring x.seq = some pg → pg.bare = none →
      (x.deferred = false ∧ s.dev.now < x.start + x.budget ∨
        x.deferred = true ∧ s.dev.now < x.start + s.dev.rdp 0x3E01_06 * 1000000) → exec (.imageDecodeComplete e) s = s.after (Dev.close
        ((((s.dev.countDecode x).setDecodes (s.dev.batch.decodes.filter (fun y => y.engine ≠ e.val))).placeImage x pg
          q).completeJob x.job 0 x.seq))) ∧
    (∀ x, s.dev.decodeAt e.val = some x → x.deferred = false → x.start + x.budget ≤ s.dev.now → exec (.decodeDeferred e) s = s.after (Dev.close
      (((s.dev.setDecodes (updIf (fun y => y.engine = e.val) (fun y => { y with deferred := true }) s.dev.batch.decodes)).bump
        0x3E01_02).updPage x.ring x.seq (fun p => { p with deferred := true })))) ∧
    ∀ x, s.dev.decodeAt e.val = some x → x.deferred = true → x.start + s.dev.rdp 0x3E01_06 * 1000000 ≤ s.dev.now →
      exec (.decodeAbandoned e) s = s.after (s.dev.failDecode x 0x0812 0x3E01_03).close

/-- O40. The adaptation run (R271, R277, R279): RUN 1 begins at step 1 with empty moments, RUN 0 ends it; a batch is built from
the samples considered, a decode over its budget excludes its sample with 0815h, and PUBLISH asks for the next boundary. -/
def Obligations.AdaptationRuns : Prop :=
  ∀ (s : State) (p : Path),
    (s.dev.passes p 0x3E12_01 1 → ∀ d, d = s.dev.accessed → d.rd 0x3E12_02 = 0 → ∀ e,
      e = ((((d.wr 0x3E12_01 1).wr 0x3E12_02 1).wr 0x3E12_03 0).failImport) → e.rdp 0x3E10_01 ≠ 0 → e.rdp 0x3E10_03 ≠ 0 →
      exec (.adaptRunStart p) s = s.closing { e with
        batch := { e.batch with pos := 0, step := 1, skips := 0, mom := [], working := [], lastParity := 0 } }) ∧
    (s.dev.passes p 0x3E12_01 0 → s.dev.accessed.rd 0x3E12_02 = 1 →
      s.dev.accessed.formes.any (fun f => f.kind = 9 && f.group.isSome) = false →
      exec (.adaptRunStop p) s = s.closing (s.dev.accessed.runEnds 0)) ∧
    (∀ times, s.dev.rd 0x3E12_02 = 1 → s.dev.building.isSome = true → exec (.adaptBatchBuild times) s = s.after
      ((s.dev.each times Dev.considerSample).passSkips (2 * s.dev.rdp 0x3E10_01 + 1)).close) ∧
    (∀ d b, d = s.dev.passSkips (2 * s.dev.rdp 0x3E10_01 + 1) → d.building = some b → d.rd 0x3E12_02 = 1 →
      exec .sampleDecodeOverBudget s = s.after (Dev.close
        ((((d.excludeSample d.nextSample 3).bump 0x3E13_02).runStatusIs 0x0815).skipSample b d.nextSample 2))) ∧
    (s.dev.passes p 0x3E12_04 1 → exec (.publish p 1) s = s.after (s.dev.accessed.wr 0x3E12_06 1))

/-- O41. A forme commits in the last frame of its group, with no fault and its transfers done (R282, R285): it leaves its
queue, its statistics wait to be folded, its results take their place by kind, and it is counted. -/
def Obligations.FormesCommit : Prop :=
  ∀ (s : State) (id : Nat) (f : Forme) (res : CommitIn), s.dev.forme? id = some f → f.group.isSome = true → f.framesLeft ≤ 1 →
    f.fault = 0 → s.dev.tagsDone f.id = true → (f.kind = 2 → f.ran = true) → s.dev.badBoxes f res = false →
    exec (.formeCommit id res) s =
      s.after (((((s.dev.dropForme id).queueFolds id).commitKind f res).bump 0x2100_03).close)

/-- O42. The PCIe side (R341 to R343, R304): PERST_N falling resets the endpoint outside reset, rising does not; a function
level reset does the same; a link change shows generation and width; bus mastering may be switched at any time outside reset,
and switched on it lets out what was owed, flushes completions, settles the rings and sends what was pending, in no other
stage than Chase, Proof and Press. -/
def Obligations.PcieSide : Prop :=
  ∀ s : State,
    (s.dev.run ≠ .held → exec (.perstN true) s = s.after
      (Dev.close (Dev.pcieBit (Dev.endpointReset { s.dev with host := { s.dev.host with perst := true } })))) ∧
    (exec (.perstN false) s = s.after (Dev.close (Dev.pcieBit { s.dev with host := { s.dev.host with perst := false } }))) ∧
    (s.dev.run ≠ .held → exec .functionLevelReset s = s.after s.dev.endpointReset.close) ∧
    (s.dev.run ≠ .held → ∀ gen width, exec (.pcieLinkChange true gen width) s = s.after (Dev.close (Dev.pcieBit
      ((Dev.wr { s.dev with host := { s.dev.host with linkUp := true } } 0x4000_02 gen).wr 0x4000_03 width)))) ∧
    (s.dev.run ≠ .held → exec (.busMasterEnable false) s = s.after (s.dev.wr 0x4000_04 0)) ∧
    (s.dev.run ≠ .held → ¬(s.dev.run = .on ∧ s.dev.stage ≤ 3) → exec (.busMasterEnable true) s =
      s.after (s.dev.wr 0x4000_04 1)) ∧
    (s.dev.run = .on → s.dev.stage ≤ 3 → exec (.busMasterEnable true) s = s.after (
      let d := s.dev.wr 0x4000_04 1
      let d := { d with out := d.out ++ d.host.owed, host := { d.host with owed := [] } }
      (((List.range 16).foldl Dev.flushList d).settleRings).sendPending))

/-- O43. Entries whose write stores a value or clears counters (R65, R86, R323, R326, R369): a counter of 2403h and the
description selector take the value; a statistics slot returns to its defaults and the error history is emptied, and every
other entry but 4801h:09 keeps its value; a size of the DDR5 layout is kept and the layout looked at. -/
def Obligations.ValuesAndCounters : Prop :=
  ∀ (s : State) (p : Path),
    (∀ i : Fin 2, s.dev.passes p (dkey 0x2403 (i.val + 1)) 0 → exec (.coreCounterClear p (i.val + 1) 0) s =
      s.after (s.dev.accessed.wr (dkey 0x2403 (i.val + 1)) 0)) ∧
    (∀ slot : Fin 64, slot.val ≠ 0 → s.dev.passes p (dkey (0x2440 + slot.val) 10) 1 →
      ∃ t, exec (.statSlotClear p slot 1) s = .next t ∧
        (∀ i, 1 ≤ i → i ≤ 9 →
          t.dev.rd (dkey (0x2440 + slot.val) i) = entryDefault (dkey (0x2440 + slot.val) i) % 2 ^ 64) ∧
        ∀ k, k ≠ 0x4801_09 → (∀ i, 1 ≤ i → i ≤ 9 → k ≠ dkey (0x2440 + slot.val) i) → t.dev.rd k = s.dev.rd k) ∧
    (s.dev.passes p 0x1003_00 0 → ∃ t, exec (.errorHistoryClear p 0) s = .next t ∧
      (∀ i, i ≤ 16 → t.dev.rd (dkey 0x1003 i) = 0) ∧
      ∀ k, k ≠ 0x4801_09 → (∀ i, i ≤ 16 → k ≠ dkey 0x1003 i) → t.dev.rd k = s.dev.rd k) ∧
    (∀ v, v < 2 ^ 32 → s.dev.passes p 0x4812_01 v → exec (.describeSelect p v) s =
      s.after (s.dev.accessed.wrPath p 0x4812_01 v)) ∧
    ∀ (i : Fin 7) (raw : Val), s.dev.passes p (dkey 0x4101 (i.val + 1)) raw.toNat →
      exec (.ddrLayoutSizeWrite p (i.val + 1) raw) s =
        s.closing (s.dev.accessed.wr (dkey 0x4101 (i.val + 1)) raw.toNat).layoutFix

/-- O44. Any dictionary write (R323 to R326, Table 16-4): one that passes every check has its entry's effect and then its
consequences; one that fails a check leaves the abort of the first that failed; in reset nothing answers. Whether a token's
signature verifies is a function of its bytes and of the signer's key (R407); whether a readmission test holds, which the bytes
leave open, is a free value (log entry 30). -/
def Obligations.DictionaryWrites : Prop :=
  ∀ (s : State) (p : Path) (ix sub : Nat) (bs : List Byte) (d : Dev) (ok : Bool),
    (dkey ix sub = 0x4406_02 → d = s.dev ∧ ok = s.dev.tokenSigned bs) →
    (dkey ix sub ≠ 0x4406_02 → openKey (dkey ix sub) = false → d = s.dev ∧ ok = false) →
    (openKey (dkey ix sub) = true → d = s.dev.drawn ∧ ok = s.dev.openFlag) →
    (∀ r, s.dev.run = .on → rowOf (dkey ix sub) = some r → d.serveCode p (dkey ix sub) bs ok = 0 →
      (storesKey (dkey ix sub) = false →
        exec (.dictionaryWrite p ix sub bs) s = .next { s with dev := (d.accessed.accept p (dkey ix sub) r bs ok).close }) ∧
      (storesKey (dkey ix sub) = true →
        exec (.dictionaryWrite p ix sub bs) s = .next { s with dev := (d.accept p (dkey ix sub) r bs ok).close })) ∧
    (∀ code e, s.dev.run = .on → d.serveCode p (dkey ix sub) bs ok = code → code ≠ 0 →
      e = (d.refusalStatus p (dkey ix sub) code).abort p (dkey ix sub) code →
      (p ≠ .mailbox → exec (.dictionaryWrite p ix sub bs) s = .next { s with dev := e.close }) ∧
      (p = .mailbox → exec (.dictionaryWrite p ix sub bs) s = .next { s with dev := e.accessed.close })) ∧
    (s.dev.run ≠ .on → exec (.dictionaryWrite p ix sub bs) s = .next { s with dev := d })

/-- O45. The order of the first checks of a write (Table 16-4, R325): an index that is not there 0602 0000h, a sub-index
0609 0011h, an entry that is read-only 0601 0002h, bytes that are no paired word 0800 0020h, a stage the entry is not
writable in 0800 0022h; each before any check of the value. -/
def Obligations.WritesAreChecked : Prop :=
  ∀ (d : Dev) (p : Path) (key : Nat) (bs : List Byte) (sig : Bool),
    (rowOf key = none → indexExists (keyIx key) = false → d.serveCode p key bs sig = 0x0602_0000) ∧
    (rowOf key = none → indexExists (keyIx key) = true → d.serveCode p key bs sig = 0x0609_0011) ∧
    ∀ r, rowOf key = some r →
      (r.rw = false → d.serveCode p key bs sig = 0x0601_0002) ∧
      (r.rw = true → lengthCode key r bs.length = 0 → r.paired = true → pairOk (ofLe bs) = false →
        d.serveCode p key bs sig = 0x0800_0020) ∧
      (r.rw = true → lengthCode key r bs.length = 0 → (r.paired = false ∨ pairOk (ofLe bs) = true) →
        d.stageOk r = false → d.serveCode p key bs sig = 0x0800_0022)

/-- O46. A refused write, shown on FREQ_REQUEST, changes no entry but the abort record (R323, R325): 4801h:01 counts it, :06 and :07
hold its code and entry; every other value, string and domain reads as before, and the abort goes out. A mailbox request that
is refused has been answered, so it is an access (4801h:09, R338). -/
def Obligations.RefusedWritesChangeNothing : Prop :=
  ∀ (s : State) (p : Path) (v code : Nat), s.dev.run = .on → s.dev.serveCode p 0x2201_01 (valueBytes 0x2201_01 v) false = code →
    code ≠ 0 → ∃ t, exec (.freqRequest p v) s = .next t ∧ t.dev.rd 0x4801_06 = code % 2 ^ 64 ∧ t.dev.rd 0x4801_07 = 0x2201_01 ∧
      (∀ k, k ≠ 0x4801_01 → k ≠ 0x4801_06 → k ≠ 0x4801_07 → (p = .mailbox → k ≠ 0x4801_09) → t.dev.rd k = s.dev.rd k) ∧
      t.dev.dom = s.dev.dom ∧ t.dev.perVal = s.dev.perVal ∧ t.dev.mem = s.dev.mem ∧
      t.dev.out = s.dev.out ++ [.sdoAbort p 0x2201_01 code]

/-- O47. The parameter store (R327 to R329): a save begins, with the groups' values; a restore marks them; a compaction sets
STORE_STATE 2, erases the sectors that hold no generation that is kept, and ends in the state that is left; a store that ends
well becomes the newest generation, one that fails is answered 0606 0000h; wear levelling is one step. -/
def Obligations.ParameterStore : Prop :=
  ∀ (s : State) (p : Path),
    (∀ i : Fin 4, s.dev.passes p (dkey 0x1010 (i.val + 1)) 0x6576_6173 → exec (.paramStoreSave p (i.val + 1) 0x6576_6173) s =
      s.after (s.dev.startSave p (dkey 0x1010 (i.val + 1)) (if i.val = 0 then [2, 3] else if i.val = 3 then [] else [i.val + 1])
        (if i.val = 0 ∨ i.val = 3 then [0, 1, 2, 3] else []))) ∧
    (∀ i : Fin 4, s.dev.passes p (dkey 0x1011 (i.val + 1)) 0x6461_6F6C →
      exec (.paramStoreRestore p (i.val + 1) 0x6461_6F6C) s = .next { s with dev := s.dev.accessed.setNv { s.dev.nv with
        marks := if i.val = 0 then setAdd 4 (setAdd 3 (setAdd 2 s.dev.nv.marks)) else setAdd (i.val + 1) s.dev.nv.marks } }) ∧
    (s.dev.passes p 0x4811_05 1 → exec (.paramStoreCompact p 1) s = s.after
      (Dev.wr { s.dev.accessed with fw := { s.dev.fw with compacting := true } } 0x4811_01 2)) ∧
    (s.dev.fw.compacting = true → s.dev.fw.saving = none →
      ∀ d : Dev, d = { s.dev with fw := { s.dev.fw with compacting := false } } →
      exec .compactionComplete s = .next { s with dev := (d.setStore s.dev.nv.compact).storeIdle }) ∧
    (∀ x, s.dev.fw.saving = some x → ∀ d, d = { s.dev with fw := { s.dev.fw with saving := none } } →
      exec (.paramStoreDone true) s = .next { s with dev := (d.keepGeneration x).storeResponse (some x) true } ∧
      exec (.paramStoreDone false) s = .next { s with dev := d.storeIdle.storeResponse (some x) false }) ∧
    (s.dev.run = .on → s.dev.stage ≤ 3 → exec .paramStoreWearLevel s = .next { s with dev := s.dev.wearStep })

/-- O48. The mailbox (R332, R333): a request whose REQ_SEQ is no paired word, or the one accepted last, is left alone but for
the request area; a new one is accepted and counted, and answered: with an abort, with the bytes read, or by its write. -/
def Obligations.MailboxServes : Prop :=
  ∀ (s : State) (h : Nat) (bs : List Byte) (d : Dev), d = { s.dev with host := { s.dev.host with request := h, requestData := bs } } →
    ((pairedAt h 448).2 = false ∨ (pairedAt h 448).1 = s.dev.host.lastReq → exec (.mailboxWrite h bs) s =
      .next { s with dev := d.close }) ∧
    (∀ e, s.dev.run = .on → s.dev.host.perst = false → (pairedAt h 448).2 = true → (pairedAt h 448).1 ≠ s.dev.host.lastReq →
      e = Dev.bump { d with host := { d.host with lastReq := (pairedAt h 448).1 } } 0x4801_02 →
      (∀ code, requestCode h = code → code ≠ 0 → exec (.mailboxWrite h bs) s =
        .next { s with dev := (e.mailReply code [] false).close }) ∧
      (requestCode h = 0 → bits h 295 292 = 2 → exec (.mailboxWrite h bs) s =
        .next { s with dev := (e.mailboxWriteDo h bs).close }) ∧
      (requestCode h = 0 → bits h 295 292 = 1 → bs = [] → exec (.mailboxRead h) s =
        .next { s with dev := e.mailboxReadDo h }))

/-- O49. Process data (R334, R335): in Operational an RxPDO with enough bytes is split into its entries' values in mapping order,
each taken; SYNC counts and sends the TxPDOs due; the cycle of the sync type in force sends every assigned TxPDO of EtherCAT, in
SAFEOP and OP; the event timer sends one. -/
def Obligations.ProcessDataCycles : Prop :=
  ∀ s : State,
    (∀ p bs, s.dev.rxRuns p = true → ((s.dev.mapped 0x1600).map mapSize).sum ≤ bs.length →
      s.dev.tickMoves (splitPdo (s.dev.mapped 0x1600) bs) = false → exec (.rxpdoReceived p bs) s =
        s.after (s.dev.each (splitPdo (s.dev.mapped 0x1600) bs) (fun d v => d.rxValue p v.1 v.2)).close) ∧
    (s.dev.canRuns = true → exec (.pdoCycle .sync) s = s.after s.dev.syncCycle) ∧
    (∀ t, t = .sync0 ∨ t = .smEvent ∨ t = .freeRun → s.dev.run = .on → s.dev.net.al = .safeop ∨ s.dev.net.al = .op →
      (s.dev.ecatCycle t = true → exec (.pdoCycle t) s = s.after s.dev.syncManagerCycle) ∧
      (s.dev.ecatCycle t = false → exec (.pdoCycle t) s = .next s)) ∧
    (∀ n : Fin 8, s.dev.canRuns = true → s.dev.tpdoOn n.val = true → s.dev.rd (dkey (0x1800 + n.val) 2) = 254 →
      s.dev.rd (dkey (0x1800 + n.val) 5) ≠ 0 → s.dev.inhibitOver n.val = true →
      exec (.pdoCycle (.eventTimer n)) s = s.after (s.dev.sendTpdo n.val))

/-- O50. Every value that a TxPDO carries is the snapshot's (R334): two devices with equal snapshots and mappings send the same
bytes, whatever their entries hold now. -/
def Obligations.PdosCarryTheSnapshot : Prop :=
  ∀ (d e : Dev) (p : Path) (n : Nat), d.net.snapshot = e.net.snapshot → (∀ sub, d.rd (dkey (0x1A00 + n) sub) = e.rd (dkey (0x1A00 + n) sub)) →
    d.pdoBytes p n = e.pdoBytes p n

/-- O51. No process data outside Operational (R330, R331, R334): with NMT not operational a SYNC sends nothing, and with the
controller not in OP an RxPDO of EtherCAT changes nothing but what follows every such command. -/
def Obligations.ProcessDataNeedsOperational : Prop :=
  ∀ s : State,
    (s.dev.net.nmt ≠ 5 → exec (.pdoCycle .sync) s = .next s) ∧
    (s.dev.net.nmt ≠ 5 → ∀ n, exec (.pdoCycle (.eventTimer n)) s = .next s) ∧
    (s.dev.net.al ≠ .op → ∀ bs, exec (.rxpdoReceived .ecat bs) s = s.after s.dev.close) ∧
    (s.dev.net.nmt ≠ 5 → ∀ bs, exec (.rxpdoReceived .can bs) s = s.after s.dev.close)

/-- O52. The field buses (R330, R331, R337, R339, R400): the oldest waiting emergency goes out when the inhibit time ends; a
heartbeat carries the NMT state; an NMT command sets it; reset communication brings stored bus parameters back, and
pre-operational; an allowed AL state is taken, another answered 0011h; FoE writes a load, and answers a name it does not
know; a domain transfer that stalls is dropped. -/
def Obligations.FieldBuses : Prop :=
  ∀ s : State,
    (∀ e es, s.dev.net.emcyQueue = e :: es → exec .emcyInhibitExpiry s =
      s.after (Dev.sendEmcy { s.dev with net := { s.dev.net with emcyQueue := es } } e)) ∧
    (s.dev.run = .on → s.dev.ready 28 = true → s.dev.rd 0x1017_00 ≠ 0 → exec .heartbeat s =
      s.after (s.dev.emit (.heartbeat s.dev.net.node s.dev.net.nmt))) ∧
    (s.dev.run = .on → s.dev.ready 28 = true →
      exec (.nmtStateCommand .start) s = s.after { s.dev with net := { s.dev.net with nmt := 5 } } ∧
      exec (.nmtStateCommand .stop) s = s.after { s.dev with net := { s.dev.net with nmt := 4 } } ∧
      exec (.nmtStateCommand .preOperational) s = s.after { s.dev with net := { s.dev.net with nmt := 127 } }) ∧
    (s.dev.run = .on → s.dev.stage ≤ 3 → ∀ d, d = s.dev.storedNet.cobDefaults →
      exec .nmtResetCommunication s = s.after (Dev.setReady
        { d with net := { d.net with nmt := 127, node := d.rd 0x4810_01, canMode := d.rd 0x4810_02,
                                     bitRate := d.rd 0x4810_03, dataRate := d.rd 0x4810_04 } } 28
        (d.rd 0x4810_02 ≠ 0 && !d.looped 0x52))) ∧
    (s.dev.run = .on → ∀ x,
      (s.dev.alAllowed x = true → exec (.ecatStateRequest x) s =
        s.after (Dev.emit { s.dev with net := { s.dev.net with al := x, alCode := 0 } } (.alStatus x 0))) ∧
      (s.dev.alAllowed x = false → exec (.ecatStateRequest x) s =
        s.after (Dev.emit { s.dev with net := { s.dev.net with alCode := 0x0011 } } (.alStatus s.dev.net.al 0x0011)))) ∧
    (s.dev.run = .on → s.dev.stage ≠ 4 → ∀ name,
      (∀ t, foeTarget name = some t → exec (.foeWrite name) s = s.after (s.dev.foeLoad t)) ∧
      (foeTarget name = none → exec (.foeWrite name) s = s.after (s.dev.emit (.foeError 0x8001)))) ∧
    (s.dev.run = .on → ∀ p ix sub, dkey ix sub ≠ 0x4403_02 → dkey ix sub ≠ 0x4410_01 →
      exec (.sdoTransferTimeout p ix sub) s = s.after (Dev.close (Dev.abort
        { s.dev with net := { s.dev.net with
          staging := s.dev.net.staging.filter (fun x => !(x.1 = p && x.2.1 = dkey ix sub)) } } p (dkey ix sub) 0x0504_0000)))

/-- O53. Host words and reads (R344, R345, R354, R355, R360): a poll takes the lists' words, then the rings', then the
pass-through rings', each in ascending number; a failed read is kept for its retries 1 ms apart and counted, and one that succeeds is forgotten. -/
def Obligations.HostWords : Prop :=
  ∀ s : State,
    (s.dev.busOn = true → ∀ x : PollIn, exec (.hostPoll x) s = s.after (Dev.close
      (((s.dev.each (inOrder x.listWords) (Dev.pollList x.descs)).each (inOrder x.ringWords) Dev.pollRing).each
        (inOrder x.passWords) Dev.pollPass))) ∧
    (∀ w f, (∀ r ∈ s.dev.host.reads, r.what ≠ w) → exec (.hostReadCompletion w f) s = s.after
      { s.dev with host := { s.dev.host with reads := s.dev.host.reads ++ [⟨w, 1, s.dev.now + 1000000⟩] } }) ∧
    (∀ w r, s.dev.host.reads.find? (fun q => q.what = w) = some r → ∀ d others, d = s.dev.bump 0x4000_08 →
      others = s.dev.host.reads.filter (fun q => q.what ≠ w) →
      exec (.hostReadRetry w none) s = s.after (Dev.close { d with host := { d.host with reads := others } }) ∧
      (∀ f, r.tries < 2 → exec (.hostReadRetry w (some f)) s = s.after (Dev.close
        { d with host := { d.host with reads := others ++ [⟨w, r.tries + 1, d.now + 1000000⟩] } })) ∧
      (∀ f, 2 ≤ r.tries → exec (.hostReadRetry w (some f)) s = s.after (d.failRead w).close))

/-- O54. Messages, enables, pass-through and BAR2 (R342, R354, R359, Tables 17-1, 17-8): a held source sends at the end of its
holdoff; an unmasked vector with its pending bit set is sent; a ring or list that is enabled starts from zero with its host
word written, a ring with its vector behind it; a line whose bytes fit the pass-through ring goes out; a BAR2 read within the
installed DDR5 returns its bytes, what it met of errors counted (R365, R367), another Unsupported Request; a BAR2 write is
counted and dropped. -/
def Obligations.HostInterface : Prop :=
  ∀ (s : State) (p : Path),
    (∀ x, x ∈ s.dev.host.heldMsgs → exec (.msixHoldoffExpiry x) s = s.after (s.dev.sendMsg x)) ∧
    (∀ v : Fin 64, exec (.msixUnmask v) s =
      s.after (Dev.sendPending { s.dev with host := { s.dev.host with unmasked := setAdd v.val s.dev.host.unmasked } })) ∧
    (∀ r : Fin 16, s.dev.passes p (dkey (0x4030 + r.val) 11) 1 → s.dev.accessed.on? (dkey (0x4030 + r.val) 11) = false →
      ∀ d, d = s.dev.accessed.wr (dkey (0x4030 + r.val) 11) 1 → exec (.ringEnable p r) s = s.closing
        (((d.setRing r.val (if d.pages.any (fun q => q.ring = r.val && !q.released)
            then ⟨0, 0, (d.ring r.val).counter, (d.ring r.val).start⟩ else ⟨0, 0, 0, 0⟩)).hostWrite
          (d.addrPair (0x4030 + r.val) 4) (leBytes 8 (pairOf 0))).notify (.ring r))) ∧
    (∀ n : Fin 16, s.dev.passes p (dkey (0x4010 + n.val) 11) 1 → s.dev.accessed.on? (dkey (0x4010 + n.val) 11) = false →
      ∀ d, d = s.dev.accessed.wr (dkey (0x4010 + n.val) 11) 1 → exec (.jobListEnable p n) s = s.closing
        (((d.setList n.val ListRt.init).wr (dkey (0x4010 + n.val) 12) 0).hostWrite (d.addrPair (0x4010 + n.val) 6)
          (leBytes 8 (pairOf 0)))) ∧
    (∀ (ch : Fin 4) bs r, (s.dev.chan ch.val).fifo = bs :: r → s.dev.busOn = true → bs.length ≤ s.dev.passFree ch.val →
      ∀ x prod d, x = s.dev.pass ch.val → prod = (x.produced + bs.length) % 2 ^ 32 →
      d = Dev.updChan { s.dev with out := s.dev.out ++
          (ringWrites (s.dev.addrPair (passIx ch.val) 2) (s.dev.passSize ch.val) x.produced bs ++
            [Out.hostWrite (s.dev.addrPair (passIx ch.val) 4) (leBytes 8 (pairOf prod))]) } ch.val (fun c => { c with fifo := r }) →
      exec (.passthroughDrain ch) s =
        s.after (((d.setPass ch.val { x with produced := prod }).bump (dkey (passIx ch.val) 13)).notify (.pass ch)).fiAll) ∧
    (s.dev.run ≠ .held → ∀ o n met,
      (o + n ≤ s.dev.ddrBytes → exec (.bar2Read o ⟨n, met⟩) s =
        s.after ((s.dev.ddrMet met).emit (.bar2Data (memBytes s.dev.mem (ddrBase + o) n)))) ∧
      (s.dev.ddrBytes < o + n → exec (.bar2Read o ⟨n, met⟩) s = s.after (s.dev.emit .unsupportedRequest)) ∧
      ∀ bs, exec (.bar2Write o bs) s = s.after (s.dev.bump 0x4000_0B))

/-- O55. Jobs (R45, R346 to R353, Table 17-4): the oldest fetched entry of the kind, with its checks passed, is carried out on
the bytes of its buffers: an image is numbered, text is tokenised into host memory, a sample is stored, a template is shaped
and built or imported, or emptied, requests are stored, a load begins; one that names host memory with bus mastering off is
refused with 04E0h. -/
def Obligations.JobsRun : Prop :=
  ∀ (s : State) (n : Fin 16) (e : JobEntry), s.dev.run = .on → s.dev.stage ≤ 3 →
    (s.dev.on? 0x4000_04 = false → namesHost e.desc = true →
      (s.dev.nextEntry n (fun w => jobKind w = 6) = some e →
        exec (.jobLoad n) s = s.after (s.dev.refuseEntry n e.k 0x04E0).close) ∧
      ∀ mesh, s.dev.nextEntry n (fun w => jobKind w = 1) = some e →
        exec (.jobImage n mesh) s = s.after (s.dev.refuseEntry n e.k 0x04E0).close) ∧
    (s.dev.on? 0x4000_04 = true ∨ namesHost e.desc = false →
    (∀ mesh m, m = mesh.take (auxLen e.desc) → s.dev.nextEntry n (fun w => jobKind w = 1) = some e →
      auxLen e.desc = 0 ∨ meshOk m = true →
      bits e.desc 809 806 = 0 → s.dev.ready 3 = true → s.dev.leavePending = false →
      exec (.jobImage n mesh) s = s.after (s.dev.numberImage n e m).close) ∧
    (∀ text t d, s.dev.nextEntry n (fun w => jobKind w = 2) = some e → s.dev.fountStatus (bits e.desc 895 893) = 0 →
      48 * descLen e.desc ≤ auxLen e.desc → s.dev.ready 34 = true →
      t = s.dev.tokensOf (bits e.desc 895 893) (text.take (descLen e.desc)) → d = s.dev.countTokens t →
      (t.1 = [] → exec (.jobTokenise n text) s = s.after (d.completeEntry n e.k (textStatus t) 0).close) ∧
      (t.1 ≠ [] → exec (.jobTokenise n text) s = s.after (Dev.close
        ((d.hostWrite (bits e.desc 159 128 + 2 ^ 32 * bits e.desc 95 64) (tokenBytes t.1)).completeEntry n e.k (textStatus t)
          t.1.length)))) ∧
    (∀ img text t place, s.dev.nextEntry n (fun w => jobKind w = 3) = some e → s.dev.fountStatus (bits e.desc 812 810) = 0 →
      bits e.desc 809 802 = 255 → s.dev.rd 0x3E12_02 = 0 →
      t = s.dev.tokensOf (bits e.desc 812 810) (text.take (auxLen e.desc)) →
      t.1.length < 65536 → s.dev.samplePlace (bits e.desc 831 816) (roundUp64 (descLen e.desc) + 4 * t.1.length) = some place →
      s.dev.ready 34 = true → s.dev.ready 38 = true → s.dev.ddrReady = true →
      exec (.jobSample n img text) s = s.after (Dev.close
        (((s.dev.storeSample e img t.1 place).countTokens t).completeEntry n e.k (textStatus t) t.1.length))) ∧
    (∀ text t, t = s.dev.tokensOf (bits e.desc 884 882) (text.take (descLen e.desc)) →
      (∀ x ∈ s.dev.templateStatus e.desc t.1.length, x = 0) →
      (s.dev.nextEntry n (isTemplate false false) = some e → exec (.jobTemplateBuild n text) s = s.after (Dev.close
        ((((s.dev.countTokens t).shapeTemplate e.desc t.1.length).buildTemplate (bits e.desc 895 888)).awaitTemplate n e
          (textStatus t)))) ∧
      (s.dev.nextEntry n (isTemplate false true) = some e → exec (.jobTemplateImport n text) s = s.after (Dev.close
        (((s.dev.countTokens t).awaitTemplate n e (textStatus t)).startImport (bits e.desc 895 888) (bits e.desc 879 872)
          t.1.length (bits e.desc 887 885))))) ∧
    (s.dev.nextEntry n (isTemplate true false) = some e → s.dev.templateNamed (bits e.desc 895 888) = false →
      s.dev.ready 33 = true → s.dev.ready 34 = true → s.dev.ready 37 = true →
      exec (.jobTemplateClear n) s = s.after ((s.dev.emptyTemplate (bits e.desc 895 888)).completeEntry n e.k 0 0).close) ∧
    (∀ table u, u = table.take (descLen e.desc) → s.dev.nextEntry n (fun w => jobKind w = 5) = some e →
      s.dev.slotInUse (bits e.desc 895 892) = false → (∀ x ∈ tableEntries u, s.dev.tableEntryStatus x = 0) →
      s.dev.ready 34 = true → exec (.jobRequests n table) s = s.after
        ((s.dev.storeTable (bits e.desc 895 892) u).completeEntry n e.k 0 (u.length / 1152)).close) ∧
    (s.dev.nextEntry n (fun w => jobKind w = 6) = some e → s.dev.loadCheck (bits e.desc 895 888) = 0 →
      exec (.jobLoad n) s =
        s.after (((s.dev.startLoad (bits e.desc 895 888) none false (some (n, e.k))).working n e.k).close)))

/-- O56. Fabric ports (R376 to R378, R383, Table 19-7): FABRIC_ENABLE 1 trains the ports of FABRIC_PORTS from Proof on; an
aligned port sends its exchange, and one whose neighbour agrees with the configuration is up, one whose does not is in state 4
with 0602h; a port that is down trains again; lost alignment or a silent link takes it down; a packet whose CRC fails is counted, and a replay asked
for. -/
def Obligations.FabricPorts : Prop :=
  ∀ (s : State) (p : Path) (port : Fin 4),
    (s.dev.passes p 0x4200_04 1 → ∀ d, d = s.dev.accessed.wr 0x4200_04 1 →
      (2 ≤ d.stage → exec (.fabricEnable p) s = s.closing d.trainPorts) ∧
      (d.stage < 2 → exec (.fabricEnable p) s = s.closing d)) ∧
    (s.dev.portState port.val = 1 → s.dev.looped (0x40 + port.val) = false → ∀ nb x y (f : Fin 4) d,
      d = (s.dev.emit (.exchange port.val s.dev.here s.dev.sizeX s.dev.sizeY)).wr (dkey (portIx port.val) 2) nb →
      (x = d.sizeX → y = d.sizeY → f.val = (port.val + 2) % 4 → nb = d.neighbourAt port.val →
        exec (.fabricPortAligned port nb x y f) s = s.after (Dev.close
          (((d.wr (dkey (portIx port.val) 1) 2).setPort port.val PortSt.init).setReady (29 + port.val) true))) ∧
      (x ≠ d.sizeX → exec (.fabricPortAligned port nb x y f) s =
        s.after (((d.wr (dkey (portIx port.val) 1) 4).fabStatus 0x0602).event 0x0602 0).close)) ∧
    (2 ≤ s.dev.stage → s.dev.run = .on → s.dev.on? 0x4200_04 = true → bit (s.dev.rd 0x4201_01) port.val = true →
      s.dev.portState port.val = 3 → s.dev.looped (0x40 + port.val) = false →
      exec (.fabricRetrain port) s = s.after (s.dev.wr (dkey (portIx port.val) 1) 1)) ∧
    exec (.fabricAlignmentLost port) s = s.after (s.dev.portDown port.val).close ∧
    exec (.fabricLinkSilent port) s = s.after (s.dev.portDown port.val).close ∧
    (s.dev.portState port.val = 2 → exec (.fabricCrcMismatch port) s = s.after (Dev.sendLink
      ((s.dev.bump (dkey (portIx port.val) 5)).setPort port.val { s.dev.port port.val with dropping := true }) port.val [] 1))

/-- O57. Fabric packets (R379 to R382, R384 to R395): credits return with a LINK packet; a packet for another device goes on by
the next port, its slot kept until it has gone; one for this device, in LINK_SEQ order, is taken, its slot freed, and has the
effect of its type: a write into its window, an answer to the request of its tag, a grant, its end, an adapter request or its
data; an answer settles the backlog's packets that have no way left (0603h). A response that does not come ends its request with 0604h; a window not full by its deadline is revoked; an import asks
its source. -/
def Obligations.FabricPackets : Prop :=
  ∀ (s : State) (port : Fin 4) (pk : PacketIn) (h : Hdr), h = hdrOf pk.header →
    (s.dev.portState port.val = 2 → h.ty = 0 → h.status ≠ 1 → ∀ c q u, c = h.window * 2 ^ 16 + h.offset / 2 ^ 18 →
      q = s.dev.port port.val →
      u = (List.range 6).foldl (fun m k => kvPut 0 m k (kvGet 0 q.used k - c / 16 ^ k % 16)) q.used →
      exec (.fabricLinkReceived port pk) s =
        s.after ((s.dev.setPort port.val { q with used := u }).drainPort port.val)) ∧
    (∀ d out, s.dev.portState port.val = 2 → h.seq = ((s.dev.port port.val).lastRx + 1) % 4096 → h.ty ≠ 0 → h.ty < 8 →
      h.dest ≠ s.dev.here → d = s.dev.numbered port.val pk → d.outPort h.dest = some out →
      exec (.fabricPacketForward port pk) s = s.after (d.sendOn out
        ⟨Hdr.word { h with cls := d.outClass (some port.val) out h.cls }, pk.payload⟩ (1 + 8 * port.val + 2 * h.vc + h.cls))) ∧
    (∀ d, d = s.dev.arrived port.val pk →
      (s.dev.inOrder port.val pk 1 → exec (.fabricWriteReceived port pk) s = s.after (d.windowWrite h pk.payload).close) ∧
      (s.dev.inOrder port.val pk 2 → ∀ o, d.answered h true = some o →
        exec (.fabricWriteRespReceived port pk) s = s.after (d.answerWrite o h.status).backlogSettled.close) ∧
      (s.dev.inOrder port.val pk 3 → grantWordOk (pk.payload.headD 0) = true →
        (d.bump 0x4210_03).grantMatches (pk.payload.headD 0) = true → exec (.fabricGrantReceived port pk) s = s.after
          (((d.bump 0x4210_03).takeGrant h.source h.window (pk.payload.headD 0)).respond h 0).close) ∧
      (s.dev.inOrder port.val pk 4 → grantWordOk (pk.payload.headD 0) = true → exec (.fabricCloseReceived port pk) s =
        s.after ((d.dropGrant h.source h.window (pk.payload.headD 0)).respond h 0).close) ∧
      (s.dev.inOrder port.val pk 5 →
        exec (.fabricAdapterReqReceived port pk) s = s.after ((d.respond h 0).sendAdapter h.source)) ∧
      (s.dev.inOrder port.val pk 6 →
        exec (.fabricAdapterDataReceived port pk) s = s.after (d.adapterPacket h pk.payload).close) ∧
      (s.dev.inOrder port.val pk 7 → ∀ o, d.answered h false = some o →
        exec (.fabricMgmtRespReceived port pk) s = s.after (d.answerMgmt o h.status).backlogSettled.close)) ∧
    (∀ o tag d, s.dev.fabric.outstanding.find? (fun o => o.tag = tag) = some o → d = (s.dev.bump 0x4210_05).fabStatus 0x0604 →
      (o.ty = 1 → exec (.fabricRespTimeout tag) s = s.after (d.giveUpGrant o).backlogSettled.close) ∧
      (o.ty = 5 → exec (.fabricRespTimeout tag) s = s.after (d.freeEntry tag).failImport.backlogSettled.close) ∧
      (o.ty = 6 → exec (.fabricRespTimeout tag) s = s.after ((d.freeEntry tag).stopSeries o.dest).backlogSettled.close)) ∧
    (∀ tag, s.dev.fabric.outstanding.find? (fun o => o.tag = tag) = none → s.dev.fabric.adapterTag = some tag →
      exec (.fabricRespTimeout tag) s = s.after s.dev.failImport.close) ∧
    (∀ w : Fin 256, (s.dev.window w.val).isOpen = true → (s.dev.window w.val).template ≠ 255 →
      (s.dev.window w.val).full = false → exec (.windowDeadline w) s = s.after (s.dev.revoke w.val false).close) ∧
    ∀ p dev, dev < 256 → s.dev.passes p 0x4211_01 dev →
      ∀ d : Dev, d = (s.dev.accessed.wr 0x4211_01 dev).wr 0x4211_02 1 →
      ∀ e : Dev, e = { d with fabric := { d.fabric with adapterIn := [], adapterHead := none, adapterTag := none } } →
        ((e.outPort dev).isSome = true → exec (.adapterImportFrom p dev) s = s.after (e.sendMgmt 5 dev 0 0 0 [])) ∧
        ((e.outPort dev).isSome = false → exec (.adapterImportFrom p dev) s = s.after (e.fabStatus 0x0603).failImport)

/-- O58. Loads and firmware (R397 to R405): a manifest is checked, a whole load finished; a written slot is valid or rejected;
ACTIVATE makes a slot the one on trial; CONFIRM ends the trial and raises the least security version; a trial not confirmed
in its time is reported once; a recovery piece in order goes to flash. -/
def Obligations.LoadsAndFirmware : Prop :=
  ∀ s : State,
    (∀ t c l, s.dev.loadOf t = some l → l.manifest = none → exec (.loadManifestReceived t c) s =
      .next { s with dev := (s.dev.checkManifest l c).close }) ∧
    (∀ t c l d, d = loadManifestReceived t c s.dev → d.loadOf t = some l → exec (.loadComplete t c) s =
      .next { s with dev := (d.finishLoad l c).close }) ∧
    (∀ ok l c, s.dev.fw.building = some (l, c) →
      (s.dev.builtStatus ok c = 0 → exec (.fwSlotWritten ok) s = .next { s with dev := Dev.close (
        let d := s.dev.setNv (s.dev.nv.setSlot (1 - s.dev.fw.running) ⟨2, s.dev.builtImage c⟩)
        Dev.endLoad { d with fw := { d.fw with building := none } } l 0 (ckTotal c)) }) ∧
      (∀ st, s.dev.builtStatus ok c = st → st ≠ 0 → exec (.fwSlotWritten ok) s = .next { s with dev := Dev.close (
        let d := s.dev.setNv (s.dev.nv.setSlot (1 - s.dev.fw.running) ⟨5, none⟩)
        Dev.endLoad { d with fw := { d.fw with building := none } } l st (ckTotal c)) })) ∧
    (∀ p (v : Fin 2), s.dev.passes p 0x4402_01 v.val → exec (.fwActivate p v.val) s =
      .next { s with dev := s.dev.accessed.setNv (s.dev.nv.write ⟨0, v.val, true, 0, true, false⟩) }) ∧
    (∀ p, s.dev.passes p 0x4402_02 1 → s.dev.onTrial = true → s.dev.nv.record.gen + 1 < 2 ^ 32 → ∃ t, exec (.confirm p 1) s = .next t ∧
      t.dev.nv.minSv = max s.dev.nv.minSv s.dev.runningImage.securityVersion ∧ t.dev.nv.record.trial = false ∧
      t.dev.nv.record.active = s.dev.nv.record.active ∧ t.dev.ready 41 = true) ∧
    (s.dev.run = .on → s.dev.onTrial = true → s.dev.fw.trialRaised = false → exec .trialTimeout s =
      s.after (Dev.event { s.dev with fw := { s.dev.fw with trialRaised := true } } 0x070D 0)) ∧
    (s.dev.run = .on → s.dev.stage = 4 → ∀ p o bs, o = s.dev.fw.recoveryNext → o ≠ 0 → o + bs.length ≤ fwSlotBytes →
      (p ≠ .ecat ∨ s.dev.net.al = .boot) → ∀ d, d = Dev.recoveryShows { s.dev with fw := { s.dev.fw with
        recoveryNext := o + bs.length, recoveryBytes := s.dev.fw.recoveryBytes ++ bs } } 1 0 →
      exec (.recoveryImageWrite p o bs none) s = .next { s with dev := d } ∧
      ∀ c, exec (.recoveryImageWrite p o bs (some c)) s = .next { s with dev := d.recoveryDone c })

/-- O59. Attestation, debug and owner keys (R406 to R409): ATTEST counts and signs the report with the path's nonce; a token
whose signature and contents pass grants its scopes for its time and draws a new challenge; the grants that end first go, and
LOCK ends all; PROGRAM puts a key into its empty slot and REVOKE sets its bit. -/
def Obligations.Security : Prop :=
  ∀ (s : State) (p : Path),
    (s.dev.passes p 0x4405_02 1 → ∀ d msg, d = s.dev.accessed.bump 0x4405_04 →
      msg = leBytes 64 d.reportFixed ++ fixBytes 32 (d.rdPathDom p 0x4405_01) ++ fixBytes 32 Config.identityPublic ++
        fixBytes 64 d.runningImage.digest ++ d.activeDigest ++ d.textDigest →
      exec (.attestRequest p 1) s = s.after (d.wrPathDom p 0x4405_03 (msg ++ fixBytes 64 (Config.sign msg)))) ∧
    (∀ token signature bs, bs = token ++ signature → s.dev.run = .on →
      s.dev.serveCode p 0x4406_02 bs (s.dev.tokenSigned bs) = 0 →
      exec (.tokenWrite p token signature) s = s.after (s.dev.accessed.grantToken bs)) ∧
    (∀ g r, s.dev.fw.grants = g :: r → exec .debugGrantExpiry s = s.after { s.dev with fw := { s.dev.fw with
      grants := s.dev.fw.grants.filter (fun e => e.2 ≠ r.foldl (fun m e => min m e.2) g.2) } }) ∧
    (s.dev.passes p 0x4406_05 1 → exec (.debugLock p 1) s =
      s.after { s.dev.accessed with fw := { s.dev.fw with grants := [] } }) ∧
    (∀ bs, s.dev.run = .on → s.dev.serveCode p 0x4407_09 bs false = 0 → ∃ t, exec (.ownerKeyProgram p bs) s = .next t ∧
      kvGet [] t.dev.nv.ownerKeys (ownerSlot bs) = bs.drop 1 ∧
      ∀ k, k ≠ ownerSlot bs → kvGet [] t.dev.nv.ownerKeys k = kvGet [] s.dev.nv.ownerKeys k) ∧
    (∀ v : Fin 8, s.dev.passes p 0x4407_0A v.val → ∃ t, exec (.ownerKeyRevoke p v.val) s = .next t ∧
      t.dev.nv.ownerRevoked.testBit v.val = true ∧
      ∀ k, k ≠ v.val → t.dev.nv.ownerRevoked.testBit k = s.dev.nv.ownerRevoked.testBit k)

/-- O60. Test (R410 to R420, Table 21-3): loopbacks start, lock on 64 bits or more of every lane that are its generator's, run out
and stop with their results; a PCIe loopback entry is counted; the dies that a galley test names start theirs; each JTAG
instruction is shifted in, IDCODE answers 1086_0A7Bh, a debug port opens under a grant of its scope only. -/
def Obligations.TestAccess : Prop :=
  ∀ s : State,
    (∀ p (e : Fin 4), s.dev.passes p (dkey (0x4610 + e.val) 6) 1 →
      exec (.loopbackStart p e) s = s.closing (s.dev.accessed.loopbackStart e.val)) ∧
    (∀ p (e : Fin 4), s.dev.passes p (dkey (0x4610 + e.val) 6) 0 →
      exec (.loopbackStop p e) s = s.closing (s.dev.accessed.loopbackStop e.val)) ∧
    (∀ (e : Fin 4) l, s.dev.loopOf e.val = some l →
      (∀ lanes, s.dev.locksOn l ⟨e, lanes⟩ = true → exec (.loopbackLock ⟨e, lanes⟩) s =
        s.after { s.dev with test := { s.dev.test with
          loops := kvInsert s.dev.test.loops e.val { l with locked := true } } }) ∧
      (∀ lanes, s.dev.locksOn l ⟨e, lanes⟩ = false → exec (.loopbackLock ⟨e, lanes⟩) s = .next s) ∧
      (l.locked = false → exec (.loopbackLockTimeout e) s =
        s.after (s.dev.loopEnds e.val l 3 (lbStatus l.target + 1)).close) ∧
      ∀ n m f, exec (.loopbackDurationEnd e n m f) s = s.after (s.dev.loopResult e.val l n m f).close) ∧
    exec .pcieLoopbackEntry s = s.after { s.dev with test := { s.dev.test with pcieEntries := s.dev.test.pcieEntries + 1 } } ∧
    (∀ p v, v < 64 → s.dev.passes p 0x4600_01 v → exec (.galleyTestRequest p v) s = s.after (s.dev.accessed.galleyTestDo v)) ∧
    exec .jtagIdcode s = s.after ((s.dev.setIr 0x01).emit (.jtag 0x1086_0A7B)) ∧
    exec .jtagSamplePreload s = s.after (s.dev.setIr 0x02) ∧
    exec .jtagExtest s = s.after (s.dev.setIr 0x03).jtagShutdown ∧
    exec .jtagClamp s = s.after (s.dev.setIr 0x04).jtagShutdown ∧
    exec .jtagHighz s = s.after (s.dev.setIr 0x05).jtagShutdown ∧
    exec .jtagBypass s = s.after (s.dev.setIr 0xFF) ∧
    ∀ port, ((s.dev.setIr 0x80).scopeOn 0 = true →
        exec (.jtagDebugAccess port) s = s.after ((s.dev.setIr 0x80).emit (.debugAccess port))) ∧
      ((s.dev.setIr 0x80).scopeOn 0 = false → exec (.jtagDebugAccess port) s = s.after (s.dev.setIr 0x80))
end

