-- ==== Sys2Proof/Laws/Bits.lean ====
section
/-! SUPPORT. The laws of single bits of a word. -/

namespace Sys2Proof.Laws

open Sys2Proof.Machine

/-- A bit that is set reads as it was set. -/
theorem setBit_testBit (w b : Nat) (v : Bool) : (setBit w b v).testBit b = v := by
  unfold setBit
  cases v <;> cases h : w.testBit b <;> simp [h, Nat.add_comm w, Nat.testBit_two_pow_add_eq]
  obtain ⟨u, hu⟩ : ∃ u, w = 2 ^ b + u := ⟨w - 2 ^ b, by have := Nat.ge_two_pow_of_testBit h; omega⟩
  subst hu
  rw [Nat.testBit_two_pow_add_eq] at h
  simpa using h

/-- Adding a power of two whose bit is clear changes that bit alone. -/
theorem add_two_pow_testBit {u b c : Nat} (hu : u.testBit b = false) (h : c ≠ b) : (2 ^ b + u).testBit c = u.testBit c := by
  have hpow : 2 ^ (b + 1) = 2 * 2 ^ b := by rw [Nat.pow_succ, Nat.mul_comm]
  have hpos : 0 < 2 ^ b := Nat.two_pow_pos b
  have hlo : u % 2 ^ (b + 1) < 2 ^ b := by
    have hb : (u % 2 ^ (b + 1)).testBit b = false := by rw [Nat.testBit_mod_two_pow]; simp [hu]
    by_contra hge
    have hlt : u % 2 ^ (b + 1) < 2 ^ (b + 1) := Nat.mod_lt _ (Nat.two_pow_pos _)
    obtain ⟨x, hx⟩ : ∃ x, u % 2 ^ (b + 1) = 2 ^ b + x := ⟨u % 2 ^ (b + 1) - 2 ^ b, by omega⟩
    rw [hx, Nat.testBit_two_pow_add_eq, Nat.testBit_lt_two_pow (by omega)] at hb
    simp at hb
  have hd := Nat.div_add_mod u (2 ^ (b + 1))
  rw [← hd, show 2 ^ b + (2 ^ (b + 1) * (u / 2 ^ (b + 1)) + u % 2 ^ (b + 1)) =
    2 ^ (b + 1) * (u / 2 ^ (b + 1)) + (2 ^ b + u % 2 ^ (b + 1)) by omega,
    Nat.testBit_two_pow_mul_add _ (by omega), Nat.testBit_two_pow_mul_add _ (by omega)]
  split
  · exact Nat.testBit_two_pow_add_gt (by omega) _
  · rfl

/-- Every other bit reads as before. -/
theorem setBit_testBit_other (w : Nat) {b c : Nat} (v : Bool) (h : c ≠ b) : (setBit w b v).testBit c = w.testBit c := by
  unfold setBit
  cases v <;> cases hb : w.testBit b <;> simp [Nat.add_comm w]
  · obtain ⟨u, hu⟩ : ∃ u, w = 2 ^ b + u := ⟨w - 2 ^ b, by have := Nat.ge_two_pow_of_testBit hb; omega⟩
    subst hu
    rw [Nat.testBit_two_pow_add_eq] at hb
    rw [Nat.add_sub_cancel_left, add_two_pow_testBit (by simpa using hb) h]
  · exact add_two_pow_testBit hb h

end Sys2Proof.Laws
end

