-- ==== Sys2Proof/Laws/Maps.lean ====
section
/-! SUPPORT. The laws of the sparse maps: a read after a write, a read of another key, and the canonical form. -/

namespace Sys2Proof.Laws

open Sys2Proof.Machine

variable {α : Type}

theorem kvGet_insert_same (d : α) (m : Kv α) (k : Nat) (v : α) : kvGet d (kvInsert m k v) k = v := by
  induction m with
  | nil => simp [kvInsert, kvGet]
  | cons e r ih =>
    obtain ⟨i, a⟩ := e
    simp only [kvInsert]
    split
    · simp [kvGet]
    · split
      · simp [kvGet]
      · rename_i h1 h2
        simp [kvGet, Ne.symm h2, ih]

theorem kvGet_insert_other (d : α) (m : Kv α) {k j : Nat} (v : α) (h : j ≠ k) :
    kvGet d (kvInsert m k v) j = kvGet d m j := by
  induction m with
  | nil => simp [kvInsert, kvGet, Ne.symm h]
  | cons e r ih =>
    obtain ⟨i, a⟩ := e
    simp only [kvInsert]
    split
    · simp [kvGet, Ne.symm h]
    · split
      · rename_i h1 h2
        subst h2
        simp [kvGet, Ne.symm h]
      · simp [kvGet, ih]

theorem kvGet_erase_same (d : α) (m : Kv α) (k : Nat) : kvGet d (kvErase m k) k = d := by
  induction m with
  | nil => rfl
  | cons e r ih =>
    obtain ⟨i, a⟩ := e
    by_cases h : i = k
    · simpa [kvErase, h] using ih
    · simpa [kvErase, h, kvGet] using ih

theorem kvGet_erase_other (d : α) (m : Kv α) {k j : Nat} (h : j ≠ k) : kvGet d (kvErase m k) j = kvGet d m j := by
  induction m with
  | nil => rfl
  | cons e r ih =>
    obtain ⟨i, a⟩ := e
    by_cases hi : i = k
    · subst hi
      simpa [kvErase, kvGet, Ne.symm h] using ih
    · have : kvErase ((i, a) :: r) k = (i, a) :: kvErase r k := by simp [kvErase, hi]
      simp [this, kvGet, ih]

/-- A read after a write to the same key gives the value written. -/
theorem kvGet_put_same [DecidableEq α] (d : α) (m : Kv α) (k : Nat) (v : α) : kvGet d (kvPut d m k v) k = v := by
  unfold kvPut
  split
  · rename_i h; rw [kvGet_erase_same, h]
  · exact kvGet_insert_same d m k v

/-- A write leaves every other key alone. -/
theorem kvGet_put_other [DecidableEq α] (d e : α) (m : Kv α) {k j : Nat} (v : α) (h : j ≠ k) :
    kvGet e (kvPut d m k v) j = kvGet e m j := by
  unfold kvPut
  split
  · exact kvGet_erase_other e m h
  · exact kvGet_insert_other e m v h

theorem kvInsert_insert (m : Kv α) (k : Nat) (v w : α) : kvInsert (kvInsert m k v) k w = kvInsert m k w := by
  induction m with
  | nil => simp [kvInsert]
  | cons e r ih =>
    obtain ⟨i, a⟩ := e
    by_cases h1 : k < i
    · simp [kvInsert, h1]
    · by_cases h2 : k = i
      · subst h2; simp [kvInsert]
      · simp [kvInsert, h1, h2, ih]

theorem kvErase_cons (i : Nat) (a : α) (r : Kv α) (k : Nat) :
    kvErase ((i, a) :: r) k = if i = k then kvErase r k else (i, a) :: kvErase r k := by
  by_cases h : i = k <;> simp [kvErase, h]

theorem kvErase_insert (m : Kv α) (k : Nat) (v : α) : kvErase (kvInsert m k v) k = kvErase m k := by
  induction m with
  | nil => simp [kvInsert, kvErase]
  | cons e r ih =>
    obtain ⟨i, a⟩ := e
    by_cases h1 : k < i
    · simp [kvInsert, h1, kvErase_cons]
    · by_cases h2 : k = i
      · subst h2; simp [kvInsert, kvErase_cons]
      · simp [kvInsert, h1, h2, kvErase_cons, ih]

/-- Of two writes to one key the second remains, where the first listed its value. -/
theorem kvPut_put [DecidableEq α] (d : α) (m : Kv α) (k : Nat) {v : α} (w : α) (h : v ≠ d) :
    kvPut d (kvPut d m k v) k w = kvPut d m k w := by
  simp only [kvPut, if_neg h]
  split
  · exact kvErase_insert m k v
  · exact kvInsert_insert m k v w

end Sys2Proof.Laws
end

