-- ==== Sys2Proof/Laws/State.lean ====
section
/-! SUPPORT. What each update of the device leaves alone: one lemma per field per update, each true by the update's
text, so that no later proof unfolds one. -/

namespace Sys2Proof.Laws

open Sys2Proof.Machine

variable (d : Dev)

/-! ## `Dev.wr` changes `od` alone -/

@[simp] theorem wr_now (key v : Nat) : (d.wr key v).now = d.now := by simp only [Dev.wr]
@[simp] theorem wr_run (key v : Nat) : (d.wr key v).run = d.run := by simp only [Dev.wr]
@[simp] theorem wr_dom (key v : Nat) : (d.wr key v).dom = d.dom := by simp only [Dev.wr]
@[simp] theorem wr_perVal (key v : Nat) : (d.wr key v).perVal = d.perVal := by simp only [Dev.wr]
@[simp] theorem wr_perDom (key v : Nat) : (d.wr key v).perDom = d.perDom := by simp only [Dev.wr]
@[simp] theorem wr_mem (key v : Nat) : (d.wr key v).mem = d.mem := by simp only [Dev.wr]
@[simp] theorem wr_poisoned (key v : Nat) : (d.wr key v).poisoned = d.poisoned := by simp only [Dev.wr]
@[simp] theorem wr_counted (key v : Nat) : (d.wr key v).counted = d.counted := by simp only [Dev.wr]
@[simp] theorem wr_cores (key v : Nat) : (d.wr key v).cores = d.cores := by simp only [Dev.wr]
@[simp] theorem wr_formes (key v : Nat) : (d.wr key v).formes = d.formes := by simp only [Dev.wr]
@[simp] theorem wr_nextForme (key v : Nat) : (d.wr key v).nextForme = d.nextForme := by simp only [Dev.wr]
@[simp] theorem wr_nextRetry (key v : Nat) : (d.wr key v).nextRetry = d.nextRetry := by simp only [Dev.wr]
@[simp] theorem wr_pages (key v : Nat) : (d.wr key v).pages = d.pages := by simp only [Dev.wr]
@[simp] theorem wr_chans (key v : Nat) : (d.wr key v).chans = d.chans := by simp only [Dev.wr]
@[simp] theorem wr_axes (key v : Nat) : (d.wr key v).axes = d.axes := by simp only [Dev.wr]
@[simp] theorem wr_host (key v : Nat) : (d.wr key v).host = d.host := by simp only [Dev.wr]
@[simp] theorem wr_net (key v : Nat) : (d.wr key v).net = d.net := by simp only [Dev.wr]
@[simp] theorem wr_plate (key v : Nat) : (d.wr key v).plate = d.plate := by simp only [Dev.wr]
@[simp] theorem wr_slug (key v : Nat) : (d.wr key v).slug = d.slug := by simp only [Dev.wr]
@[simp] theorem wr_seqs (key v : Nat) : (d.wr key v).seqs = d.seqs := by simp only [Dev.wr]
@[simp] theorem wr_text (key v : Nat) : (d.wr key v).text = d.text := by simp only [Dev.wr]
@[simp] theorem wr_batch (key v : Nat) : (d.wr key v).batch = d.batch := by simp only [Dev.wr]
@[simp] theorem wr_power (key v : Nat) : (d.wr key v).power = d.power := by simp only [Dev.wr]
@[simp] theorem wr_fabric (key v : Nat) : (d.wr key v).fabric = d.fabric := by simp only [Dev.wr]
@[simp] theorem wr_fw (key v : Nat) : (d.wr key v).fw = d.fw := by simp only [Dev.wr]
@[simp] theorem wr_test (key v : Nat) : (d.wr key v).test = d.test := by simp only [Dev.wr]
@[simp] theorem wr_start (key v : Nat) : (d.wr key v).start = d.start := by simp only [Dev.wr]
@[simp] theorem wr_nv (key v : Nat) : (d.wr key v).nv = d.nv := by simp only [Dev.wr]
@[simp] theorem wr_faults (key v : Nat) : (d.wr key v).faults = d.faults := by simp only [Dev.wr]
@[simp] theorem wr_plateDies (key v : Nat) : (d.wr key v).plateDies = d.plateDies := by simp only [Dev.wr]
@[simp] theorem wr_lasting (key v : Nat) : (d.wr key v).lasting = d.lasting := by simp only [Dev.wr]
@[simp] theorem wr_ddrPassed (key v : Nat) : (d.wr key v).ddrPassed = d.ddrPassed := by simp only [Dev.wr]
@[simp] theorem wr_ddrTrained (key v : Nat) : (d.wr key v).ddrTrained = d.ddrTrained := by simp only [Dev.wr]
@[simp] theorem wr_ddrFixed (key v : Nat) : (d.wr key v).ddrFixed = d.ddrFixed := by simp only [Dev.wr]
@[simp] theorem wr_patrolPos (key v : Nat) : (d.wr key v).patrolPos = d.patrolPos := by simp only [Dev.wr]
@[simp] theorem wr_scrubPos (key v : Nat) : (d.wr key v).scrubPos = d.scrubPos := by simp only [Dev.wr]
@[simp] theorem wr_readingStopped (key v : Nat) : (d.wr key v).readingStopped = d.readingStopped := by simp only [Dev.wr]
@[simp] theorem wr_draws (key v : Nat) : (d.wr key v).draws = d.draws := by simp only [Dev.wr]
@[simp] theorem wr_out (key v : Nat) : (d.wr key v).out = d.out := by simp only [Dev.wr]

/-! ## `Dev.bumpBy` changes `od` alone -/

@[simp] theorem bumpBy_now (key n : Nat) : (d.bumpBy key n).now = d.now := by simp only [Dev.bumpBy, wr_now]
@[simp] theorem bumpBy_run (key n : Nat) : (d.bumpBy key n).run = d.run := by simp only [Dev.bumpBy, wr_run]
@[simp] theorem bumpBy_dom (key n : Nat) : (d.bumpBy key n).dom = d.dom := by simp only [Dev.bumpBy, wr_dom]
@[simp] theorem bumpBy_perVal (key n : Nat) : (d.bumpBy key n).perVal = d.perVal := by simp only [Dev.bumpBy, wr_perVal]
@[simp] theorem bumpBy_perDom (key n : Nat) : (d.bumpBy key n).perDom = d.perDom := by simp only [Dev.bumpBy, wr_perDom]
@[simp] theorem bumpBy_mem (key n : Nat) : (d.bumpBy key n).mem = d.mem := by simp only [Dev.bumpBy, wr_mem]
@[simp] theorem bumpBy_poisoned (key n : Nat) : (d.bumpBy key n).poisoned = d.poisoned := by simp only [Dev.bumpBy, wr_poisoned]
@[simp] theorem bumpBy_counted (key n : Nat) : (d.bumpBy key n).counted = d.counted := by simp only [Dev.bumpBy, wr_counted]
@[simp] theorem bumpBy_cores (key n : Nat) : (d.bumpBy key n).cores = d.cores := by simp only [Dev.bumpBy, wr_cores]
@[simp] theorem bumpBy_formes (key n : Nat) : (d.bumpBy key n).formes = d.formes := by simp only [Dev.bumpBy, wr_formes]
@[simp] theorem bumpBy_nextForme (key n : Nat) : (d.bumpBy key n).nextForme = d.nextForme := by simp only [Dev.bumpBy, wr_nextForme]
@[simp] theorem bumpBy_nextRetry (key n : Nat) : (d.bumpBy key n).nextRetry = d.nextRetry := by simp only [Dev.bumpBy, wr_nextRetry]
@[simp] theorem bumpBy_pages (key n : Nat) : (d.bumpBy key n).pages = d.pages := by simp only [Dev.bumpBy, wr_pages]
@[simp] theorem bumpBy_chans (key n : Nat) : (d.bumpBy key n).chans = d.chans := by simp only [Dev.bumpBy, wr_chans]
@[simp] theorem bumpBy_axes (key n : Nat) : (d.bumpBy key n).axes = d.axes := by simp only [Dev.bumpBy, wr_axes]
@[simp] theorem bumpBy_host (key n : Nat) : (d.bumpBy key n).host = d.host := by simp only [Dev.bumpBy, wr_host]
@[simp] theorem bumpBy_net (key n : Nat) : (d.bumpBy key n).net = d.net := by simp only [Dev.bumpBy, wr_net]
@[simp] theorem bumpBy_plate (key n : Nat) : (d.bumpBy key n).plate = d.plate := by simp only [Dev.bumpBy, wr_plate]
@[simp] theorem bumpBy_slug (key n : Nat) : (d.bumpBy key n).slug = d.slug := by simp only [Dev.bumpBy, wr_slug]
@[simp] theorem bumpBy_seqs (key n : Nat) : (d.bumpBy key n).seqs = d.seqs := by simp only [Dev.bumpBy, wr_seqs]
@[simp] theorem bumpBy_text (key n : Nat) : (d.bumpBy key n).text = d.text := by simp only [Dev.bumpBy, wr_text]
@[simp] theorem bumpBy_batch (key n : Nat) : (d.bumpBy key n).batch = d.batch := by simp only [Dev.bumpBy, wr_batch]
@[simp] theorem bumpBy_power (key n : Nat) : (d.bumpBy key n).power = d.power := by simp only [Dev.bumpBy, wr_power]
@[simp] theorem bumpBy_fabric (key n : Nat) : (d.bumpBy key n).fabric = d.fabric := by simp only [Dev.bumpBy, wr_fabric]
@[simp] theorem bumpBy_fw (key n : Nat) : (d.bumpBy key n).fw = d.fw := by simp only [Dev.bumpBy, wr_fw]
@[simp] theorem bumpBy_test (key n : Nat) : (d.bumpBy key n).test = d.test := by simp only [Dev.bumpBy, wr_test]
@[simp] theorem bumpBy_start (key n : Nat) : (d.bumpBy key n).start = d.start := by simp only [Dev.bumpBy, wr_start]
@[simp] theorem bumpBy_nv (key n : Nat) : (d.bumpBy key n).nv = d.nv := by simp only [Dev.bumpBy, wr_nv]
@[simp] theorem bumpBy_faults (key n : Nat) : (d.bumpBy key n).faults = d.faults := by simp only [Dev.bumpBy, wr_faults]
@[simp] theorem bumpBy_plateDies (key n : Nat) : (d.bumpBy key n).plateDies = d.plateDies := by simp only [Dev.bumpBy, wr_plateDies]
@[simp] theorem bumpBy_lasting (key n : Nat) : (d.bumpBy key n).lasting = d.lasting := by simp only [Dev.bumpBy, wr_lasting]
@[simp] theorem bumpBy_ddrPassed (key n : Nat) : (d.bumpBy key n).ddrPassed = d.ddrPassed := by simp only [Dev.bumpBy, wr_ddrPassed]
@[simp] theorem bumpBy_ddrTrained (key n : Nat) : (d.bumpBy key n).ddrTrained = d.ddrTrained := by simp only [Dev.bumpBy, wr_ddrTrained]
@[simp] theorem bumpBy_ddrFixed (key n : Nat) : (d.bumpBy key n).ddrFixed = d.ddrFixed := by simp only [Dev.bumpBy, wr_ddrFixed]
@[simp] theorem bumpBy_patrolPos (key n : Nat) : (d.bumpBy key n).patrolPos = d.patrolPos := by simp only [Dev.bumpBy, wr_patrolPos]
@[simp] theorem bumpBy_scrubPos (key n : Nat) : (d.bumpBy key n).scrubPos = d.scrubPos := by simp only [Dev.bumpBy, wr_scrubPos]
@[simp] theorem bumpBy_readingStopped (key n : Nat) : (d.bumpBy key n).readingStopped = d.readingStopped := by simp only [Dev.bumpBy, wr_readingStopped]
@[simp] theorem bumpBy_draws (key n : Nat) : (d.bumpBy key n).draws = d.draws := by simp only [Dev.bumpBy, wr_draws]
@[simp] theorem bumpBy_out (key n : Nat) : (d.bumpBy key n).out = d.out := by simp only [Dev.bumpBy, wr_out]

/-! ## `Dev.bump` changes `od` alone -/

@[simp] theorem bump_now (key : Nat) : (d.bump key).now = d.now := by simp only [Dev.bump, bumpBy_now]
@[simp] theorem bump_run (key : Nat) : (d.bump key).run = d.run := by simp only [Dev.bump, bumpBy_run]
@[simp] theorem bump_dom (key : Nat) : (d.bump key).dom = d.dom := by simp only [Dev.bump, bumpBy_dom]
@[simp] theorem bump_perVal (key : Nat) : (d.bump key).perVal = d.perVal := by simp only [Dev.bump, bumpBy_perVal]
@[simp] theorem bump_perDom (key : Nat) : (d.bump key).perDom = d.perDom := by simp only [Dev.bump, bumpBy_perDom]
@[simp] theorem bump_mem (key : Nat) : (d.bump key).mem = d.mem := by simp only [Dev.bump, bumpBy_mem]
@[simp] theorem bump_poisoned (key : Nat) : (d.bump key).poisoned = d.poisoned := by simp only [Dev.bump, bumpBy_poisoned]
@[simp] theorem bump_counted (key : Nat) : (d.bump key).counted = d.counted := by simp only [Dev.bump, bumpBy_counted]
@[simp] theorem bump_cores (key : Nat) : (d.bump key).cores = d.cores := by simp only [Dev.bump, bumpBy_cores]
@[simp] theorem bump_formes (key : Nat) : (d.bump key).formes = d.formes := by simp only [Dev.bump, bumpBy_formes]
@[simp] theorem bump_nextForme (key : Nat) : (d.bump key).nextForme = d.nextForme := by simp only [Dev.bump, bumpBy_nextForme]
@[simp] theorem bump_nextRetry (key : Nat) : (d.bump key).nextRetry = d.nextRetry := by simp only [Dev.bump, bumpBy_nextRetry]
@[simp] theorem bump_pages (key : Nat) : (d.bump key).pages = d.pages := by simp only [Dev.bump, bumpBy_pages]
@[simp] theorem bump_chans (key : Nat) : (d.bump key).chans = d.chans := by simp only [Dev.bump, bumpBy_chans]
@[simp] theorem bump_axes (key : Nat) : (d.bump key).axes = d.axes := by simp only [Dev.bump, bumpBy_axes]
@[simp] theorem bump_host (key : Nat) : (d.bump key).host = d.host := by simp only [Dev.bump, bumpBy_host]
@[simp] theorem bump_net (key : Nat) : (d.bump key).net = d.net := by simp only [Dev.bump, bumpBy_net]
@[simp] theorem bump_plate (key : Nat) : (d.bump key).plate = d.plate := by simp only [Dev.bump, bumpBy_plate]
@[simp] theorem bump_slug (key : Nat) : (d.bump key).slug = d.slug := by simp only [Dev.bump, bumpBy_slug]
@[simp] theorem bump_seqs (key : Nat) : (d.bump key).seqs = d.seqs := by simp only [Dev.bump, bumpBy_seqs]
@[simp] theorem bump_text (key : Nat) : (d.bump key).text = d.text := by simp only [Dev.bump, bumpBy_text]
@[simp] theorem bump_batch (key : Nat) : (d.bump key).batch = d.batch := by simp only [Dev.bump, bumpBy_batch]
@[simp] theorem bump_power (key : Nat) : (d.bump key).power = d.power := by simp only [Dev.bump, bumpBy_power]
@[simp] theorem bump_fabric (key : Nat) : (d.bump key).fabric = d.fabric := by simp only [Dev.bump, bumpBy_fabric]
@[simp] theorem bump_fw (key : Nat) : (d.bump key).fw = d.fw := by simp only [Dev.bump, bumpBy_fw]
@[simp] theorem bump_test (key : Nat) : (d.bump key).test = d.test := by simp only [Dev.bump, bumpBy_test]
@[simp] theorem bump_start (key : Nat) : (d.bump key).start = d.start := by simp only [Dev.bump, bumpBy_start]
@[simp] theorem bump_nv (key : Nat) : (d.bump key).nv = d.nv := by simp only [Dev.bump, bumpBy_nv]
@[simp] theorem bump_faults (key : Nat) : (d.bump key).faults = d.faults := by simp only [Dev.bump, bumpBy_faults]
@[simp] theorem bump_plateDies (key : Nat) : (d.bump key).plateDies = d.plateDies := by simp only [Dev.bump, bumpBy_plateDies]
@[simp] theorem bump_lasting (key : Nat) : (d.bump key).lasting = d.lasting := by simp only [Dev.bump, bumpBy_lasting]
@[simp] theorem bump_ddrPassed (key : Nat) : (d.bump key).ddrPassed = d.ddrPassed := by simp only [Dev.bump, bumpBy_ddrPassed]
@[simp] theorem bump_ddrTrained (key : Nat) : (d.bump key).ddrTrained = d.ddrTrained := by simp only [Dev.bump, bumpBy_ddrTrained]
@[simp] theorem bump_ddrFixed (key : Nat) : (d.bump key).ddrFixed = d.ddrFixed := by simp only [Dev.bump, bumpBy_ddrFixed]
@[simp] theorem bump_patrolPos (key : Nat) : (d.bump key).patrolPos = d.patrolPos := by simp only [Dev.bump, bumpBy_patrolPos]
@[simp] theorem bump_scrubPos (key : Nat) : (d.bump key).scrubPos = d.scrubPos := by simp only [Dev.bump, bumpBy_scrubPos]
@[simp] theorem bump_readingStopped (key : Nat) : (d.bump key).readingStopped = d.readingStopped := by simp only [Dev.bump, bumpBy_readingStopped]
@[simp] theorem bump_draws (key : Nat) : (d.bump key).draws = d.draws := by simp only [Dev.bump, bumpBy_draws]
@[simp] theorem bump_out (key : Nat) : (d.bump key).out = d.out := by simp only [Dev.bump, bumpBy_out]

/-! ## `Dev.wri` changes `od` alone -/

@[simp] theorem wri_now (key w : Nat) (v : Int) : (d.wri key w v).now = d.now := by simp only [Dev.wri, wr_now]
@[simp] theorem wri_run (key w : Nat) (v : Int) : (d.wri key w v).run = d.run := by simp only [Dev.wri, wr_run]
@[simp] theorem wri_dom (key w : Nat) (v : Int) : (d.wri key w v).dom = d.dom := by simp only [Dev.wri, wr_dom]
@[simp] theorem wri_perVal (key w : Nat) (v : Int) : (d.wri key w v).perVal = d.perVal := by simp only [Dev.wri, wr_perVal]
@[simp] theorem wri_perDom (key w : Nat) (v : Int) : (d.wri key w v).perDom = d.perDom := by simp only [Dev.wri, wr_perDom]
@[simp] theorem wri_mem (key w : Nat) (v : Int) : (d.wri key w v).mem = d.mem := by simp only [Dev.wri, wr_mem]
@[simp] theorem wri_poisoned (key w : Nat) (v : Int) : (d.wri key w v).poisoned = d.poisoned := by simp only [Dev.wri, wr_poisoned]
@[simp] theorem wri_counted (key w : Nat) (v : Int) : (d.wri key w v).counted = d.counted := by simp only [Dev.wri, wr_counted]
@[simp] theorem wri_cores (key w : Nat) (v : Int) : (d.wri key w v).cores = d.cores := by simp only [Dev.wri, wr_cores]
@[simp] theorem wri_formes (key w : Nat) (v : Int) : (d.wri key w v).formes = d.formes := by simp only [Dev.wri, wr_formes]
@[simp] theorem wri_nextForme (key w : Nat) (v : Int) : (d.wri key w v).nextForme = d.nextForme := by simp only [Dev.wri, wr_nextForme]
@[simp] theorem wri_nextRetry (key w : Nat) (v : Int) : (d.wri key w v).nextRetry = d.nextRetry := by simp only [Dev.wri, wr_nextRetry]
@[simp] theorem wri_pages (key w : Nat) (v : Int) : (d.wri key w v).pages = d.pages := by simp only [Dev.wri, wr_pages]
@[simp] theorem wri_chans (key w : Nat) (v : Int) : (d.wri key w v).chans = d.chans := by simp only [Dev.wri, wr_chans]
@[simp] theorem wri_axes (key w : Nat) (v : Int) : (d.wri key w v).axes = d.axes := by simp only [Dev.wri, wr_axes]
@[simp] theorem wri_host (key w : Nat) (v : Int) : (d.wri key w v).host = d.host := by simp only [Dev.wri, wr_host]
@[simp] theorem wri_net (key w : Nat) (v : Int) : (d.wri key w v).net = d.net := by simp only [Dev.wri, wr_net]
@[simp] theorem wri_plate (key w : Nat) (v : Int) : (d.wri key w v).plate = d.plate := by simp only [Dev.wri, wr_plate]
@[simp] theorem wri_slug (key w : Nat) (v : Int) : (d.wri key w v).slug = d.slug := by simp only [Dev.wri, wr_slug]
@[simp] theorem wri_seqs (key w : Nat) (v : Int) : (d.wri key w v).seqs = d.seqs := by simp only [Dev.wri, wr_seqs]
@[simp] theorem wri_text (key w : Nat) (v : Int) : (d.wri key w v).text = d.text := by simp only [Dev.wri, wr_text]
@[simp] theorem wri_batch (key w : Nat) (v : Int) : (d.wri key w v).batch = d.batch := by simp only [Dev.wri, wr_batch]
@[simp] theorem wri_power (key w : Nat) (v : Int) : (d.wri key w v).power = d.power := by simp only [Dev.wri, wr_power]
@[simp] theorem wri_fabric (key w : Nat) (v : Int) : (d.wri key w v).fabric = d.fabric := by simp only [Dev.wri, wr_fabric]
@[simp] theorem wri_fw (key w : Nat) (v : Int) : (d.wri key w v).fw = d.fw := by simp only [Dev.wri, wr_fw]
@[simp] theorem wri_test (key w : Nat) (v : Int) : (d.wri key w v).test = d.test := by simp only [Dev.wri, wr_test]
@[simp] theorem wri_start (key w : Nat) (v : Int) : (d.wri key w v).start = d.start := by simp only [Dev.wri, wr_start]
@[simp] theorem wri_nv (key w : Nat) (v : Int) : (d.wri key w v).nv = d.nv := by simp only [Dev.wri, wr_nv]
@[simp] theorem wri_faults (key w : Nat) (v : Int) : (d.wri key w v).faults = d.faults := by simp only [Dev.wri, wr_faults]
@[simp] theorem wri_plateDies (key w : Nat) (v : Int) : (d.wri key w v).plateDies = d.plateDies := by simp only [Dev.wri, wr_plateDies]
@[simp] theorem wri_lasting (key w : Nat) (v : Int) : (d.wri key w v).lasting = d.lasting := by simp only [Dev.wri, wr_lasting]
@[simp] theorem wri_ddrPassed (key w : Nat) (v : Int) : (d.wri key w v).ddrPassed = d.ddrPassed := by simp only [Dev.wri, wr_ddrPassed]
@[simp] theorem wri_ddrTrained (key w : Nat) (v : Int) : (d.wri key w v).ddrTrained = d.ddrTrained := by simp only [Dev.wri, wr_ddrTrained]
@[simp] theorem wri_ddrFixed (key w : Nat) (v : Int) : (d.wri key w v).ddrFixed = d.ddrFixed := by simp only [Dev.wri, wr_ddrFixed]
@[simp] theorem wri_patrolPos (key w : Nat) (v : Int) : (d.wri key w v).patrolPos = d.patrolPos := by simp only [Dev.wri, wr_patrolPos]
@[simp] theorem wri_scrubPos (key w : Nat) (v : Int) : (d.wri key w v).scrubPos = d.scrubPos := by simp only [Dev.wri, wr_scrubPos]
@[simp] theorem wri_readingStopped (key w : Nat) (v : Int) : (d.wri key w v).readingStopped = d.readingStopped := by simp only [Dev.wri, wr_readingStopped]
@[simp] theorem wri_draws (key w : Nat) (v : Int) : (d.wri key w v).draws = d.draws := by simp only [Dev.wri, wr_draws]
@[simp] theorem wri_out (key w : Nat) (v : Int) : (d.wri key w v).out = d.out := by simp only [Dev.wri, wr_out]

/-! ## `Dev.wrp` changes `od` alone -/

@[simp] theorem wrp_now (key v : Nat) : (d.wrp key v).now = d.now := by simp only [Dev.wrp, wr_now]
@[simp] theorem wrp_run (key v : Nat) : (d.wrp key v).run = d.run := by simp only [Dev.wrp, wr_run]
@[simp] theorem wrp_dom (key v : Nat) : (d.wrp key v).dom = d.dom := by simp only [Dev.wrp, wr_dom]
@[simp] theorem wrp_perVal (key v : Nat) : (d.wrp key v).perVal = d.perVal := by simp only [Dev.wrp, wr_perVal]
@[simp] theorem wrp_perDom (key v : Nat) : (d.wrp key v).perDom = d.perDom := by simp only [Dev.wrp, wr_perDom]
@[simp] theorem wrp_mem (key v : Nat) : (d.wrp key v).mem = d.mem := by simp only [Dev.wrp, wr_mem]
@[simp] theorem wrp_poisoned (key v : Nat) : (d.wrp key v).poisoned = d.poisoned := by simp only [Dev.wrp, wr_poisoned]
@[simp] theorem wrp_counted (key v : Nat) : (d.wrp key v).counted = d.counted := by simp only [Dev.wrp, wr_counted]
@[simp] theorem wrp_cores (key v : Nat) : (d.wrp key v).cores = d.cores := by simp only [Dev.wrp, wr_cores]
@[simp] theorem wrp_formes (key v : Nat) : (d.wrp key v).formes = d.formes := by simp only [Dev.wrp, wr_formes]
@[simp] theorem wrp_nextForme (key v : Nat) : (d.wrp key v).nextForme = d.nextForme := by simp only [Dev.wrp, wr_nextForme]
@[simp] theorem wrp_nextRetry (key v : Nat) : (d.wrp key v).nextRetry = d.nextRetry := by simp only [Dev.wrp, wr_nextRetry]
@[simp] theorem wrp_pages (key v : Nat) : (d.wrp key v).pages = d.pages := by simp only [Dev.wrp, wr_pages]
@[simp] theorem wrp_chans (key v : Nat) : (d.wrp key v).chans = d.chans := by simp only [Dev.wrp, wr_chans]
@[simp] theorem wrp_axes (key v : Nat) : (d.wrp key v).axes = d.axes := by simp only [Dev.wrp, wr_axes]
@[simp] theorem wrp_host (key v : Nat) : (d.wrp key v).host = d.host := by simp only [Dev.wrp, wr_host]
@[simp] theorem wrp_net (key v : Nat) : (d.wrp key v).net = d.net := by simp only [Dev.wrp, wr_net]
@[simp] theorem wrp_plate (key v : Nat) : (d.wrp key v).plate = d.plate := by simp only [Dev.wrp, wr_plate]
@[simp] theorem wrp_slug (key v : Nat) : (d.wrp key v).slug = d.slug := by simp only [Dev.wrp, wr_slug]
@[simp] theorem wrp_seqs (key v : Nat) : (d.wrp key v).seqs = d.seqs := by simp only [Dev.wrp, wr_seqs]
@[simp] theorem wrp_text (key v : Nat) : (d.wrp key v).text = d.text := by simp only [Dev.wrp, wr_text]
@[simp] theorem wrp_batch (key v : Nat) : (d.wrp key v).batch = d.batch := by simp only [Dev.wrp, wr_batch]
@[simp] theorem wrp_power (key v : Nat) : (d.wrp key v).power = d.power := by simp only [Dev.wrp, wr_power]
@[simp] theorem wrp_fabric (key v : Nat) : (d.wrp key v).fabric = d.fabric := by simp only [Dev.wrp, wr_fabric]
@[simp] theorem wrp_fw (key v : Nat) : (d.wrp key v).fw = d.fw := by simp only [Dev.wrp, wr_fw]
@[simp] theorem wrp_test (key v : Nat) : (d.wrp key v).test = d.test := by simp only [Dev.wrp, wr_test]
@[simp] theorem wrp_start (key v : Nat) : (d.wrp key v).start = d.start := by simp only [Dev.wrp, wr_start]
@[simp] theorem wrp_nv (key v : Nat) : (d.wrp key v).nv = d.nv := by simp only [Dev.wrp, wr_nv]
@[simp] theorem wrp_faults (key v : Nat) : (d.wrp key v).faults = d.faults := by simp only [Dev.wrp, wr_faults]
@[simp] theorem wrp_plateDies (key v : Nat) : (d.wrp key v).plateDies = d.plateDies := by simp only [Dev.wrp, wr_plateDies]
@[simp] theorem wrp_lasting (key v : Nat) : (d.wrp key v).lasting = d.lasting := by simp only [Dev.wrp, wr_lasting]
@[simp] theorem wrp_ddrPassed (key v : Nat) : (d.wrp key v).ddrPassed = d.ddrPassed := by simp only [Dev.wrp, wr_ddrPassed]
@[simp] theorem wrp_ddrTrained (key v : Nat) : (d.wrp key v).ddrTrained = d.ddrTrained := by simp only [Dev.wrp, wr_ddrTrained]
@[simp] theorem wrp_ddrFixed (key v : Nat) : (d.wrp key v).ddrFixed = d.ddrFixed := by simp only [Dev.wrp, wr_ddrFixed]
@[simp] theorem wrp_patrolPos (key v : Nat) : (d.wrp key v).patrolPos = d.patrolPos := by simp only [Dev.wrp, wr_patrolPos]
@[simp] theorem wrp_scrubPos (key v : Nat) : (d.wrp key v).scrubPos = d.scrubPos := by simp only [Dev.wrp, wr_scrubPos]
@[simp] theorem wrp_readingStopped (key v : Nat) : (d.wrp key v).readingStopped = d.readingStopped := by simp only [Dev.wrp, wr_readingStopped]
@[simp] theorem wrp_draws (key v : Nat) : (d.wrp key v).draws = d.draws := by simp only [Dev.wrp, wr_draws]
@[simp] theorem wrp_out (key v : Nat) : (d.wrp key v).out = d.out := by simp only [Dev.wrp, wr_out]

/-! ## `Dev.setReady` changes `od` alone -/

@[simp] theorem setReady_now (b : Nat) (v : Bool) : (d.setReady b v).now = d.now := by simp only [Dev.setReady, wr_now]
@[simp] theorem setReady_run (b : Nat) (v : Bool) : (d.setReady b v).run = d.run := by simp only [Dev.setReady, wr_run]
@[simp] theorem setReady_dom (b : Nat) (v : Bool) : (d.setReady b v).dom = d.dom := by simp only [Dev.setReady, wr_dom]
@[simp] theorem setReady_perVal (b : Nat) (v : Bool) : (d.setReady b v).perVal = d.perVal := by simp only [Dev.setReady, wr_perVal]
@[simp] theorem setReady_perDom (b : Nat) (v : Bool) : (d.setReady b v).perDom = d.perDom := by simp only [Dev.setReady, wr_perDom]
@[simp] theorem setReady_mem (b : Nat) (v : Bool) : (d.setReady b v).mem = d.mem := by simp only [Dev.setReady, wr_mem]
@[simp] theorem setReady_poisoned (b : Nat) (v : Bool) : (d.setReady b v).poisoned = d.poisoned := by simp only [Dev.setReady, wr_poisoned]
@[simp] theorem setReady_counted (b : Nat) (v : Bool) : (d.setReady b v).counted = d.counted := by simp only [Dev.setReady, wr_counted]
@[simp] theorem setReady_cores (b : Nat) (v : Bool) : (d.setReady b v).cores = d.cores := by simp only [Dev.setReady, wr_cores]
@[simp] theorem setReady_formes (b : Nat) (v : Bool) : (d.setReady b v).formes = d.formes := by simp only [Dev.setReady, wr_formes]
@[simp] theorem setReady_nextForme (b : Nat) (v : Bool) : (d.setReady b v).nextForme = d.nextForme := by simp only [Dev.setReady, wr_nextForme]
@[simp] theorem setReady_nextRetry (b : Nat) (v : Bool) : (d.setReady b v).nextRetry = d.nextRetry := by simp only [Dev.setReady, wr_nextRetry]
@[simp] theorem setReady_pages (b : Nat) (v : Bool) : (d.setReady b v).pages = d.pages := by simp only [Dev.setReady, wr_pages]
@[simp] theorem setReady_chans (b : Nat) (v : Bool) : (d.setReady b v).chans = d.chans := by simp only [Dev.setReady, wr_chans]
@[simp] theorem setReady_axes (b : Nat) (v : Bool) : (d.setReady b v).axes = d.axes := by simp only [Dev.setReady, wr_axes]
@[simp] theorem setReady_host (b : Nat) (v : Bool) : (d.setReady b v).host = d.host := by simp only [Dev.setReady, wr_host]
@[simp] theorem setReady_net (b : Nat) (v : Bool) : (d.setReady b v).net = d.net := by simp only [Dev.setReady, wr_net]
@[simp] theorem setReady_plate (b : Nat) (v : Bool) : (d.setReady b v).plate = d.plate := by simp only [Dev.setReady, wr_plate]
@[simp] theorem setReady_slug (b : Nat) (v : Bool) : (d.setReady b v).slug = d.slug := by simp only [Dev.setReady, wr_slug]
@[simp] theorem setReady_seqs (b : Nat) (v : Bool) : (d.setReady b v).seqs = d.seqs := by simp only [Dev.setReady, wr_seqs]
@[simp] theorem setReady_text (b : Nat) (v : Bool) : (d.setReady b v).text = d.text := by simp only [Dev.setReady, wr_text]
@[simp] theorem setReady_batch (b : Nat) (v : Bool) : (d.setReady b v).batch = d.batch := by simp only [Dev.setReady, wr_batch]
@[simp] theorem setReady_power (b : Nat) (v : Bool) : (d.setReady b v).power = d.power := by simp only [Dev.setReady, wr_power]
@[simp] theorem setReady_fabric (b : Nat) (v : Bool) : (d.setReady b v).fabric = d.fabric := by simp only [Dev.setReady, wr_fabric]
@[simp] theorem setReady_fw (b : Nat) (v : Bool) : (d.setReady b v).fw = d.fw := by simp only [Dev.setReady, wr_fw]
@[simp] theorem setReady_test (b : Nat) (v : Bool) : (d.setReady b v).test = d.test := by simp only [Dev.setReady, wr_test]
@[simp] theorem setReady_start (b : Nat) (v : Bool) : (d.setReady b v).start = d.start := by simp only [Dev.setReady, wr_start]
@[simp] theorem setReady_nv (b : Nat) (v : Bool) : (d.setReady b v).nv = d.nv := by simp only [Dev.setReady, wr_nv]
@[simp] theorem setReady_faults (b : Nat) (v : Bool) : (d.setReady b v).faults = d.faults := by simp only [Dev.setReady, wr_faults]
@[simp] theorem setReady_plateDies (b : Nat) (v : Bool) : (d.setReady b v).plateDies = d.plateDies := by simp only [Dev.setReady, wr_plateDies]
@[simp] theorem setReady_lasting (b : Nat) (v : Bool) : (d.setReady b v).lasting = d.lasting := by simp only [Dev.setReady, wr_lasting]
@[simp] theorem setReady_ddrPassed (b : Nat) (v : Bool) : (d.setReady b v).ddrPassed = d.ddrPassed := by simp only [Dev.setReady, wr_ddrPassed]
@[simp] theorem setReady_ddrTrained (b : Nat) (v : Bool) : (d.setReady b v).ddrTrained = d.ddrTrained := by simp only [Dev.setReady, wr_ddrTrained]
@[simp] theorem setReady_ddrFixed (b : Nat) (v : Bool) : (d.setReady b v).ddrFixed = d.ddrFixed := by simp only [Dev.setReady, wr_ddrFixed]
@[simp] theorem setReady_patrolPos (b : Nat) (v : Bool) : (d.setReady b v).patrolPos = d.patrolPos := by simp only [Dev.setReady, wr_patrolPos]
@[simp] theorem setReady_scrubPos (b : Nat) (v : Bool) : (d.setReady b v).scrubPos = d.scrubPos := by simp only [Dev.setReady, wr_scrubPos]
@[simp] theorem setReady_readingStopped (b : Nat) (v : Bool) : (d.setReady b v).readingStopped = d.readingStopped := by simp only [Dev.setReady, wr_readingStopped]
@[simp] theorem setReady_draws (b : Nat) (v : Bool) : (d.setReady b v).draws = d.draws := by simp only [Dev.setReady, wr_draws]
@[simp] theorem setReady_out (b : Nat) (v : Bool) : (d.setReady b v).out = d.out := by simp only [Dev.setReady, wr_out]

/-! ## `Dev.setFailed` changes `od` alone -/

@[simp] theorem setFailed_now (b : Nat) : (d.setFailed b).now = d.now := by simp only [Dev.setFailed, wr_now]
@[simp] theorem setFailed_run (b : Nat) : (d.setFailed b).run = d.run := by simp only [Dev.setFailed, wr_run]
@[simp] theorem setFailed_dom (b : Nat) : (d.setFailed b).dom = d.dom := by simp only [Dev.setFailed, wr_dom]
@[simp] theorem setFailed_perVal (b : Nat) : (d.setFailed b).perVal = d.perVal := by simp only [Dev.setFailed, wr_perVal]
@[simp] theorem setFailed_perDom (b : Nat) : (d.setFailed b).perDom = d.perDom := by simp only [Dev.setFailed, wr_perDom]
@[simp] theorem setFailed_mem (b : Nat) : (d.setFailed b).mem = d.mem := by simp only [Dev.setFailed, wr_mem]
@[simp] theorem setFailed_poisoned (b : Nat) : (d.setFailed b).poisoned = d.poisoned := by simp only [Dev.setFailed, wr_poisoned]
@[simp] theorem setFailed_counted (b : Nat) : (d.setFailed b).counted = d.counted := by simp only [Dev.setFailed, wr_counted]
@[simp] theorem setFailed_cores (b : Nat) : (d.setFailed b).cores = d.cores := by simp only [Dev.setFailed, wr_cores]
@[simp] theorem setFailed_formes (b : Nat) : (d.setFailed b).formes = d.formes := by simp only [Dev.setFailed, wr_formes]
@[simp] theorem setFailed_nextForme (b : Nat) : (d.setFailed b).nextForme = d.nextForme := by simp only [Dev.setFailed, wr_nextForme]
@[simp] theorem setFailed_nextRetry (b : Nat) : (d.setFailed b).nextRetry = d.nextRetry := by simp only [Dev.setFailed, wr_nextRetry]
@[simp] theorem setFailed_pages (b : Nat) : (d.setFailed b).pages = d.pages := by simp only [Dev.setFailed, wr_pages]
@[simp] theorem setFailed_chans (b : Nat) : (d.setFailed b).chans = d.chans := by simp only [Dev.setFailed, wr_chans]
@[simp] theorem setFailed_axes (b : Nat) : (d.setFailed b).axes = d.axes := by simp only [Dev.setFailed, wr_axes]
@[simp] theorem setFailed_host (b : Nat) : (d.setFailed b).host = d.host := by simp only [Dev.setFailed, wr_host]
@[simp] theorem setFailed_net (b : Nat) : (d.setFailed b).net = d.net := by simp only [Dev.setFailed, wr_net]
@[simp] theorem setFailed_plate (b : Nat) : (d.setFailed b).plate = d.plate := by simp only [Dev.setFailed, wr_plate]
@[simp] theorem setFailed_slug (b : Nat) : (d.setFailed b).slug = d.slug := by simp only [Dev.setFailed, wr_slug]
@[simp] theorem setFailed_seqs (b : Nat) : (d.setFailed b).seqs = d.seqs := by simp only [Dev.setFailed, wr_seqs]
@[simp] theorem setFailed_text (b : Nat) : (d.setFailed b).text = d.text := by simp only [Dev.setFailed, wr_text]
@[simp] theorem setFailed_batch (b : Nat) : (d.setFailed b).batch = d.batch := by simp only [Dev.setFailed, wr_batch]
@[simp] theorem setFailed_power (b : Nat) : (d.setFailed b).power = d.power := by simp only [Dev.setFailed, wr_power]
@[simp] theorem setFailed_fabric (b : Nat) : (d.setFailed b).fabric = d.fabric := by simp only [Dev.setFailed, wr_fabric]
@[simp] theorem setFailed_fw (b : Nat) : (d.setFailed b).fw = d.fw := by simp only [Dev.setFailed, wr_fw]
@[simp] theorem setFailed_test (b : Nat) : (d.setFailed b).test = d.test := by simp only [Dev.setFailed, wr_test]
@[simp] theorem setFailed_start (b : Nat) : (d.setFailed b).start = d.start := by simp only [Dev.setFailed, wr_start]
@[simp] theorem setFailed_nv (b : Nat) : (d.setFailed b).nv = d.nv := by simp only [Dev.setFailed, wr_nv]
@[simp] theorem setFailed_faults (b : Nat) : (d.setFailed b).faults = d.faults := by simp only [Dev.setFailed, wr_faults]
@[simp] theorem setFailed_plateDies (b : Nat) : (d.setFailed b).plateDies = d.plateDies := by simp only [Dev.setFailed, wr_plateDies]
@[simp] theorem setFailed_lasting (b : Nat) : (d.setFailed b).lasting = d.lasting := by simp only [Dev.setFailed, wr_lasting]
@[simp] theorem setFailed_ddrPassed (b : Nat) : (d.setFailed b).ddrPassed = d.ddrPassed := by simp only [Dev.setFailed, wr_ddrPassed]
@[simp] theorem setFailed_ddrTrained (b : Nat) : (d.setFailed b).ddrTrained = d.ddrTrained := by simp only [Dev.setFailed, wr_ddrTrained]
@[simp] theorem setFailed_ddrFixed (b : Nat) : (d.setFailed b).ddrFixed = d.ddrFixed := by simp only [Dev.setFailed, wr_ddrFixed]
@[simp] theorem setFailed_patrolPos (b : Nat) : (d.setFailed b).patrolPos = d.patrolPos := by simp only [Dev.setFailed, wr_patrolPos]
@[simp] theorem setFailed_scrubPos (b : Nat) : (d.setFailed b).scrubPos = d.scrubPos := by simp only [Dev.setFailed, wr_scrubPos]
@[simp] theorem setFailed_readingStopped (b : Nat) : (d.setFailed b).readingStopped = d.readingStopped := by simp only [Dev.setFailed, wr_readingStopped]
@[simp] theorem setFailed_draws (b : Nat) : (d.setFailed b).draws = d.draws := by simp only [Dev.setFailed, wr_draws]
@[simp] theorem setFailed_out (b : Nat) : (d.setFailed b).out = d.out := by simp only [Dev.setFailed, wr_out]

/-! ## `Dev.wrDom` changes `dom` alone -/

@[simp] theorem wrDom_now (key : Nat) (bs : List Byte) : (d.wrDom key bs).now = d.now := by simp only [Dev.wrDom]
@[simp] theorem wrDom_run (key : Nat) (bs : List Byte) : (d.wrDom key bs).run = d.run := by simp only [Dev.wrDom]
@[simp] theorem wrDom_od (key : Nat) (bs : List Byte) : (d.wrDom key bs).od = d.od := by simp only [Dev.wrDom]
@[simp] theorem wrDom_perVal (key : Nat) (bs : List Byte) : (d.wrDom key bs).perVal = d.perVal := by simp only [Dev.wrDom]
@[simp] theorem wrDom_perDom (key : Nat) (bs : List Byte) : (d.wrDom key bs).perDom = d.perDom := by simp only [Dev.wrDom]
@[simp] theorem wrDom_mem (key : Nat) (bs : List Byte) : (d.wrDom key bs).mem = d.mem := by simp only [Dev.wrDom]
@[simp] theorem wrDom_poisoned (key : Nat) (bs : List Byte) : (d.wrDom key bs).poisoned = d.poisoned := by simp only [Dev.wrDom]
@[simp] theorem wrDom_counted (key : Nat) (bs : List Byte) : (d.wrDom key bs).counted = d.counted := by simp only [Dev.wrDom]
@[simp] theorem wrDom_cores (key : Nat) (bs : List Byte) : (d.wrDom key bs).cores = d.cores := by simp only [Dev.wrDom]
@[simp] theorem wrDom_formes (key : Nat) (bs : List Byte) : (d.wrDom key bs).formes = d.formes := by simp only [Dev.wrDom]
@[simp] theorem wrDom_nextForme (key : Nat) (bs : List Byte) : (d.wrDom key bs).nextForme = d.nextForme := by simp only [Dev.wrDom]
@[simp] theorem wrDom_nextRetry (key : Nat) (bs : List Byte) : (d.wrDom key bs).nextRetry = d.nextRetry := by simp only [Dev.wrDom]
@[simp] theorem wrDom_pages (key : Nat) (bs : List Byte) : (d.wrDom key bs).pages = d.pages := by simp only [Dev.wrDom]
@[simp] theorem wrDom_chans (key : Nat) (bs : List Byte) : (d.wrDom key bs).chans = d.chans := by simp only [Dev.wrDom]
@[simp] theorem wrDom_axes (key : Nat) (bs : List Byte) : (d.wrDom key bs).axes = d.axes := by simp only [Dev.wrDom]
@[simp] theorem wrDom_host (key : Nat) (bs : List Byte) : (d.wrDom key bs).host = d.host := by simp only [Dev.wrDom]
@[simp] theorem wrDom_net (key : Nat) (bs : List Byte) : (d.wrDom key bs).net = d.net := by simp only [Dev.wrDom]
@[simp] theorem wrDom_plate (key : Nat) (bs : List Byte) : (d.wrDom key bs).plate = d.plate := by simp only [Dev.wrDom]
@[simp] theorem wrDom_slug (key : Nat) (bs : List Byte) : (d.wrDom key bs).slug = d.slug := by simp only [Dev.wrDom]
@[simp] theorem wrDom_seqs (key : Nat) (bs : List Byte) : (d.wrDom key bs).seqs = d.seqs := by simp only [Dev.wrDom]
@[simp] theorem wrDom_text (key : Nat) (bs : List Byte) : (d.wrDom key bs).text = d.text := by simp only [Dev.wrDom]
@[simp] theorem wrDom_batch (key : Nat) (bs : List Byte) : (d.wrDom key bs).batch = d.batch := by simp only [Dev.wrDom]
@[simp] theorem wrDom_power (key : Nat) (bs : List Byte) : (d.wrDom key bs).power = d.power := by simp only [Dev.wrDom]
@[simp] theorem wrDom_fabric (key : Nat) (bs : List Byte) : (d.wrDom key bs).fabric = d.fabric := by simp only [Dev.wrDom]
@[simp] theorem wrDom_fw (key : Nat) (bs : List Byte) : (d.wrDom key bs).fw = d.fw := by simp only [Dev.wrDom]
@[simp] theorem wrDom_test (key : Nat) (bs : List Byte) : (d.wrDom key bs).test = d.test := by simp only [Dev.wrDom]
@[simp] theorem wrDom_start (key : Nat) (bs : List Byte) : (d.wrDom key bs).start = d.start := by simp only [Dev.wrDom]
@[simp] theorem wrDom_nv (key : Nat) (bs : List Byte) : (d.wrDom key bs).nv = d.nv := by simp only [Dev.wrDom]
@[simp] theorem wrDom_faults (key : Nat) (bs : List Byte) : (d.wrDom key bs).faults = d.faults := by simp only [Dev.wrDom]
@[simp] theorem wrDom_plateDies (key : Nat) (bs : List Byte) : (d.wrDom key bs).plateDies = d.plateDies := by simp only [Dev.wrDom]
@[simp] theorem wrDom_lasting (key : Nat) (bs : List Byte) : (d.wrDom key bs).lasting = d.lasting := by simp only [Dev.wrDom]
@[simp] theorem wrDom_ddrPassed (key : Nat) (bs : List Byte) : (d.wrDom key bs).ddrPassed = d.ddrPassed := by simp only [Dev.wrDom]
@[simp] theorem wrDom_ddrTrained (key : Nat) (bs : List Byte) : (d.wrDom key bs).ddrTrained = d.ddrTrained := by simp only [Dev.wrDom]
@[simp] theorem wrDom_ddrFixed (key : Nat) (bs : List Byte) : (d.wrDom key bs).ddrFixed = d.ddrFixed := by simp only [Dev.wrDom]
@[simp] theorem wrDom_patrolPos (key : Nat) (bs : List Byte) : (d.wrDom key bs).patrolPos = d.patrolPos := by simp only [Dev.wrDom]
@[simp] theorem wrDom_scrubPos (key : Nat) (bs : List Byte) : (d.wrDom key bs).scrubPos = d.scrubPos := by simp only [Dev.wrDom]
@[simp] theorem wrDom_readingStopped (key : Nat) (bs : List Byte) : (d.wrDom key bs).readingStopped = d.readingStopped := by simp only [Dev.wrDom]
@[simp] theorem wrDom_draws (key : Nat) (bs : List Byte) : (d.wrDom key bs).draws = d.draws := by simp only [Dev.wrDom]
@[simp] theorem wrDom_out (key : Nat) (bs : List Byte) : (d.wrDom key bs).out = d.out := by simp only [Dev.wrDom]

/-! ## `Dev.wrPath` changes `perVal` alone -/

@[simp] theorem wrPath_now (p : Path) (key v : Nat) : (d.wrPath p key v).now = d.now := by simp only [Dev.wrPath]
@[simp] theorem wrPath_run (p : Path) (key v : Nat) : (d.wrPath p key v).run = d.run := by simp only [Dev.wrPath]
@[simp] theorem wrPath_od (p : Path) (key v : Nat) : (d.wrPath p key v).od = d.od := by simp only [Dev.wrPath]
@[simp] theorem wrPath_dom (p : Path) (key v : Nat) : (d.wrPath p key v).dom = d.dom := by simp only [Dev.wrPath]
@[simp] theorem wrPath_perDom (p : Path) (key v : Nat) : (d.wrPath p key v).perDom = d.perDom := by simp only [Dev.wrPath]
@[simp] theorem wrPath_mem (p : Path) (key v : Nat) : (d.wrPath p key v).mem = d.mem := by simp only [Dev.wrPath]
@[simp] theorem wrPath_poisoned (p : Path) (key v : Nat) : (d.wrPath p key v).poisoned = d.poisoned := by simp only [Dev.wrPath]
@[simp] theorem wrPath_counted (p : Path) (key v : Nat) : (d.wrPath p key v).counted = d.counted := by simp only [Dev.wrPath]
@[simp] theorem wrPath_cores (p : Path) (key v : Nat) : (d.wrPath p key v).cores = d.cores := by simp only [Dev.wrPath]
@[simp] theorem wrPath_formes (p : Path) (key v : Nat) : (d.wrPath p key v).formes = d.formes := by simp only [Dev.wrPath]
@[simp] theorem wrPath_nextForme (p : Path) (key v : Nat) : (d.wrPath p key v).nextForme = d.nextForme := by simp only [Dev.wrPath]
@[simp] theorem wrPath_nextRetry (p : Path) (key v : Nat) : (d.wrPath p key v).nextRetry = d.nextRetry := by simp only [Dev.wrPath]
@[simp] theorem wrPath_pages (p : Path) (key v : Nat) : (d.wrPath p key v).pages = d.pages := by simp only [Dev.wrPath]
@[simp] theorem wrPath_chans (p : Path) (key v : Nat) : (d.wrPath p key v).chans = d.chans := by simp only [Dev.wrPath]
@[simp] theorem wrPath_axes (p : Path) (key v : Nat) : (d.wrPath p key v).axes = d.axes := by simp only [Dev.wrPath]
@[simp] theorem wrPath_host (p : Path) (key v : Nat) : (d.wrPath p key v).host = d.host := by simp only [Dev.wrPath]
@[simp] theorem wrPath_net (p : Path) (key v : Nat) : (d.wrPath p key v).net = d.net := by simp only [Dev.wrPath]
@[simp] theorem wrPath_plate (p : Path) (key v : Nat) : (d.wrPath p key v).plate = d.plate := by simp only [Dev.wrPath]
@[simp] theorem wrPath_slug (p : Path) (key v : Nat) : (d.wrPath p key v).slug = d.slug := by simp only [Dev.wrPath]
@[simp] theorem wrPath_seqs (p : Path) (key v : Nat) : (d.wrPath p key v).seqs = d.seqs := by simp only [Dev.wrPath]
@[simp] theorem wrPath_text (p : Path) (key v : Nat) : (d.wrPath p key v).text = d.text := by simp only [Dev.wrPath]
@[simp] theorem wrPath_batch (p : Path) (key v : Nat) : (d.wrPath p key v).batch = d.batch := by simp only [Dev.wrPath]
@[simp] theorem wrPath_power (p : Path) (key v : Nat) : (d.wrPath p key v).power = d.power := by simp only [Dev.wrPath]
@[simp] theorem wrPath_fabric (p : Path) (key v : Nat) : (d.wrPath p key v).fabric = d.fabric := by simp only [Dev.wrPath]
@[simp] theorem wrPath_fw (p : Path) (key v : Nat) : (d.wrPath p key v).fw = d.fw := by simp only [Dev.wrPath]
@[simp] theorem wrPath_test (p : Path) (key v : Nat) : (d.wrPath p key v).test = d.test := by simp only [Dev.wrPath]
@[simp] theorem wrPath_start (p : Path) (key v : Nat) : (d.wrPath p key v).start = d.start := by simp only [Dev.wrPath]
@[simp] theorem wrPath_nv (p : Path) (key v : Nat) : (d.wrPath p key v).nv = d.nv := by simp only [Dev.wrPath]
@[simp] theorem wrPath_faults (p : Path) (key v : Nat) : (d.wrPath p key v).faults = d.faults := by simp only [Dev.wrPath]
@[simp] theorem wrPath_plateDies (p : Path) (key v : Nat) : (d.wrPath p key v).plateDies = d.plateDies := by simp only [Dev.wrPath]
@[simp] theorem wrPath_lasting (p : Path) (key v : Nat) : (d.wrPath p key v).lasting = d.lasting := by simp only [Dev.wrPath]
@[simp] theorem wrPath_ddrPassed (p : Path) (key v : Nat) : (d.wrPath p key v).ddrPassed = d.ddrPassed := by simp only [Dev.wrPath]
@[simp] theorem wrPath_ddrTrained (p : Path) (key v : Nat) : (d.wrPath p key v).ddrTrained = d.ddrTrained := by simp only [Dev.wrPath]
@[simp] theorem wrPath_ddrFixed (p : Path) (key v : Nat) : (d.wrPath p key v).ddrFixed = d.ddrFixed := by simp only [Dev.wrPath]
@[simp] theorem wrPath_patrolPos (p : Path) (key v : Nat) : (d.wrPath p key v).patrolPos = d.patrolPos := by simp only [Dev.wrPath]
@[simp] theorem wrPath_scrubPos (p : Path) (key v : Nat) : (d.wrPath p key v).scrubPos = d.scrubPos := by simp only [Dev.wrPath]
@[simp] theorem wrPath_readingStopped (p : Path) (key v : Nat) : (d.wrPath p key v).readingStopped = d.readingStopped := by simp only [Dev.wrPath]
@[simp] theorem wrPath_draws (p : Path) (key v : Nat) : (d.wrPath p key v).draws = d.draws := by simp only [Dev.wrPath]
@[simp] theorem wrPath_out (p : Path) (key v : Nat) : (d.wrPath p key v).out = d.out := by simp only [Dev.wrPath]

/-! ## `Dev.wrPathDom` changes `perDom` alone -/

@[simp] theorem wrPathDom_now (p : Path) (key : Nat) (bs : List Byte) : (d.wrPathDom p key bs).now = d.now := by simp only [Dev.wrPathDom]
@[simp] theorem wrPathDom_run (p : Path) (key : Nat) (bs : List Byte) : (d.wrPathDom p key bs).run = d.run := by simp only [Dev.wrPathDom]
@[simp] theorem wrPathDom_od (p : Path) (key : Nat) (bs : List Byte) : (d.wrPathDom p key bs).od = d.od := by simp only [Dev.wrPathDom]
@[simp] theorem wrPathDom_dom (p : Path) (key : Nat) (bs : List Byte) : (d.wrPathDom p key bs).dom = d.dom := by simp only [Dev.wrPathDom]
@[simp] theorem wrPathDom_perVal (p : Path) (key : Nat) (bs : List Byte) : (d.wrPathDom p key bs).perVal = d.perVal := by simp only [Dev.wrPathDom]
@[simp] theorem wrPathDom_mem (p : Path) (key : Nat) (bs : List Byte) : (d.wrPathDom p key bs).mem = d.mem := by simp only [Dev.wrPathDom]
@[simp] theorem wrPathDom_poisoned (p : Path) (key : Nat) (bs : List Byte) : (d.wrPathDom p key bs).poisoned = d.poisoned := by simp only [Dev.wrPathDom]
@[simp] theorem wrPathDom_counted (p : Path) (key : Nat) (bs : List Byte) : (d.wrPathDom p key bs).counted = d.counted := by simp only [Dev.wrPathDom]
@[simp] theorem wrPathDom_cores (p : Path) (key : Nat) (bs : List Byte) : (d.wrPathDom p key bs).cores = d.cores := by simp only [Dev.wrPathDom]
@[simp] theorem wrPathDom_formes (p : Path) (key : Nat) (bs : List Byte) : (d.wrPathDom p key bs).formes = d.formes := by simp only [Dev.wrPathDom]
@[simp] theorem wrPathDom_nextForme (p : Path) (key : Nat) (bs : List Byte) : (d.wrPathDom p key bs).nextForme = d.nextForme := by simp only [Dev.wrPathDom]
@[simp] theorem wrPathDom_nextRetry (p : Path) (key : Nat) (bs : List Byte) : (d.wrPathDom p key bs).nextRetry = d.nextRetry := by simp only [Dev.wrPathDom]
@[simp] theorem wrPathDom_pages (p : Path) (key : Nat) (bs : List Byte) : (d.wrPathDom p key bs).pages = d.pages := by simp only [Dev.wrPathDom]
@[simp] theorem wrPathDom_chans (p : Path) (key : Nat) (bs : List Byte) : (d.wrPathDom p key bs).chans = d.chans := by simp only [Dev.wrPathDom]
@[simp] theorem wrPathDom_axes (p : Path) (key : Nat) (bs : List Byte) : (d.wrPathDom p key bs).axes = d.axes := by simp only [Dev.wrPathDom]
@[simp] theorem wrPathDom_host (p : Path) (key : Nat) (bs : List Byte) : (d.wrPathDom p key bs).host = d.host := by simp only [Dev.wrPathDom]
@[simp] theorem wrPathDom_net (p : Path) (key : Nat) (bs : List Byte) : (d.wrPathDom p key bs).net = d.net := by simp only [Dev.wrPathDom]
@[simp] theorem wrPathDom_plate (p : Path) (key : Nat) (bs : List Byte) : (d.wrPathDom p key bs).plate = d.plate := by simp only [Dev.wrPathDom]
@[simp] theorem wrPathDom_slug (p : Path) (key : Nat) (bs : List Byte) : (d.wrPathDom p key bs).slug = d.slug := by simp only [Dev.wrPathDom]
@[simp] theorem wrPathDom_seqs (p : Path) (key : Nat) (bs : List Byte) : (d.wrPathDom p key bs).seqs = d.seqs := by simp only [Dev.wrPathDom]
@[simp] theorem wrPathDom_text (p : Path) (key : Nat) (bs : List Byte) : (d.wrPathDom p key bs).text = d.text := by simp only [Dev.wrPathDom]
@[simp] theorem wrPathDom_batch (p : Path) (key : Nat) (bs : List Byte) : (d.wrPathDom p key bs).batch = d.batch := by simp only [Dev.wrPathDom]
@[simp] theorem wrPathDom_power (p : Path) (key : Nat) (bs : List Byte) : (d.wrPathDom p key bs).power = d.power := by simp only [Dev.wrPathDom]
@[simp] theorem wrPathDom_fabric (p : Path) (key : Nat) (bs : List Byte) : (d.wrPathDom p key bs).fabric = d.fabric := by simp only [Dev.wrPathDom]
@[simp] theorem wrPathDom_fw (p : Path) (key : Nat) (bs : List Byte) : (d.wrPathDom p key bs).fw = d.fw := by simp only [Dev.wrPathDom]
@[simp] theorem wrPathDom_test (p : Path) (key : Nat) (bs : List Byte) : (d.wrPathDom p key bs).test = d.test := by simp only [Dev.wrPathDom]
@[simp] theorem wrPathDom_start (p : Path) (key : Nat) (bs : List Byte) : (d.wrPathDom p key bs).start = d.start := by simp only [Dev.wrPathDom]
@[simp] theorem wrPathDom_nv (p : Path) (key : Nat) (bs : List Byte) : (d.wrPathDom p key bs).nv = d.nv := by simp only [Dev.wrPathDom]
@[simp] theorem wrPathDom_faults (p : Path) (key : Nat) (bs : List Byte) : (d.wrPathDom p key bs).faults = d.faults := by simp only [Dev.wrPathDom]
@[simp] theorem wrPathDom_plateDies (p : Path) (key : Nat) (bs : List Byte) : (d.wrPathDom p key bs).plateDies = d.plateDies := by simp only [Dev.wrPathDom]
@[simp] theorem wrPathDom_lasting (p : Path) (key : Nat) (bs : List Byte) : (d.wrPathDom p key bs).lasting = d.lasting := by simp only [Dev.wrPathDom]
@[simp] theorem wrPathDom_ddrPassed (p : Path) (key : Nat) (bs : List Byte) : (d.wrPathDom p key bs).ddrPassed = d.ddrPassed := by simp only [Dev.wrPathDom]
@[simp] theorem wrPathDom_ddrTrained (p : Path) (key : Nat) (bs : List Byte) : (d.wrPathDom p key bs).ddrTrained = d.ddrTrained := by simp only [Dev.wrPathDom]
@[simp] theorem wrPathDom_ddrFixed (p : Path) (key : Nat) (bs : List Byte) : (d.wrPathDom p key bs).ddrFixed = d.ddrFixed := by simp only [Dev.wrPathDom]
@[simp] theorem wrPathDom_patrolPos (p : Path) (key : Nat) (bs : List Byte) : (d.wrPathDom p key bs).patrolPos = d.patrolPos := by simp only [Dev.wrPathDom]
@[simp] theorem wrPathDom_scrubPos (p : Path) (key : Nat) (bs : List Byte) : (d.wrPathDom p key bs).scrubPos = d.scrubPos := by simp only [Dev.wrPathDom]
@[simp] theorem wrPathDom_readingStopped (p : Path) (key : Nat) (bs : List Byte) : (d.wrPathDom p key bs).readingStopped = d.readingStopped := by simp only [Dev.wrPathDom]
@[simp] theorem wrPathDom_draws (p : Path) (key : Nat) (bs : List Byte) : (d.wrPathDom p key bs).draws = d.draws := by simp only [Dev.wrPathDom]
@[simp] theorem wrPathDom_out (p : Path) (key : Nat) (bs : List Byte) : (d.wrPathDom p key bs).out = d.out := by simp only [Dev.wrPathDom]

/-! ## `Dev.setCore` changes `cores` alone -/

@[simp] theorem setCore_now (c : Fin 96) (x : CoreSt) : (d.setCore c x).now = d.now := by simp only [Dev.setCore]
@[simp] theorem setCore_run (c : Fin 96) (x : CoreSt) : (d.setCore c x).run = d.run := by simp only [Dev.setCore]
@[simp] theorem setCore_od (c : Fin 96) (x : CoreSt) : (d.setCore c x).od = d.od := by simp only [Dev.setCore]
@[simp] theorem setCore_dom (c : Fin 96) (x : CoreSt) : (d.setCore c x).dom = d.dom := by simp only [Dev.setCore]
@[simp] theorem setCore_perVal (c : Fin 96) (x : CoreSt) : (d.setCore c x).perVal = d.perVal := by simp only [Dev.setCore]
@[simp] theorem setCore_perDom (c : Fin 96) (x : CoreSt) : (d.setCore c x).perDom = d.perDom := by simp only [Dev.setCore]
@[simp] theorem setCore_mem (c : Fin 96) (x : CoreSt) : (d.setCore c x).mem = d.mem := by simp only [Dev.setCore]
@[simp] theorem setCore_poisoned (c : Fin 96) (x : CoreSt) : (d.setCore c x).poisoned = d.poisoned := by simp only [Dev.setCore]
@[simp] theorem setCore_counted (c : Fin 96) (x : CoreSt) : (d.setCore c x).counted = d.counted := by simp only [Dev.setCore]
@[simp] theorem setCore_formes (c : Fin 96) (x : CoreSt) : (d.setCore c x).formes = d.formes := by simp only [Dev.setCore]
@[simp] theorem setCore_nextForme (c : Fin 96) (x : CoreSt) : (d.setCore c x).nextForme = d.nextForme := by simp only [Dev.setCore]
@[simp] theorem setCore_nextRetry (c : Fin 96) (x : CoreSt) : (d.setCore c x).nextRetry = d.nextRetry := by simp only [Dev.setCore]
@[simp] theorem setCore_pages (c : Fin 96) (x : CoreSt) : (d.setCore c x).pages = d.pages := by simp only [Dev.setCore]
@[simp] theorem setCore_chans (c : Fin 96) (x : CoreSt) : (d.setCore c x).chans = d.chans := by simp only [Dev.setCore]
@[simp] theorem setCore_axes (c : Fin 96) (x : CoreSt) : (d.setCore c x).axes = d.axes := by simp only [Dev.setCore]
@[simp] theorem setCore_host (c : Fin 96) (x : CoreSt) : (d.setCore c x).host = d.host := by simp only [Dev.setCore]
@[simp] theorem setCore_net (c : Fin 96) (x : CoreSt) : (d.setCore c x).net = d.net := by simp only [Dev.setCore]
@[simp] theorem setCore_plate (c : Fin 96) (x : CoreSt) : (d.setCore c x).plate = d.plate := by simp only [Dev.setCore]
@[simp] theorem setCore_slug (c : Fin 96) (x : CoreSt) : (d.setCore c x).slug = d.slug := by simp only [Dev.setCore]
@[simp] theorem setCore_seqs (c : Fin 96) (x : CoreSt) : (d.setCore c x).seqs = d.seqs := by simp only [Dev.setCore]
@[simp] theorem setCore_text (c : Fin 96) (x : CoreSt) : (d.setCore c x).text = d.text := by simp only [Dev.setCore]
@[simp] theorem setCore_batch (c : Fin 96) (x : CoreSt) : (d.setCore c x).batch = d.batch := by simp only [Dev.setCore]
@[simp] theorem setCore_power (c : Fin 96) (x : CoreSt) : (d.setCore c x).power = d.power := by simp only [Dev.setCore]
@[simp] theorem setCore_fabric (c : Fin 96) (x : CoreSt) : (d.setCore c x).fabric = d.fabric := by simp only [Dev.setCore]
@[simp] theorem setCore_fw (c : Fin 96) (x : CoreSt) : (d.setCore c x).fw = d.fw := by simp only [Dev.setCore]
@[simp] theorem setCore_test (c : Fin 96) (x : CoreSt) : (d.setCore c x).test = d.test := by simp only [Dev.setCore]
@[simp] theorem setCore_start (c : Fin 96) (x : CoreSt) : (d.setCore c x).start = d.start := by simp only [Dev.setCore]
@[simp] theorem setCore_nv (c : Fin 96) (x : CoreSt) : (d.setCore c x).nv = d.nv := by simp only [Dev.setCore]
@[simp] theorem setCore_faults (c : Fin 96) (x : CoreSt) : (d.setCore c x).faults = d.faults := by simp only [Dev.setCore]
@[simp] theorem setCore_plateDies (c : Fin 96) (x : CoreSt) : (d.setCore c x).plateDies = d.plateDies := by simp only [Dev.setCore]
@[simp] theorem setCore_lasting (c : Fin 96) (x : CoreSt) : (d.setCore c x).lasting = d.lasting := by simp only [Dev.setCore]
@[simp] theorem setCore_ddrPassed (c : Fin 96) (x : CoreSt) : (d.setCore c x).ddrPassed = d.ddrPassed := by simp only [Dev.setCore]
@[simp] theorem setCore_ddrTrained (c : Fin 96) (x : CoreSt) : (d.setCore c x).ddrTrained = d.ddrTrained := by simp only [Dev.setCore]
@[simp] theorem setCore_ddrFixed (c : Fin 96) (x : CoreSt) : (d.setCore c x).ddrFixed = d.ddrFixed := by simp only [Dev.setCore]
@[simp] theorem setCore_patrolPos (c : Fin 96) (x : CoreSt) : (d.setCore c x).patrolPos = d.patrolPos := by simp only [Dev.setCore]
@[simp] theorem setCore_scrubPos (c : Fin 96) (x : CoreSt) : (d.setCore c x).scrubPos = d.scrubPos := by simp only [Dev.setCore]
@[simp] theorem setCore_readingStopped (c : Fin 96) (x : CoreSt) : (d.setCore c x).readingStopped = d.readingStopped := by simp only [Dev.setCore]
@[simp] theorem setCore_draws (c : Fin 96) (x : CoreSt) : (d.setCore c x).draws = d.draws := by simp only [Dev.setCore]
@[simp] theorem setCore_out (c : Fin 96) (x : CoreSt) : (d.setCore c x).out = d.out := by simp only [Dev.setCore]

/-! ## `Dev.poke` changes `mem` alone -/

@[simp] theorem poke_now (a : Nat) (bs : List Byte) : (d.poke a bs).now = d.now := by simp only [Dev.poke]
@[simp] theorem poke_run (a : Nat) (bs : List Byte) : (d.poke a bs).run = d.run := by simp only [Dev.poke]
@[simp] theorem poke_od (a : Nat) (bs : List Byte) : (d.poke a bs).od = d.od := by simp only [Dev.poke]
@[simp] theorem poke_dom (a : Nat) (bs : List Byte) : (d.poke a bs).dom = d.dom := by simp only [Dev.poke]
@[simp] theorem poke_perVal (a : Nat) (bs : List Byte) : (d.poke a bs).perVal = d.perVal := by simp only [Dev.poke]
@[simp] theorem poke_perDom (a : Nat) (bs : List Byte) : (d.poke a bs).perDom = d.perDom := by simp only [Dev.poke]
@[simp] theorem poke_poisoned (a : Nat) (bs : List Byte) : (d.poke a bs).poisoned = d.poisoned := by simp only [Dev.poke]
@[simp] theorem poke_counted (a : Nat) (bs : List Byte) : (d.poke a bs).counted = d.counted := by simp only [Dev.poke]
@[simp] theorem poke_cores (a : Nat) (bs : List Byte) : (d.poke a bs).cores = d.cores := by simp only [Dev.poke]
@[simp] theorem poke_formes (a : Nat) (bs : List Byte) : (d.poke a bs).formes = d.formes := by simp only [Dev.poke]
@[simp] theorem poke_nextForme (a : Nat) (bs : List Byte) : (d.poke a bs).nextForme = d.nextForme := by simp only [Dev.poke]
@[simp] theorem poke_nextRetry (a : Nat) (bs : List Byte) : (d.poke a bs).nextRetry = d.nextRetry := by simp only [Dev.poke]
@[simp] theorem poke_pages (a : Nat) (bs : List Byte) : (d.poke a bs).pages = d.pages := by simp only [Dev.poke]
@[simp] theorem poke_chans (a : Nat) (bs : List Byte) : (d.poke a bs).chans = d.chans := by simp only [Dev.poke]
@[simp] theorem poke_axes (a : Nat) (bs : List Byte) : (d.poke a bs).axes = d.axes := by simp only [Dev.poke]
@[simp] theorem poke_host (a : Nat) (bs : List Byte) : (d.poke a bs).host = d.host := by simp only [Dev.poke]
@[simp] theorem poke_net (a : Nat) (bs : List Byte) : (d.poke a bs).net = d.net := by simp only [Dev.poke]
@[simp] theorem poke_plate (a : Nat) (bs : List Byte) : (d.poke a bs).plate = d.plate := by simp only [Dev.poke]
@[simp] theorem poke_slug (a : Nat) (bs : List Byte) : (d.poke a bs).slug = d.slug := by simp only [Dev.poke]
@[simp] theorem poke_seqs (a : Nat) (bs : List Byte) : (d.poke a bs).seqs = d.seqs := by simp only [Dev.poke]
@[simp] theorem poke_text (a : Nat) (bs : List Byte) : (d.poke a bs).text = d.text := by simp only [Dev.poke]
@[simp] theorem poke_batch (a : Nat) (bs : List Byte) : (d.poke a bs).batch = d.batch := by simp only [Dev.poke]
@[simp] theorem poke_power (a : Nat) (bs : List Byte) : (d.poke a bs).power = d.power := by simp only [Dev.poke]
@[simp] theorem poke_fabric (a : Nat) (bs : List Byte) : (d.poke a bs).fabric = d.fabric := by simp only [Dev.poke]
@[simp] theorem poke_fw (a : Nat) (bs : List Byte) : (d.poke a bs).fw = d.fw := by simp only [Dev.poke]
@[simp] theorem poke_test (a : Nat) (bs : List Byte) : (d.poke a bs).test = d.test := by simp only [Dev.poke]
@[simp] theorem poke_start (a : Nat) (bs : List Byte) : (d.poke a bs).start = d.start := by simp only [Dev.poke]
@[simp] theorem poke_nv (a : Nat) (bs : List Byte) : (d.poke a bs).nv = d.nv := by simp only [Dev.poke]
@[simp] theorem poke_faults (a : Nat) (bs : List Byte) : (d.poke a bs).faults = d.faults := by simp only [Dev.poke]
@[simp] theorem poke_plateDies (a : Nat) (bs : List Byte) : (d.poke a bs).plateDies = d.plateDies := by simp only [Dev.poke]
@[simp] theorem poke_lasting (a : Nat) (bs : List Byte) : (d.poke a bs).lasting = d.lasting := by simp only [Dev.poke]
@[simp] theorem poke_ddrPassed (a : Nat) (bs : List Byte) : (d.poke a bs).ddrPassed = d.ddrPassed := by simp only [Dev.poke]
@[simp] theorem poke_ddrTrained (a : Nat) (bs : List Byte) : (d.poke a bs).ddrTrained = d.ddrTrained := by simp only [Dev.poke]
@[simp] theorem poke_ddrFixed (a : Nat) (bs : List Byte) : (d.poke a bs).ddrFixed = d.ddrFixed := by simp only [Dev.poke]
@[simp] theorem poke_patrolPos (a : Nat) (bs : List Byte) : (d.poke a bs).patrolPos = d.patrolPos := by simp only [Dev.poke]
@[simp] theorem poke_scrubPos (a : Nat) (bs : List Byte) : (d.poke a bs).scrubPos = d.scrubPos := by simp only [Dev.poke]
@[simp] theorem poke_readingStopped (a : Nat) (bs : List Byte) : (d.poke a bs).readingStopped = d.readingStopped := by simp only [Dev.poke]
@[simp] theorem poke_draws (a : Nat) (bs : List Byte) : (d.poke a bs).draws = d.draws := by simp only [Dev.poke]
@[simp] theorem poke_out (a : Nat) (bs : List Byte) : (d.poke a bs).out = d.out := by simp only [Dev.poke]

/-! ## `Dev.emit` changes `out` alone -/

@[simp] theorem emit_now (o : Out) : (d.emit o).now = d.now := by simp only [Dev.emit]
@[simp] theorem emit_run (o : Out) : (d.emit o).run = d.run := by simp only [Dev.emit]
@[simp] theorem emit_od (o : Out) : (d.emit o).od = d.od := by simp only [Dev.emit]
@[simp] theorem emit_dom (o : Out) : (d.emit o).dom = d.dom := by simp only [Dev.emit]
@[simp] theorem emit_perVal (o : Out) : (d.emit o).perVal = d.perVal := by simp only [Dev.emit]
@[simp] theorem emit_perDom (o : Out) : (d.emit o).perDom = d.perDom := by simp only [Dev.emit]
@[simp] theorem emit_mem (o : Out) : (d.emit o).mem = d.mem := by simp only [Dev.emit]
@[simp] theorem emit_poisoned (o : Out) : (d.emit o).poisoned = d.poisoned := by simp only [Dev.emit]
@[simp] theorem emit_counted (o : Out) : (d.emit o).counted = d.counted := by simp only [Dev.emit]
@[simp] theorem emit_cores (o : Out) : (d.emit o).cores = d.cores := by simp only [Dev.emit]
@[simp] theorem emit_formes (o : Out) : (d.emit o).formes = d.formes := by simp only [Dev.emit]
@[simp] theorem emit_nextForme (o : Out) : (d.emit o).nextForme = d.nextForme := by simp only [Dev.emit]
@[simp] theorem emit_nextRetry (o : Out) : (d.emit o).nextRetry = d.nextRetry := by simp only [Dev.emit]
@[simp] theorem emit_pages (o : Out) : (d.emit o).pages = d.pages := by simp only [Dev.emit]
@[simp] theorem emit_chans (o : Out) : (d.emit o).chans = d.chans := by simp only [Dev.emit]
@[simp] theorem emit_axes (o : Out) : (d.emit o).axes = d.axes := by simp only [Dev.emit]
@[simp] theorem emit_host (o : Out) : (d.emit o).host = d.host := by simp only [Dev.emit]
@[simp] theorem emit_net (o : Out) : (d.emit o).net = d.net := by simp only [Dev.emit]
@[simp] theorem emit_plate (o : Out) : (d.emit o).plate = d.plate := by simp only [Dev.emit]
@[simp] theorem emit_slug (o : Out) : (d.emit o).slug = d.slug := by simp only [Dev.emit]
@[simp] theorem emit_seqs (o : Out) : (d.emit o).seqs = d.seqs := by simp only [Dev.emit]
@[simp] theorem emit_text (o : Out) : (d.emit o).text = d.text := by simp only [Dev.emit]
@[simp] theorem emit_batch (o : Out) : (d.emit o).batch = d.batch := by simp only [Dev.emit]
@[simp] theorem emit_power (o : Out) : (d.emit o).power = d.power := by simp only [Dev.emit]
@[simp] theorem emit_fabric (o : Out) : (d.emit o).fabric = d.fabric := by simp only [Dev.emit]
@[simp] theorem emit_fw (o : Out) : (d.emit o).fw = d.fw := by simp only [Dev.emit]
@[simp] theorem emit_test (o : Out) : (d.emit o).test = d.test := by simp only [Dev.emit]
@[simp] theorem emit_start (o : Out) : (d.emit o).start = d.start := by simp only [Dev.emit]
@[simp] theorem emit_nv (o : Out) : (d.emit o).nv = d.nv := by simp only [Dev.emit]
@[simp] theorem emit_faults (o : Out) : (d.emit o).faults = d.faults := by simp only [Dev.emit]
@[simp] theorem emit_plateDies (o : Out) : (d.emit o).plateDies = d.plateDies := by simp only [Dev.emit]
@[simp] theorem emit_lasting (o : Out) : (d.emit o).lasting = d.lasting := by simp only [Dev.emit]
@[simp] theorem emit_ddrPassed (o : Out) : (d.emit o).ddrPassed = d.ddrPassed := by simp only [Dev.emit]
@[simp] theorem emit_ddrTrained (o : Out) : (d.emit o).ddrTrained = d.ddrTrained := by simp only [Dev.emit]
@[simp] theorem emit_ddrFixed (o : Out) : (d.emit o).ddrFixed = d.ddrFixed := by simp only [Dev.emit]
@[simp] theorem emit_patrolPos (o : Out) : (d.emit o).patrolPos = d.patrolPos := by simp only [Dev.emit]
@[simp] theorem emit_scrubPos (o : Out) : (d.emit o).scrubPos = d.scrubPos := by simp only [Dev.emit]
@[simp] theorem emit_readingStopped (o : Out) : (d.emit o).readingStopped = d.readingStopped := by simp only [Dev.emit]
@[simp] theorem emit_draws (o : Out) : (d.emit o).draws = d.draws := by simp only [Dev.emit]

/-! ## `Dev.drawn` changes `draws` alone -/

@[simp] theorem drawn_now : d.drawn.now = d.now := by simp only [Dev.drawn]
@[simp] theorem drawn_run : d.drawn.run = d.run := by simp only [Dev.drawn]
@[simp] theorem drawn_od : d.drawn.od = d.od := by simp only [Dev.drawn]
@[simp] theorem drawn_dom : d.drawn.dom = d.dom := by simp only [Dev.drawn]
@[simp] theorem drawn_perVal : d.drawn.perVal = d.perVal := by simp only [Dev.drawn]
@[simp] theorem drawn_perDom : d.drawn.perDom = d.perDom := by simp only [Dev.drawn]
@[simp] theorem drawn_mem : d.drawn.mem = d.mem := by simp only [Dev.drawn]
@[simp] theorem drawn_poisoned : d.drawn.poisoned = d.poisoned := by simp only [Dev.drawn]
@[simp] theorem drawn_counted : d.drawn.counted = d.counted := by simp only [Dev.drawn]
@[simp] theorem drawn_cores : d.drawn.cores = d.cores := by simp only [Dev.drawn]
@[simp] theorem drawn_formes : d.drawn.formes = d.formes := by simp only [Dev.drawn]
@[simp] theorem drawn_nextForme : d.drawn.nextForme = d.nextForme := by simp only [Dev.drawn]
@[simp] theorem drawn_nextRetry : d.drawn.nextRetry = d.nextRetry := by simp only [Dev.drawn]
@[simp] theorem drawn_pages : d.drawn.pages = d.pages := by simp only [Dev.drawn]
@[simp] theorem drawn_chans : d.drawn.chans = d.chans := by simp only [Dev.drawn]
@[simp] theorem drawn_axes : d.drawn.axes = d.axes := by simp only [Dev.drawn]
@[simp] theorem drawn_host : d.drawn.host = d.host := by simp only [Dev.drawn]
@[simp] theorem drawn_net : d.drawn.net = d.net := by simp only [Dev.drawn]
@[simp] theorem drawn_plate : d.drawn.plate = d.plate := by simp only [Dev.drawn]
@[simp] theorem drawn_slug : d.drawn.slug = d.slug := by simp only [Dev.drawn]
@[simp] theorem drawn_seqs : d.drawn.seqs = d.seqs := by simp only [Dev.drawn]
@[simp] theorem drawn_text : d.drawn.text = d.text := by simp only [Dev.drawn]
@[simp] theorem drawn_batch : d.drawn.batch = d.batch := by simp only [Dev.drawn]
@[simp] theorem drawn_power : d.drawn.power = d.power := by simp only [Dev.drawn]
@[simp] theorem drawn_fabric : d.drawn.fabric = d.fabric := by simp only [Dev.drawn]
@[simp] theorem drawn_fw : d.drawn.fw = d.fw := by simp only [Dev.drawn]
@[simp] theorem drawn_test : d.drawn.test = d.test := by simp only [Dev.drawn]
@[simp] theorem drawn_start : d.drawn.start = d.start := by simp only [Dev.drawn]
@[simp] theorem drawn_nv : d.drawn.nv = d.nv := by simp only [Dev.drawn]
@[simp] theorem drawn_faults : d.drawn.faults = d.faults := by simp only [Dev.drawn]
@[simp] theorem drawn_plateDies : d.drawn.plateDies = d.plateDies := by simp only [Dev.drawn]
@[simp] theorem drawn_lasting : d.drawn.lasting = d.lasting := by simp only [Dev.drawn]
@[simp] theorem drawn_ddrPassed : d.drawn.ddrPassed = d.ddrPassed := by simp only [Dev.drawn]
@[simp] theorem drawn_ddrTrained : d.drawn.ddrTrained = d.ddrTrained := by simp only [Dev.drawn]
@[simp] theorem drawn_ddrFixed : d.drawn.ddrFixed = d.ddrFixed := by simp only [Dev.drawn]
@[simp] theorem drawn_patrolPos : d.drawn.patrolPos = d.patrolPos := by simp only [Dev.drawn]
@[simp] theorem drawn_scrubPos : d.drawn.scrubPos = d.scrubPos := by simp only [Dev.drawn]
@[simp] theorem drawn_readingStopped : d.drawn.readingStopped = d.readingStopped := by simp only [Dev.drawn]
@[simp] theorem drawn_out : d.drawn.out = d.out := by simp only [Dev.drawn]

/-! ## `Dev.setAxis` changes `axes` alone -/

@[simp] theorem setAxis_now (ax : Nat) (a : AxisSt) : (d.setAxis ax a).now = d.now := by simp only [Dev.setAxis]
@[simp] theorem setAxis_run (ax : Nat) (a : AxisSt) : (d.setAxis ax a).run = d.run := by simp only [Dev.setAxis]
@[simp] theorem setAxis_od (ax : Nat) (a : AxisSt) : (d.setAxis ax a).od = d.od := by simp only [Dev.setAxis]
@[simp] theorem setAxis_dom (ax : Nat) (a : AxisSt) : (d.setAxis ax a).dom = d.dom := by simp only [Dev.setAxis]
@[simp] theorem setAxis_perVal (ax : Nat) (a : AxisSt) : (d.setAxis ax a).perVal = d.perVal := by simp only [Dev.setAxis]
@[simp] theorem setAxis_perDom (ax : Nat) (a : AxisSt) : (d.setAxis ax a).perDom = d.perDom := by simp only [Dev.setAxis]
@[simp] theorem setAxis_mem (ax : Nat) (a : AxisSt) : (d.setAxis ax a).mem = d.mem := by simp only [Dev.setAxis]
@[simp] theorem setAxis_poisoned (ax : Nat) (a : AxisSt) : (d.setAxis ax a).poisoned = d.poisoned := by simp only [Dev.setAxis]
@[simp] theorem setAxis_counted (ax : Nat) (a : AxisSt) : (d.setAxis ax a).counted = d.counted := by simp only [Dev.setAxis]
@[simp] theorem setAxis_cores (ax : Nat) (a : AxisSt) : (d.setAxis ax a).cores = d.cores := by simp only [Dev.setAxis]
@[simp] theorem setAxis_formes (ax : Nat) (a : AxisSt) : (d.setAxis ax a).formes = d.formes := by simp only [Dev.setAxis]
@[simp] theorem setAxis_nextForme (ax : Nat) (a : AxisSt) : (d.setAxis ax a).nextForme = d.nextForme := by simp only [Dev.setAxis]
@[simp] theorem setAxis_nextRetry (ax : Nat) (a : AxisSt) : (d.setAxis ax a).nextRetry = d.nextRetry := by simp only [Dev.setAxis]
@[simp] theorem setAxis_pages (ax : Nat) (a : AxisSt) : (d.setAxis ax a).pages = d.pages := by simp only [Dev.setAxis]
@[simp] theorem setAxis_chans (ax : Nat) (a : AxisSt) : (d.setAxis ax a).chans = d.chans := by simp only [Dev.setAxis]
@[simp] theorem setAxis_host (ax : Nat) (a : AxisSt) : (d.setAxis ax a).host = d.host := by simp only [Dev.setAxis]
@[simp] theorem setAxis_net (ax : Nat) (a : AxisSt) : (d.setAxis ax a).net = d.net := by simp only [Dev.setAxis]
@[simp] theorem setAxis_plate (ax : Nat) (a : AxisSt) : (d.setAxis ax a).plate = d.plate := by simp only [Dev.setAxis]
@[simp] theorem setAxis_slug (ax : Nat) (a : AxisSt) : (d.setAxis ax a).slug = d.slug := by simp only [Dev.setAxis]
@[simp] theorem setAxis_seqs (ax : Nat) (a : AxisSt) : (d.setAxis ax a).seqs = d.seqs := by simp only [Dev.setAxis]
@[simp] theorem setAxis_text (ax : Nat) (a : AxisSt) : (d.setAxis ax a).text = d.text := by simp only [Dev.setAxis]
@[simp] theorem setAxis_batch (ax : Nat) (a : AxisSt) : (d.setAxis ax a).batch = d.batch := by simp only [Dev.setAxis]
@[simp] theorem setAxis_power (ax : Nat) (a : AxisSt) : (d.setAxis ax a).power = d.power := by simp only [Dev.setAxis]
@[simp] theorem setAxis_fabric (ax : Nat) (a : AxisSt) : (d.setAxis ax a).fabric = d.fabric := by simp only [Dev.setAxis]
@[simp] theorem setAxis_fw (ax : Nat) (a : AxisSt) : (d.setAxis ax a).fw = d.fw := by simp only [Dev.setAxis]
@[simp] theorem setAxis_test (ax : Nat) (a : AxisSt) : (d.setAxis ax a).test = d.test := by simp only [Dev.setAxis]
@[simp] theorem setAxis_start (ax : Nat) (a : AxisSt) : (d.setAxis ax a).start = d.start := by simp only [Dev.setAxis]
@[simp] theorem setAxis_nv (ax : Nat) (a : AxisSt) : (d.setAxis ax a).nv = d.nv := by simp only [Dev.setAxis]
@[simp] theorem setAxis_faults (ax : Nat) (a : AxisSt) : (d.setAxis ax a).faults = d.faults := by simp only [Dev.setAxis]
@[simp] theorem setAxis_plateDies (ax : Nat) (a : AxisSt) : (d.setAxis ax a).plateDies = d.plateDies := by simp only [Dev.setAxis]
@[simp] theorem setAxis_lasting (ax : Nat) (a : AxisSt) : (d.setAxis ax a).lasting = d.lasting := by simp only [Dev.setAxis]
@[simp] theorem setAxis_ddrPassed (ax : Nat) (a : AxisSt) : (d.setAxis ax a).ddrPassed = d.ddrPassed := by simp only [Dev.setAxis]
@[simp] theorem setAxis_ddrTrained (ax : Nat) (a : AxisSt) : (d.setAxis ax a).ddrTrained = d.ddrTrained := by simp only [Dev.setAxis]
@[simp] theorem setAxis_ddrFixed (ax : Nat) (a : AxisSt) : (d.setAxis ax a).ddrFixed = d.ddrFixed := by simp only [Dev.setAxis]
@[simp] theorem setAxis_patrolPos (ax : Nat) (a : AxisSt) : (d.setAxis ax a).patrolPos = d.patrolPos := by simp only [Dev.setAxis]
@[simp] theorem setAxis_scrubPos (ax : Nat) (a : AxisSt) : (d.setAxis ax a).scrubPos = d.scrubPos := by simp only [Dev.setAxis]
@[simp] theorem setAxis_readingStopped (ax : Nat) (a : AxisSt) : (d.setAxis ax a).readingStopped = d.readingStopped := by simp only [Dev.setAxis]
@[simp] theorem setAxis_draws (ax : Nat) (a : AxisSt) : (d.setAxis ax a).draws = d.draws := by simp only [Dev.setAxis]
@[simp] theorem setAxis_out (ax : Nat) (a : AxisSt) : (d.setAxis ax a).out = d.out := by simp only [Dev.setAxis]

/-! ## `Dev.setChan` changes `chans` alone -/

@[simp] theorem setChan_now (ch : Nat) (c : ChanSt) : (d.setChan ch c).now = d.now := by simp only [Dev.setChan]
@[simp] theorem setChan_run (ch : Nat) (c : ChanSt) : (d.setChan ch c).run = d.run := by simp only [Dev.setChan]
@[simp] theorem setChan_od (ch : Nat) (c : ChanSt) : (d.setChan ch c).od = d.od := by simp only [Dev.setChan]
@[simp] theorem setChan_dom (ch : Nat) (c : ChanSt) : (d.setChan ch c).dom = d.dom := by simp only [Dev.setChan]
@[simp] theorem setChan_perVal (ch : Nat) (c : ChanSt) : (d.setChan ch c).perVal = d.perVal := by simp only [Dev.setChan]
@[simp] theorem setChan_perDom (ch : Nat) (c : ChanSt) : (d.setChan ch c).perDom = d.perDom := by simp only [Dev.setChan]
@[simp] theorem setChan_mem (ch : Nat) (c : ChanSt) : (d.setChan ch c).mem = d.mem := by simp only [Dev.setChan]
@[simp] theorem setChan_poisoned (ch : Nat) (c : ChanSt) : (d.setChan ch c).poisoned = d.poisoned := by simp only [Dev.setChan]
@[simp] theorem setChan_counted (ch : Nat) (c : ChanSt) : (d.setChan ch c).counted = d.counted := by simp only [Dev.setChan]
@[simp] theorem setChan_cores (ch : Nat) (c : ChanSt) : (d.setChan ch c).cores = d.cores := by simp only [Dev.setChan]
@[simp] theorem setChan_formes (ch : Nat) (c : ChanSt) : (d.setChan ch c).formes = d.formes := by simp only [Dev.setChan]
@[simp] theorem setChan_nextForme (ch : Nat) (c : ChanSt) : (d.setChan ch c).nextForme = d.nextForme := by simp only [Dev.setChan]
@[simp] theorem setChan_nextRetry (ch : Nat) (c : ChanSt) : (d.setChan ch c).nextRetry = d.nextRetry := by simp only [Dev.setChan]
@[simp] theorem setChan_pages (ch : Nat) (c : ChanSt) : (d.setChan ch c).pages = d.pages := by simp only [Dev.setChan]
@[simp] theorem setChan_axes (ch : Nat) (c : ChanSt) : (d.setChan ch c).axes = d.axes := by simp only [Dev.setChan]
@[simp] theorem setChan_host (ch : Nat) (c : ChanSt) : (d.setChan ch c).host = d.host := by simp only [Dev.setChan]
@[simp] theorem setChan_net (ch : Nat) (c : ChanSt) : (d.setChan ch c).net = d.net := by simp only [Dev.setChan]
@[simp] theorem setChan_plate (ch : Nat) (c : ChanSt) : (d.setChan ch c).plate = d.plate := by simp only [Dev.setChan]
@[simp] theorem setChan_slug (ch : Nat) (c : ChanSt) : (d.setChan ch c).slug = d.slug := by simp only [Dev.setChan]
@[simp] theorem setChan_seqs (ch : Nat) (c : ChanSt) : (d.setChan ch c).seqs = d.seqs := by simp only [Dev.setChan]
@[simp] theorem setChan_text (ch : Nat) (c : ChanSt) : (d.setChan ch c).text = d.text := by simp only [Dev.setChan]
@[simp] theorem setChan_batch (ch : Nat) (c : ChanSt) : (d.setChan ch c).batch = d.batch := by simp only [Dev.setChan]
@[simp] theorem setChan_power (ch : Nat) (c : ChanSt) : (d.setChan ch c).power = d.power := by simp only [Dev.setChan]
@[simp] theorem setChan_fabric (ch : Nat) (c : ChanSt) : (d.setChan ch c).fabric = d.fabric := by simp only [Dev.setChan]
@[simp] theorem setChan_fw (ch : Nat) (c : ChanSt) : (d.setChan ch c).fw = d.fw := by simp only [Dev.setChan]
@[simp] theorem setChan_test (ch : Nat) (c : ChanSt) : (d.setChan ch c).test = d.test := by simp only [Dev.setChan]
@[simp] theorem setChan_start (ch : Nat) (c : ChanSt) : (d.setChan ch c).start = d.start := by simp only [Dev.setChan]
@[simp] theorem setChan_nv (ch : Nat) (c : ChanSt) : (d.setChan ch c).nv = d.nv := by simp only [Dev.setChan]
@[simp] theorem setChan_faults (ch : Nat) (c : ChanSt) : (d.setChan ch c).faults = d.faults := by simp only [Dev.setChan]
@[simp] theorem setChan_plateDies (ch : Nat) (c : ChanSt) : (d.setChan ch c).plateDies = d.plateDies := by simp only [Dev.setChan]
@[simp] theorem setChan_lasting (ch : Nat) (c : ChanSt) : (d.setChan ch c).lasting = d.lasting := by simp only [Dev.setChan]
@[simp] theorem setChan_ddrPassed (ch : Nat) (c : ChanSt) : (d.setChan ch c).ddrPassed = d.ddrPassed := by simp only [Dev.setChan]
@[simp] theorem setChan_ddrTrained (ch : Nat) (c : ChanSt) : (d.setChan ch c).ddrTrained = d.ddrTrained := by simp only [Dev.setChan]
@[simp] theorem setChan_ddrFixed (ch : Nat) (c : ChanSt) : (d.setChan ch c).ddrFixed = d.ddrFixed := by simp only [Dev.setChan]
@[simp] theorem setChan_patrolPos (ch : Nat) (c : ChanSt) : (d.setChan ch c).patrolPos = d.patrolPos := by simp only [Dev.setChan]
@[simp] theorem setChan_scrubPos (ch : Nat) (c : ChanSt) : (d.setChan ch c).scrubPos = d.scrubPos := by simp only [Dev.setChan]
@[simp] theorem setChan_readingStopped (ch : Nat) (c : ChanSt) : (d.setChan ch c).readingStopped = d.readingStopped := by simp only [Dev.setChan]
@[simp] theorem setChan_draws (ch : Nat) (c : ChanSt) : (d.setChan ch c).draws = d.draws := by simp only [Dev.setChan]
@[simp] theorem setChan_out (ch : Nat) (c : ChanSt) : (d.setChan ch c).out = d.out := by simp only [Dev.setChan]

/-! ## `Dev.setPort` changes `fabric` alone -/

@[simp] theorem setPort_now (port : Nat) (p : PortSt) : (d.setPort port p).now = d.now := by simp only [Dev.setPort]
@[simp] theorem setPort_run (port : Nat) (p : PortSt) : (d.setPort port p).run = d.run := by simp only [Dev.setPort]
@[simp] theorem setPort_od (port : Nat) (p : PortSt) : (d.setPort port p).od = d.od := by simp only [Dev.setPort]
@[simp] theorem setPort_dom (port : Nat) (p : PortSt) : (d.setPort port p).dom = d.dom := by simp only [Dev.setPort]
@[simp] theorem setPort_perVal (port : Nat) (p : PortSt) : (d.setPort port p).perVal = d.perVal := by simp only [Dev.setPort]
@[simp] theorem setPort_perDom (port : Nat) (p : PortSt) : (d.setPort port p).perDom = d.perDom := by simp only [Dev.setPort]
@[simp] theorem setPort_mem (port : Nat) (p : PortSt) : (d.setPort port p).mem = d.mem := by simp only [Dev.setPort]
@[simp] theorem setPort_poisoned (port : Nat) (p : PortSt) : (d.setPort port p).poisoned = d.poisoned := by simp only [Dev.setPort]
@[simp] theorem setPort_counted (port : Nat) (p : PortSt) : (d.setPort port p).counted = d.counted := by simp only [Dev.setPort]
@[simp] theorem setPort_cores (port : Nat) (p : PortSt) : (d.setPort port p).cores = d.cores := by simp only [Dev.setPort]
@[simp] theorem setPort_formes (port : Nat) (p : PortSt) : (d.setPort port p).formes = d.formes := by simp only [Dev.setPort]
@[simp] theorem setPort_nextForme (port : Nat) (p : PortSt) : (d.setPort port p).nextForme = d.nextForme := by simp only [Dev.setPort]
@[simp] theorem setPort_nextRetry (port : Nat) (p : PortSt) : (d.setPort port p).nextRetry = d.nextRetry := by simp only [Dev.setPort]
@[simp] theorem setPort_pages (port : Nat) (p : PortSt) : (d.setPort port p).pages = d.pages := by simp only [Dev.setPort]
@[simp] theorem setPort_chans (port : Nat) (p : PortSt) : (d.setPort port p).chans = d.chans := by simp only [Dev.setPort]
@[simp] theorem setPort_axes (port : Nat) (p : PortSt) : (d.setPort port p).axes = d.axes := by simp only [Dev.setPort]
@[simp] theorem setPort_host (port : Nat) (p : PortSt) : (d.setPort port p).host = d.host := by simp only [Dev.setPort]
@[simp] theorem setPort_net (port : Nat) (p : PortSt) : (d.setPort port p).net = d.net := by simp only [Dev.setPort]
@[simp] theorem setPort_plate (port : Nat) (p : PortSt) : (d.setPort port p).plate = d.plate := by simp only [Dev.setPort]
@[simp] theorem setPort_slug (port : Nat) (p : PortSt) : (d.setPort port p).slug = d.slug := by simp only [Dev.setPort]
@[simp] theorem setPort_seqs (port : Nat) (p : PortSt) : (d.setPort port p).seqs = d.seqs := by simp only [Dev.setPort]
@[simp] theorem setPort_text (port : Nat) (p : PortSt) : (d.setPort port p).text = d.text := by simp only [Dev.setPort]
@[simp] theorem setPort_batch (port : Nat) (p : PortSt) : (d.setPort port p).batch = d.batch := by simp only [Dev.setPort]
@[simp] theorem setPort_power (port : Nat) (p : PortSt) : (d.setPort port p).power = d.power := by simp only [Dev.setPort]
@[simp] theorem setPort_fw (port : Nat) (p : PortSt) : (d.setPort port p).fw = d.fw := by simp only [Dev.setPort]
@[simp] theorem setPort_test (port : Nat) (p : PortSt) : (d.setPort port p).test = d.test := by simp only [Dev.setPort]
@[simp] theorem setPort_start (port : Nat) (p : PortSt) : (d.setPort port p).start = d.start := by simp only [Dev.setPort]
@[simp] theorem setPort_nv (port : Nat) (p : PortSt) : (d.setPort port p).nv = d.nv := by simp only [Dev.setPort]
@[simp] theorem setPort_faults (port : Nat) (p : PortSt) : (d.setPort port p).faults = d.faults := by simp only [Dev.setPort]
@[simp] theorem setPort_plateDies (port : Nat) (p : PortSt) : (d.setPort port p).plateDies = d.plateDies := by simp only [Dev.setPort]
@[simp] theorem setPort_lasting (port : Nat) (p : PortSt) : (d.setPort port p).lasting = d.lasting := by simp only [Dev.setPort]
@[simp] theorem setPort_ddrPassed (port : Nat) (p : PortSt) : (d.setPort port p).ddrPassed = d.ddrPassed := by simp only [Dev.setPort]
@[simp] theorem setPort_ddrTrained (port : Nat) (p : PortSt) : (d.setPort port p).ddrTrained = d.ddrTrained := by simp only [Dev.setPort]
@[simp] theorem setPort_ddrFixed (port : Nat) (p : PortSt) : (d.setPort port p).ddrFixed = d.ddrFixed := by simp only [Dev.setPort]
@[simp] theorem setPort_patrolPos (port : Nat) (p : PortSt) : (d.setPort port p).patrolPos = d.patrolPos := by simp only [Dev.setPort]
@[simp] theorem setPort_scrubPos (port : Nat) (p : PortSt) : (d.setPort port p).scrubPos = d.scrubPos := by simp only [Dev.setPort]
@[simp] theorem setPort_readingStopped (port : Nat) (p : PortSt) : (d.setPort port p).readingStopped = d.readingStopped := by simp only [Dev.setPort]
@[simp] theorem setPort_draws (port : Nat) (p : PortSt) : (d.setPort port p).draws = d.draws := by simp only [Dev.setPort]
@[simp] theorem setPort_out (port : Nat) (p : PortSt) : (d.setPort port p).out = d.out := by simp only [Dev.setPort]

/-! ## `Dev.updPage` changes `pages` alone -/

@[simp] theorem updPage_now (ring seq : Nat) (f : PageSide → PageSide) : (d.updPage ring seq f).now = d.now := by simp only [Dev.updPage]
@[simp] theorem updPage_run (ring seq : Nat) (f : PageSide → PageSide) : (d.updPage ring seq f).run = d.run := by simp only [Dev.updPage]
@[simp] theorem updPage_od (ring seq : Nat) (f : PageSide → PageSide) : (d.updPage ring seq f).od = d.od := by simp only [Dev.updPage]
@[simp] theorem updPage_dom (ring seq : Nat) (f : PageSide → PageSide) : (d.updPage ring seq f).dom = d.dom := by simp only [Dev.updPage]
@[simp] theorem updPage_perVal (ring seq : Nat) (f : PageSide → PageSide) : (d.updPage ring seq f).perVal = d.perVal := by simp only [Dev.updPage]
@[simp] theorem updPage_perDom (ring seq : Nat) (f : PageSide → PageSide) : (d.updPage ring seq f).perDom = d.perDom := by simp only [Dev.updPage]
@[simp] theorem updPage_mem (ring seq : Nat) (f : PageSide → PageSide) : (d.updPage ring seq f).mem = d.mem := by simp only [Dev.updPage]
@[simp] theorem updPage_poisoned (ring seq : Nat) (f : PageSide → PageSide) : (d.updPage ring seq f).poisoned = d.poisoned := by simp only [Dev.updPage]
@[simp] theorem updPage_counted (ring seq : Nat) (f : PageSide → PageSide) : (d.updPage ring seq f).counted = d.counted := by simp only [Dev.updPage]
@[simp] theorem updPage_cores (ring seq : Nat) (f : PageSide → PageSide) : (d.updPage ring seq f).cores = d.cores := by simp only [Dev.updPage]
@[simp] theorem updPage_formes (ring seq : Nat) (f : PageSide → PageSide) : (d.updPage ring seq f).formes = d.formes := by simp only [Dev.updPage]
@[simp] theorem updPage_nextForme (ring seq : Nat) (f : PageSide → PageSide) : (d.updPage ring seq f).nextForme = d.nextForme := by simp only [Dev.updPage]
@[simp] theorem updPage_nextRetry (ring seq : Nat) (f : PageSide → PageSide) : (d.updPage ring seq f).nextRetry = d.nextRetry := by simp only [Dev.updPage]
@[simp] theorem updPage_chans (ring seq : Nat) (f : PageSide → PageSide) : (d.updPage ring seq f).chans = d.chans := by simp only [Dev.updPage]
@[simp] theorem updPage_axes (ring seq : Nat) (f : PageSide → PageSide) : (d.updPage ring seq f).axes = d.axes := by simp only [Dev.updPage]
@[simp] theorem updPage_host (ring seq : Nat) (f : PageSide → PageSide) : (d.updPage ring seq f).host = d.host := by simp only [Dev.updPage]
@[simp] theorem updPage_net (ring seq : Nat) (f : PageSide → PageSide) : (d.updPage ring seq f).net = d.net := by simp only [Dev.updPage]
@[simp] theorem updPage_plate (ring seq : Nat) (f : PageSide → PageSide) : (d.updPage ring seq f).plate = d.plate := by simp only [Dev.updPage]
@[simp] theorem updPage_slug (ring seq : Nat) (f : PageSide → PageSide) : (d.updPage ring seq f).slug = d.slug := by simp only [Dev.updPage]
@[simp] theorem updPage_seqs (ring seq : Nat) (f : PageSide → PageSide) : (d.updPage ring seq f).seqs = d.seqs := by simp only [Dev.updPage]
@[simp] theorem updPage_text (ring seq : Nat) (f : PageSide → PageSide) : (d.updPage ring seq f).text = d.text := by simp only [Dev.updPage]
@[simp] theorem updPage_batch (ring seq : Nat) (f : PageSide → PageSide) : (d.updPage ring seq f).batch = d.batch := by simp only [Dev.updPage]
@[simp] theorem updPage_power (ring seq : Nat) (f : PageSide → PageSide) : (d.updPage ring seq f).power = d.power := by simp only [Dev.updPage]
@[simp] theorem updPage_fabric (ring seq : Nat) (f : PageSide → PageSide) : (d.updPage ring seq f).fabric = d.fabric := by simp only [Dev.updPage]
@[simp] theorem updPage_fw (ring seq : Nat) (f : PageSide → PageSide) : (d.updPage ring seq f).fw = d.fw := by simp only [Dev.updPage]
@[simp] theorem updPage_test (ring seq : Nat) (f : PageSide → PageSide) : (d.updPage ring seq f).test = d.test := by simp only [Dev.updPage]
@[simp] theorem updPage_start (ring seq : Nat) (f : PageSide → PageSide) : (d.updPage ring seq f).start = d.start := by simp only [Dev.updPage]
@[simp] theorem updPage_nv (ring seq : Nat) (f : PageSide → PageSide) : (d.updPage ring seq f).nv = d.nv := by simp only [Dev.updPage]
@[simp] theorem updPage_faults (ring seq : Nat) (f : PageSide → PageSide) : (d.updPage ring seq f).faults = d.faults := by simp only [Dev.updPage]
@[simp] theorem updPage_plateDies (ring seq : Nat) (f : PageSide → PageSide) : (d.updPage ring seq f).plateDies = d.plateDies := by simp only [Dev.updPage]
@[simp] theorem updPage_lasting (ring seq : Nat) (f : PageSide → PageSide) : (d.updPage ring seq f).lasting = d.lasting := by simp only [Dev.updPage]
@[simp] theorem updPage_ddrPassed (ring seq : Nat) (f : PageSide → PageSide) : (d.updPage ring seq f).ddrPassed = d.ddrPassed := by simp only [Dev.updPage]
@[simp] theorem updPage_ddrTrained (ring seq : Nat) (f : PageSide → PageSide) : (d.updPage ring seq f).ddrTrained = d.ddrTrained := by simp only [Dev.updPage]
@[simp] theorem updPage_ddrFixed (ring seq : Nat) (f : PageSide → PageSide) : (d.updPage ring seq f).ddrFixed = d.ddrFixed := by simp only [Dev.updPage]
@[simp] theorem updPage_patrolPos (ring seq : Nat) (f : PageSide → PageSide) : (d.updPage ring seq f).patrolPos = d.patrolPos := by simp only [Dev.updPage]
@[simp] theorem updPage_scrubPos (ring seq : Nat) (f : PageSide → PageSide) : (d.updPage ring seq f).scrubPos = d.scrubPos := by simp only [Dev.updPage]
@[simp] theorem updPage_readingStopped (ring seq : Nat) (f : PageSide → PageSide) : (d.updPage ring seq f).readingStopped = d.readingStopped := by simp only [Dev.updPage]
@[simp] theorem updPage_draws (ring seq : Nat) (f : PageSide → PageSide) : (d.updPage ring seq f).draws = d.draws := by simp only [Dev.updPage]
@[simp] theorem updPage_out (ring seq : Nat) (f : PageSide → PageSide) : (d.updPage ring seq f).out = d.out := by simp only [Dev.updPage]

/-! ## `Dev.updForme` changes `formes` alone -/

@[simp] theorem updForme_now (id : Nat) (f : Forme → Forme) : (d.updForme id f).now = d.now := by simp only [Dev.updForme]
@[simp] theorem updForme_run (id : Nat) (f : Forme → Forme) : (d.updForme id f).run = d.run := by simp only [Dev.updForme]
@[simp] theorem updForme_od (id : Nat) (f : Forme → Forme) : (d.updForme id f).od = d.od := by simp only [Dev.updForme]
@[simp] theorem updForme_dom (id : Nat) (f : Forme → Forme) : (d.updForme id f).dom = d.dom := by simp only [Dev.updForme]
@[simp] theorem updForme_perVal (id : Nat) (f : Forme → Forme) : (d.updForme id f).perVal = d.perVal := by simp only [Dev.updForme]
@[simp] theorem updForme_perDom (id : Nat) (f : Forme → Forme) : (d.updForme id f).perDom = d.perDom := by simp only [Dev.updForme]
@[simp] theorem updForme_mem (id : Nat) (f : Forme → Forme) : (d.updForme id f).mem = d.mem := by simp only [Dev.updForme]
@[simp] theorem updForme_poisoned (id : Nat) (f : Forme → Forme) : (d.updForme id f).poisoned = d.poisoned := by simp only [Dev.updForme]
@[simp] theorem updForme_counted (id : Nat) (f : Forme → Forme) : (d.updForme id f).counted = d.counted := by simp only [Dev.updForme]
@[simp] theorem updForme_cores (id : Nat) (f : Forme → Forme) : (d.updForme id f).cores = d.cores := by simp only [Dev.updForme]
@[simp] theorem updForme_nextForme (id : Nat) (f : Forme → Forme) : (d.updForme id f).nextForme = d.nextForme := by simp only [Dev.updForme]
@[simp] theorem updForme_nextRetry (id : Nat) (f : Forme → Forme) : (d.updForme id f).nextRetry = d.nextRetry := by simp only [Dev.updForme]
@[simp] theorem updForme_pages (id : Nat) (f : Forme → Forme) : (d.updForme id f).pages = d.pages := by simp only [Dev.updForme]
@[simp] theorem updForme_chans (id : Nat) (f : Forme → Forme) : (d.updForme id f).chans = d.chans := by simp only [Dev.updForme]
@[simp] theorem updForme_axes (id : Nat) (f : Forme → Forme) : (d.updForme id f).axes = d.axes := by simp only [Dev.updForme]
@[simp] theorem updForme_host (id : Nat) (f : Forme → Forme) : (d.updForme id f).host = d.host := by simp only [Dev.updForme]
@[simp] theorem updForme_net (id : Nat) (f : Forme → Forme) : (d.updForme id f).net = d.net := by simp only [Dev.updForme]
@[simp] theorem updForme_plate (id : Nat) (f : Forme → Forme) : (d.updForme id f).plate = d.plate := by simp only [Dev.updForme]
@[simp] theorem updForme_slug (id : Nat) (f : Forme → Forme) : (d.updForme id f).slug = d.slug := by simp only [Dev.updForme]
@[simp] theorem updForme_seqs (id : Nat) (f : Forme → Forme) : (d.updForme id f).seqs = d.seqs := by simp only [Dev.updForme]
@[simp] theorem updForme_text (id : Nat) (f : Forme → Forme) : (d.updForme id f).text = d.text := by simp only [Dev.updForme]
@[simp] theorem updForme_batch (id : Nat) (f : Forme → Forme) : (d.updForme id f).batch = d.batch := by simp only [Dev.updForme]
@[simp] theorem updForme_power (id : Nat) (f : Forme → Forme) : (d.updForme id f).power = d.power := by simp only [Dev.updForme]
@[simp] theorem updForme_fabric (id : Nat) (f : Forme → Forme) : (d.updForme id f).fabric = d.fabric := by simp only [Dev.updForme]
@[simp] theorem updForme_fw (id : Nat) (f : Forme → Forme) : (d.updForme id f).fw = d.fw := by simp only [Dev.updForme]
@[simp] theorem updForme_test (id : Nat) (f : Forme → Forme) : (d.updForme id f).test = d.test := by simp only [Dev.updForme]
@[simp] theorem updForme_start (id : Nat) (f : Forme → Forme) : (d.updForme id f).start = d.start := by simp only [Dev.updForme]
@[simp] theorem updForme_nv (id : Nat) (f : Forme → Forme) : (d.updForme id f).nv = d.nv := by simp only [Dev.updForme]
@[simp] theorem updForme_faults (id : Nat) (f : Forme → Forme) : (d.updForme id f).faults = d.faults := by simp only [Dev.updForme]
@[simp] theorem updForme_plateDies (id : Nat) (f : Forme → Forme) : (d.updForme id f).plateDies = d.plateDies := by simp only [Dev.updForme]
@[simp] theorem updForme_lasting (id : Nat) (f : Forme → Forme) : (d.updForme id f).lasting = d.lasting := by simp only [Dev.updForme]
@[simp] theorem updForme_ddrPassed (id : Nat) (f : Forme → Forme) : (d.updForme id f).ddrPassed = d.ddrPassed := by simp only [Dev.updForme]
@[simp] theorem updForme_ddrTrained (id : Nat) (f : Forme → Forme) : (d.updForme id f).ddrTrained = d.ddrTrained := by simp only [Dev.updForme]
@[simp] theorem updForme_ddrFixed (id : Nat) (f : Forme → Forme) : (d.updForme id f).ddrFixed = d.ddrFixed := by simp only [Dev.updForme]
@[simp] theorem updForme_patrolPos (id : Nat) (f : Forme → Forme) : (d.updForme id f).patrolPos = d.patrolPos := by simp only [Dev.updForme]
@[simp] theorem updForme_scrubPos (id : Nat) (f : Forme → Forme) : (d.updForme id f).scrubPos = d.scrubPos := by simp only [Dev.updForme]
@[simp] theorem updForme_readingStopped (id : Nat) (f : Forme → Forme) : (d.updForme id f).readingStopped = d.readingStopped := by simp only [Dev.updForme]
@[simp] theorem updForme_draws (id : Nat) (f : Forme → Forme) : (d.updForme id f).draws = d.draws := by simp only [Dev.updForme]
@[simp] theorem updForme_out (id : Nat) (f : Forme → Forme) : (d.updForme id f).out = d.out := by simp only [Dev.updForme]

/-! ## `Dev.setNv` changes `nv` alone -/

@[simp] theorem setNv_now (n : Nv) : (d.setNv n).now = d.now := by simp only [Dev.setNv]
@[simp] theorem setNv_run (n : Nv) : (d.setNv n).run = d.run := by simp only [Dev.setNv]
@[simp] theorem setNv_od (n : Nv) : (d.setNv n).od = d.od := by simp only [Dev.setNv]
@[simp] theorem setNv_dom (n : Nv) : (d.setNv n).dom = d.dom := by simp only [Dev.setNv]
@[simp] theorem setNv_perVal (n : Nv) : (d.setNv n).perVal = d.perVal := by simp only [Dev.setNv]
@[simp] theorem setNv_perDom (n : Nv) : (d.setNv n).perDom = d.perDom := by simp only [Dev.setNv]
@[simp] theorem setNv_mem (n : Nv) : (d.setNv n).mem = d.mem := by simp only [Dev.setNv]
@[simp] theorem setNv_poisoned (n : Nv) : (d.setNv n).poisoned = d.poisoned := by simp only [Dev.setNv]
@[simp] theorem setNv_counted (n : Nv) : (d.setNv n).counted = d.counted := by simp only [Dev.setNv]
@[simp] theorem setNv_cores (n : Nv) : (d.setNv n).cores = d.cores := by simp only [Dev.setNv]
@[simp] theorem setNv_formes (n : Nv) : (d.setNv n).formes = d.formes := by simp only [Dev.setNv]
@[simp] theorem setNv_nextForme (n : Nv) : (d.setNv n).nextForme = d.nextForme := by simp only [Dev.setNv]
@[simp] theorem setNv_nextRetry (n : Nv) : (d.setNv n).nextRetry = d.nextRetry := by simp only [Dev.setNv]
@[simp] theorem setNv_pages (n : Nv) : (d.setNv n).pages = d.pages := by simp only [Dev.setNv]
@[simp] theorem setNv_chans (n : Nv) : (d.setNv n).chans = d.chans := by simp only [Dev.setNv]
@[simp] theorem setNv_axes (n : Nv) : (d.setNv n).axes = d.axes := by simp only [Dev.setNv]
@[simp] theorem setNv_host (n : Nv) : (d.setNv n).host = d.host := by simp only [Dev.setNv]
@[simp] theorem setNv_net (n : Nv) : (d.setNv n).net = d.net := by simp only [Dev.setNv]
@[simp] theorem setNv_plate (n : Nv) : (d.setNv n).plate = d.plate := by simp only [Dev.setNv]
@[simp] theorem setNv_slug (n : Nv) : (d.setNv n).slug = d.slug := by simp only [Dev.setNv]
@[simp] theorem setNv_seqs (n : Nv) : (d.setNv n).seqs = d.seqs := by simp only [Dev.setNv]
@[simp] theorem setNv_text (n : Nv) : (d.setNv n).text = d.text := by simp only [Dev.setNv]
@[simp] theorem setNv_batch (n : Nv) : (d.setNv n).batch = d.batch := by simp only [Dev.setNv]
@[simp] theorem setNv_power (n : Nv) : (d.setNv n).power = d.power := by simp only [Dev.setNv]
@[simp] theorem setNv_fabric (n : Nv) : (d.setNv n).fabric = d.fabric := by simp only [Dev.setNv]
@[simp] theorem setNv_fw (n : Nv) : (d.setNv n).fw = d.fw := by simp only [Dev.setNv]
@[simp] theorem setNv_test (n : Nv) : (d.setNv n).test = d.test := by simp only [Dev.setNv]
@[simp] theorem setNv_start (n : Nv) : (d.setNv n).start = d.start := by simp only [Dev.setNv]
@[simp] theorem setNv_faults (n : Nv) : (d.setNv n).faults = d.faults := by simp only [Dev.setNv]
@[simp] theorem setNv_plateDies (n : Nv) : (d.setNv n).plateDies = d.plateDies := by simp only [Dev.setNv]
@[simp] theorem setNv_lasting (n : Nv) : (d.setNv n).lasting = d.lasting := by simp only [Dev.setNv]
@[simp] theorem setNv_ddrPassed (n : Nv) : (d.setNv n).ddrPassed = d.ddrPassed := by simp only [Dev.setNv]
@[simp] theorem setNv_ddrTrained (n : Nv) : (d.setNv n).ddrTrained = d.ddrTrained := by simp only [Dev.setNv]
@[simp] theorem setNv_ddrFixed (n : Nv) : (d.setNv n).ddrFixed = d.ddrFixed := by simp only [Dev.setNv]
@[simp] theorem setNv_patrolPos (n : Nv) : (d.setNv n).patrolPos = d.patrolPos := by simp only [Dev.setNv]
@[simp] theorem setNv_scrubPos (n : Nv) : (d.setNv n).scrubPos = d.scrubPos := by simp only [Dev.setNv]
@[simp] theorem setNv_readingStopped (n : Nv) : (d.setNv n).readingStopped = d.readingStopped := by simp only [Dev.setNv]
@[simp] theorem setNv_draws (n : Nv) : (d.setNv n).draws = d.draws := by simp only [Dev.setNv]
@[simp] theorem setNv_out (n : Nv) : (d.setNv n).out = d.out := by simp only [Dev.setNv]

/-! ## The state -/

@[simp] theorem step_cons (c : Instr) (r : List Instr) (x : Dev) : step ⟨x, c :: r⟩ = exec c ⟨x, r⟩ := rfl
@[simp] theorem step_nil (x : Dev) : step ⟨x, []⟩ = .next ⟨x.idle, []⟩ := rfl

/-- A command whose effect lies in the device alone goes on, and keeps the queue, flash and fuses. -/
theorem after_eq (s : State) (x : Dev) : s.after x = .next ⟨{ x with nv := s.dev.nv }, s.pending⟩ := rfl

theorem updNv_eq (s : State) (f : Dev → Dev) : s.updNv f = .next ⟨f s.dev, s.pending⟩ := rfl

end Sys2Proof.Laws
end

