-- ==== Sys2Proof/Laws/Dictionary.lean ====
section
/-! SUPPORT. The laws of the dictionary's values: an entry reads as it was last written, and a write leaves every other
entry alone. -/

namespace Sys2Proof.Laws

open Sys2Proof.Machine

theorem rd_wr_same (d : Dev) (key v : Nat) : (d.wr key v).rd key = v % 2 ^ 64 := by
  simp only [Dev.rd, Dev.wr, kvGet_put_same, BitVec.toNat_ofNat]

@[simp] theorem rd_wr_other (d : Dev) {key k : Nat} (v : Nat) (h : k ≠ key) : (d.wr key v).rd k = d.rd k := by
  simp only [Dev.rd, Dev.wr, kvGet_put_other _ _ _ _ h]

/-- A value depends on the dictionary alone. -/
theorem rd_congr {d e : Dev} (h : d.od = e.od) (k : Nat) : d.rd k = e.rd k := by
  simp only [Dev.rd, h]

/-! ## Ready bits -/

theorem rd_lt (d : Dev) (key : Nat) : d.rd key < 2 ^ 64 := by
  simpa only [Dev.rd] using BitVec.isLt _

theorem ready_setReady_same (d : Dev) {b : Nat} (v : Bool) (h : b < 64) : (d.setReady b v).ready b = v := by
  simp only [Dev.ready, Dev.setReady, rd_wr_same, bit, Nat.testBit_mod_two_pow, h, decide_true, Bool.true_and,
    setBit_testBit]

theorem ready_setReady_other (d : Dev) {b c : Nat} (v : Bool) (h : c ≠ b) (hc : c < 64) :
    (d.setReady b v).ready c = d.ready c := by
  simp only [Dev.ready, Dev.setReady, rd_wr_same, bit, Nat.testBit_mod_two_pow, hc, decide_true, Bool.true_and,
    setBit_testBit_other _ _ h]

theorem rdDom_wrDom_same (d : Dev) (key : Nat) (bs : List Byte) : (d.wrDom key bs).rdDom key = bs := by
  simp only [Dev.rdDom, Dev.wrDom, kvGet_put_same]

@[simp] theorem rdDom_wrDom_other (d : Dev) {key k : Nat} (bs : List Byte) (h : k ≠ key) :
    (d.wrDom key bs).rdDom k = d.rdDom k := by
  simp only [Dev.rdDom, Dev.wrDom, kvGet_put_other _ _ _ _ h]

theorem rd_bumpBy_same (d : Dev) (key n : Nat) :
    (d.bumpBy key n).rd key = (d.rd key + n) % 2 ^ (8 * entrySize key) % 2 ^ 64 := by
  simp only [Dev.bumpBy, rd_wr_same]

@[simp] theorem rd_bumpBy_other (d : Dev) {key k : Nat} (n : Nat) (h : k ≠ key) : (d.bumpBy key n).rd k = d.rd k := by
  simp only [Dev.bumpBy, rd_wr_other d _ h]

@[simp] theorem rd_bump_other (d : Dev) {key k : Nat} (h : k ≠ key) : (d.bump key).rd k = d.rd k :=
  rd_bumpBy_other d 1 h

/-- A core reads as it was last written, and no other core changes. -/
theorem core_set_same (d : Dev) (c : Fin 96) (x : CoreSt) : (d.setCore c x).core c = x := by
  simp only [Dev.core, Dev.setCore, kvGet_put_same]

theorem core_set_other (d : Dev) {c e : Fin 96} (x : CoreSt) (h : e ≠ c) : (d.setCore c x).core e = d.core e := by
  have : e.val ≠ c.val := fun he => h (Fin.ext he)
  simp only [Dev.core, Dev.setCore, kvGet_put_other _ _ _ _ this]

/-- Of two writes to a core the second remains, where the first left it other than idle at reset. -/
theorem core_set_set (d : Dev) (c : Fin 96) {x : CoreSt} (y : CoreSt) (h : x ≠ CoreSt.idle) :
    (d.setCore c x).setCore c y = d.setCore c y := by
  simp only [Dev.setCore, kvPut_put _ _ _ _ h]

end Sys2Proof.Laws
end

