-- ==== Sys2Proof/Laws/Memory.lean ====
section
/-! SUPPORT. The laws of local space: read after write, what a write leaves alone, and the canonical form of the list,
which every memory operation keeps and the state after reset has. -/

namespace Sys2Proof.Laws

open Sys2Proof.Machine

/-! ## Reading back -/

theorem memByte_put_same (m : List Host.Cell) (a : Nat) (b : Byte) : memByte (memPutByte m a b) a = b :=
  kvGet_put_same _ m a b

theorem memByte_put_other (m : List Host.Cell) {a y : Nat} (b : Byte) (h : y ≠ a) :
    memByte (memPutByte m a b) y = memByte m y :=
  kvGet_put_other _ _ m b h

/-- Bytes outside a write read as before. -/
theorem memByte_write_other (m : List Host.Cell) (a y : Nat) (bs : List Byte) (h : y < a ∨ a + bs.length ≤ y) :
    memByte (memWrite m a bs) y = memByte m y := by
  induction bs generalizing m a with
  | nil => rfl
  | cons b r ih =>
    simp only [memWrite, List.length_cons] at h ⊢
    rw [ih _ _ (by omega), memByte_put_other _ _ (by omega)]

/-- A write reads back. -/
theorem memBytes_write (m : List Host.Cell) (a : Nat) (bs : List Byte) :
    memBytes (memWrite m a bs) a bs.length = bs := by
  induction bs generalizing m a with
  | nil => rfl
  | cons b r ih =>
    simp only [memWrite, List.length_cons, memBytes]
    rw [ih, memByte_write_other _ _ _ _ (by omega), memByte_put_same]

/-! ## The canonical form -/

/-- The canonical form, said of all entries and all pairs of them. -/
def Canonical (m : List Host.Cell) : Prop := m.Pairwise (fun x y => x.1 < y.1) ∧ ∀ c ∈ m, c.2 ≠ memDefault c.1

theorem memWf_iff (m : List Host.Cell) : memWf m = true ↔ Canonical m := by
  induction m with
  | nil => simp [memWf, Canonical]
  | cons x r ih =>
    obtain ⟨a, b⟩ := x
    cases r with
    | nil => simp [memWf, Canonical]
    | cons y r =>
      obtain ⟨c, e⟩ := y
      simp only [memWf, Bool.and_eq_true, bne_iff_ne, ne_eq, decide_eq_true_eq, ih, Canonical, List.pairwise_cons,
        List.mem_cons, forall_eq_or_imp]
      constructor
      · rintro ⟨⟨h1, h2⟩, ⟨h3, h4⟩, h5, h6⟩
        exact ⟨⟨⟨h2, fun z hz => Nat.lt_trans h2 (h3 z hz)⟩, h3, h4⟩, h1, h5, h6⟩
      · rintro ⟨⟨⟨h2, -⟩, h3, h4⟩, h1, h5, h6⟩
        exact ⟨⟨h1, h2⟩, ⟨h3, h4⟩, h5, h6⟩

theorem canonical_filter {m : List Host.Cell} (h : Canonical m) (p : Host.Cell → Bool) : Canonical (m.filter p) :=
  ⟨h.1.sublist List.filter_sublist, fun c hc => h.2 c (List.mem_of_mem_filter hc)⟩

theorem mem_insert {m : List Host.Cell} {a : Nat} {b : Byte} {c : Host.Cell} (h : c ∈ kvInsert m a b) :
    c = (a, b) ∨ c ∈ m := by
  induction m with
  | nil => simpa [kvInsert] using h
  | cons x r ih =>
    obtain ⟨i, v⟩ := x
    simp only [kvInsert] at h
    split at h
    · rcases List.mem_cons.1 h with h | h
      · exact .inl h
      · exact .inr h
    · split at h
      · rcases List.mem_cons.1 h with h | h
        · exact .inl h
        · exact .inr (List.mem_cons_of_mem _ h)
      · rcases List.mem_cons.1 h with h | h
        · exact .inr (h ▸ List.mem_cons_self)
        · exact (ih h).imp id (List.mem_cons_of_mem _)

theorem canonical_insert {m : List Host.Cell} (h : Canonical m) {a : Nat} {b : Byte} (hb : b ≠ memDefault a) :
    Canonical (kvInsert m a b) := by
  refine ⟨?_, fun c hc => ?_⟩
  · have hp := h.1
    clear h
    induction m with
    | nil => simp [kvInsert]
    | cons x r ih =>
      obtain ⟨i, v⟩ := x
      rw [List.pairwise_cons] at hp
      simp only [kvInsert]
      split
      · rename_i hlt
        refine List.pairwise_cons.2 ⟨fun y hy => ?_, List.pairwise_cons.2 hp⟩
        rcases List.mem_cons.1 hy with rfl | hy
        · exact hlt
        · exact Nat.lt_trans hlt (hp.1 y hy)
      · split
        · rename_i _ he
          subst he
          exact List.pairwise_cons.2 hp
        · refine List.pairwise_cons.2 ⟨fun y hy => ?_, ih hp.2⟩
          rcases mem_insert hy with rfl | hy
          · omega
          · exact hp.1 y hy
  · rcases mem_insert hc with rfl | hc
    · exact hb
    · exact h.2 c hc

/-- A byte write keeps the canonical form. -/
theorem memWf_put {m : List Host.Cell} (h : memWf m = true) (a : Nat) (b : Byte) : memWf (memPutByte m a b) = true := by
  rw [memWf_iff] at h ⊢
  unfold memPutByte kvPut
  split
  · exact canonical_filter h _
  · exact canonical_insert h ‹_›

/-- Every write of bytes keeps it. -/
theorem memWf_write {m : List Host.Cell} (h : memWf m = true) (a : Nat) (bs : List Byte) : memWf (memWrite m a bs) = true := by
  induction bs generalizing m a with
  | nil => exact h
  | cons b r ih => exact ih (memWf_put h a b) (a + 1)

/-- A zero fill keeps it. -/
theorem memWf_zeroRange {d : Dev} (h : memWf d.mem = true) (a n : Nat) : memWf (d.zeroRange a n).mem = true :=
  (memWf_iff _).2 (canonical_filter ((memWf_iff _).1 h) _)

/-- A poke keeps it. -/
theorem memWf_poke {d : Dev} (h : memWf d.mem = true) (a : Nat) (bs : List Byte) : memWf (d.poke a bs).mem = true :=
  memWf_write h a bs

/-- The state after reset has it. -/
theorem memWf_reset : memWf State.reset.dev.mem = true := rfl

/-! ## Writes through the banks -/

theorem each_keeps {α β : Type} (g : Dev → β) {f : Dev → α → Dev} (hf : ∀ d x, g (f d x) = g d) (d : Dev) (l : List α) :
    g (d.each l f) = g d := by
  unfold Dev.each
  induction l generalizing d with
  | nil => rfl
  | cons x r ih => rw [List.foldl_cons, ih, hf]

end Sys2Proof.Laws
end

