-- ==== Sys2Proof/Laws/Core.lean ====
section
/-! SUPPORT. What issuing an operation, putting a result in flight, and storing can do (R46, R49, R60 to R62, R90). -/

namespace Sys2Proof.Laws

open Sys2Proof.Machine

/-- What follows when a core reaches a cycle. -/
theorem reach_of {d : Dev} {a : At} {x : CoreSt} (f : Dev → CoreSt → Dev) (h : d.reaches a x) : d.reach a f = f d x := by
  obtain ⟨h1, h2, y, h3, rfl⟩ := h
  simp [Dev.reach, Dev.reachBy, h1, h2, h3]

/-- What follows when a read lands on a core. -/
theorem lands_of {d : Dev} {a : At} {x : CoreSt} (f : Dev → CoreSt → Dev) (h : d.lands a x) : d.reachBy CoreSt.before_ a f = f d x := by
  obtain ⟨h1, h2, y, h3, rfl⟩ := h
  simp [Dev.reachBy, h1, h2, h3]

/-- An operation that issues has its effect on the core as it finds it. -/
theorem issue_of {s : State} {d : Dev} {a : At} {x : CoreSt} (f : Dev → CoreSt → Dev) (h : s.issues a d x) :
    d.issue a f = f d x := by
  rw [Dev.issue, if_neg (by simp [h.2.1])]
  exact reach_of f h.2.2

/-- A galley read that issues has its effect on the core as it finds it. -/
theorem read_of {s : State} {d : Dev} {a : At} {addr n : Nat} {x : CoreSt} (f : Dev → CoreSt → Dev) (h : s.reads a addr n d x) :
    d.issueRead a addr n f = f d x := by
  rw [Dev.issueRead, issue_of _ h.1, h.2]

/-- One that finds an epoch that has not come stops the core (R62). -/
theorem read_stops {s : State} {d : Dev} {a : At} {addr n k : Nat} {x : CoreSt} (f : Dev → CoreSt → Dev) (h : s.issues a d x)
    (hk : d.unfilled x (galleyAddr a.core addr) n = some k) : d.issueRead a addr n f = d.stopCore a.core x 0x0305 (some k) := by
  rw [Dev.issueRead, issue_of _ h, hk]

/-- A command of a core: its effect on the device that it finds. -/
theorem updAt_of {s : State} {d : Dev} {a : At} {x : CoreSt} (f : Dev → Dev) (h : s.issues a d x) : s.updAt a f = s.after (f d) := by
  rw [State.updAt, State.upd, h.1]

/-- A core that does not run, or is frozen, reaches nothing. -/
theorem reach_idle {d : Dev} {a : At} (f : Dev → CoreSt → Dev)
    (h : (d.core a.core).running = false ∨ (d.core a.core).frozen = true) : d.reach a f = d := by
  rcases h with h | h <;> simp [Dev.reach, Dev.reachBy, h]

/-- A result that is due by the cycle and stops the core does so in place of the operation. -/
theorem reach_stops {d : Dev} {a : At} {y : CoreSt} {st : Nat} (f : Dev → CoreSt → Dev) (hr : (d.core a.core).running = true)
    (hf : (d.core a.core).frozen = false) (hu : (d.coreAt a.core a.cycle).until_ a.cycle = (y, st)) (hs : st ≠ 0) :
    d.reach a f = d.stopCore a.core { y with cycle := a.cycle } st := by
  simp [Dev.reach, Dev.reachBy, hr, hf, hu, hs]

/-- A result goes in flight; nothing else of the core changes. -/
theorem land_of {d : Dev} {a : At} {x : CoreSt} (c : Nat) (act : CoreAct) (h : x.bundle = a.bundle) :
    d.land a x c act = d.setCore a.core (x.flying c act) := by
  rw [Dev.land, CoreSt.fly, CoreSt.flying, h]

/-- The core as an operation finds it stands at the operation's bundle. -/
theorem bundle_of {s : State} {d : Dev} {a : At} {x : CoreSt} (h : s.issues a d x) : x.bundle = a.bundle := by
  obtain ⟨_, _, _, _, y, _, rfl⟩ := h
  rfl

/-- A vector operation that issues. -/
theorem vecOp_of {s : State} {d : Dev} {a : At} {x : CoreSt} {lat : Nat} {vd : Fin 32} (f : CoreSt → List F32)
    (h : s.issues a d x) : s.after (vecOp a vd.val lat f d) = s.result d a x lat vd (f x) := by
  rw [vecOp, issue_of _ h, land_of _ _ (bundle_of h), State.result]

/-- A launch that issues. -/
theorem launch_of {s : State} {d : Dev} {a : At} {x : CoreSt} (op mode desc : Nat) (tag : Fin 128) 
    (h : s.reads a desc 64 d x) : launch op mode a desc tag.val d = d.setCore a.core (x.launched op mode d a desc tag) := by
  rw [launch, read_of _ h]
  rfl

/-- A write through the bank controllers writes its bytes where no touched word is poisoned. -/
theorem put_mem {d : Dev} {a : Nat} {bs : List Byte} (h : ∀ w ∈ wordsOf a bs.length, w ∉ d.poisoned) :
    (d.put a bs).mem = memWrite d.mem a bs := by
  have key : ∀ (ws : List Nat) (e : Dev), (∀ w ∈ ws, w ∉ e.poisoned) →
      (e.each ws (fun d w => d.mergeWord a bs.length w)).mem = e.mem := by
    intro ws
    induction ws with
    | nil => intro e _; rfl
    | cons w r ih =>
      intro e he
      have hw := he w List.mem_cons_self
      show ((e.mergeWord a bs.length w).each r _).mem = _
      by_cases hc : covers a bs.length w = true
      · have : e.mergeWord a bs.length w = e.cleanWord w := by simp [Dev.mergeWord, hc]
        rw [this, ih]
        · rfl
        · intro v hv hm
          exact he v (List.mem_cons_of_mem _ hv) (List.mem_of_mem_filter hm)
      · have : e.mergeWord a bs.length w = e.uncount w := by simp [Dev.mergeWord, hc, hw]
        rw [this, ih (e.uncount w) (fun v hv => he v (List.mem_cons_of_mem _ hv))]
        rfl
  show memWrite (Dev.each d _ _).mem a bs = _
  rw [key _ _ h]

end Sys2Proof.Laws
end

