-- ==== Sys2Proof/Laws/Server.lean ====
section
/-! SUPPORT. What a dictionary write does: taken, it has its entry's effect; refused, it leaves an abort (R323 to R326). -/

namespace Sys2Proof.Laws

open Sys2Proof.Machine

/-- A write that passes its checks has its effect, and is an access. -/
theorem write_passes {d : Dev} {p : Path} {key v : Nat} {r : EntryRow} (test : Bool) (h : d.passes p key v)
    (hr : rowOf key = some r) (hs : storesKey key = false) :
    d.write p key (valueBytes key v) false test = d.accessed.accept p key r (valueBytes key v) test := by
  obtain ⟨h1, h2⟩ := h
  simp only [Dev.write, h1, h2, hr, hs, ne_eq, not_true_eq_false, if_false, Bool.false_eq_true]

/-- A store that passes its checks has its effect; it is an access when its response goes out (R338). -/
theorem write_stores {d : Dev} {p : Path} {key v : Nat} {r : EntryRow} (test : Bool) (h : d.passes p key v)
    (hr : rowOf key = some r) (hs : storesKey key = true) :
    d.write p key (valueBytes key v) false test = d.accept p key r (valueBytes key v) test := by
  obtain ⟨h1, h2⟩ := h
  simp only [Dev.write, h1, h2, hr, hs, ne_eq, not_true_eq_false, if_false, if_true]

/-- A write that fails one is refused. -/
theorem write_fails {d : Dev} {p : Path} {key : Nat} {bs : List Byte} {sig test : Bool} (h : d.run = .on)
    (hc : d.serveCode p key bs sig ≠ 0) :
    d.write p key bs sig test = d.refuseWrite p key (d.serveCode p key bs sig) := by
  simp only [Dev.write, h, hc, ne_eq, not_true_eq_false, if_false, not_false_eq_true, if_true]

/-- In reset and in the boot ROM nothing answers (R325). -/
theorem write_silent {d : Dev} {p : Path} {key : Nat} {bs : List Byte} {sig test : Bool} (h : d.run ≠ .on) :
    d.write p key bs sig test = d := by
  simp only [Dev.write, h, ne_eq, not_false_eq_true, if_true]

/-- An entry whose write does not reach flash or fuses keeps both. -/
theorem accept_keeps {d : Dev} {p : Path} {key : Nat} {r : EntryRow} {bs : List Byte} {test : Bool} (h : reachesNv key = false) :
    d.accept p key r bs test = { d.effect p key r bs test with nv := d.nv } := by
  simp only [Dev.accept, h, Bool.false_eq_true, if_false]

/-- Little-endian bytes spell their number back (R1). -/
theorem ofLe_leBytes (n v : Nat) (h : v < 256 ^ n) : ofLe (leBytes n v) = v := by
  induction n generalizing v with
  | zero => simp [leBytes, ofLe] at h ⊢; omega
  | succ n ih =>
    rw [Nat.pow_succ] at h
    simp only [leBytes, ofLe, BitVec.toNat_ofNat, ih (v / 256) (by omega)]
    omega

theorem leBytes_length (n v : Nat) : (leBytes n v).length = n := by
  induction n generalizing v with
  | zero => rfl
  | succ n ih => simp [leBytes, ih]

/-- The number that the bytes of a value spell, where its entry's size holds it. -/
theorem ofLe_valueBytes {key v : Nat} (h : v < 256 ^ entrySize key) : ofLe (valueBytes key v) = v := by
  rw [valueBytes, if_pos h, ofLe_leBytes _ _ h]

/-- The value that a write spells to an entry that is neither string nor domain. -/
theorem writtenValue_of {key v : Nat} {r : EntryRow} (hr : ¬(r.ty = 9 ∨ r.ty = 15)) (h : v < 256 ^ entrySize key) :
    writtenValue r (valueBytes key v) = v := by
  rw [writtenValue, if_neg hr, ofLe_valueBytes h]

/-! ## Commands that are dictionary writes -/

theorem with_nv (x : Dev) {n : Nv} (h : x.nv = n) : { x with nv := n } = x := by cases x; cases h; rfl

theorem closing_eq {s : State} {x : Dev} (h : x.nv = s.dev.nv) : s.closing x = s.after x.close := by
  rw [State.closing, with_nv x h]

/-- A command that writes an entry has the entry's effect. -/
theorem command_after {s : State} {p : Path} {key v : Nat} {r : EntryRow} {test : Bool} {e : Dev} (h : s.dev.passes p key v)
    (hr : rowOf key = some r) (hs : storesKey key = false) (hn : reachesNv key = false)
    (he : s.dev.accessed.effect p key r (valueBytes key v) test = e) :
    s.upd (fun d => d.write p key (valueBytes key v) false test) = s.after e := by
  rw [State.upd, write_passes test h hr hs, accept_keeps hn, he]
  rfl

/-- The same with what follows from a changed readiness or a freed resource. -/
theorem command_closing {s : State} {p : Path} {key v : Nat} {r : EntryRow} {test : Bool} {e : Dev} (h : s.dev.passes p key v)
    (hr : rowOf key = some r) (hs : storesKey key = false) (hn : reachesNv key = false)
    (he : s.dev.accessed.effect p key r (valueBytes key v) test = e) :
    s.upd (fun d => (d.write p key (valueBytes key v) false test).close) = s.closing e := by
  rw [State.upd, write_passes test h hr hs, accept_keeps hn, he]
  rfl

/-! ## Effects of a written value, by the group of its entry -/

section

variable {d e : Dev} {p : Path} {key v : Nat} {r : EntryRow} {test : Bool}

/-- An entry that stands alone. -/
theorem effect_alone (hy : ¬(r.ty = 9 ∨ r.ty = 15)) (hv : v < 256 ^ entrySize key)
    (h : d.effectAlone p key v (valueBytes key v) test = some e) : d.effect p key r (valueBytes key v) test = e := by
  simp only [Dev.effect, writtenValue_of hy hv, h]

/-- A channel's or an axis's command entry. -/
theorem effect_units (hy : ¬(r.ty = 9 ∨ r.ty = 15)) (hv : v < 256 ^ entrySize key)
    (h : d.effectAlone p key v (valueBytes key v) test = none) (h2 : d.effectUnits p key v = some e) :
    d.effect p key r (valueBytes key v) test = e := by
  simp only [Dev.effect, writtenValue_of hy hv, h, h2]

/-- The ENABLE of a list or ring. -/
theorem effect_enable (hy : ¬(r.ty = 9 ∨ r.ty = 15)) (hv : v < 256 ^ entrySize key)
    (h : d.effectAlone p key v (valueBytes key v) test = none) (h2 : d.effectUnits p key v = none)
    (h3 : d.effectEnable key v = some e) : d.effect p key r (valueBytes key v) test = e := by
  simp only [Dev.effect, writtenValue_of hy hv, h, h2, h3]

/-- An entry of a run of equal indices. -/
theorem effect_runs (hy : ¬(r.ty = 9 ∨ r.ty = 15)) (hv : v < 256 ^ entrySize key)
    (h : d.effectAlone p key v (valueBytes key v) test = none) (h2 : d.effectUnits p key v = none)
    (h3 : d.effectEnable key v = none) (h4 : d.effectRuns p key v = some e) :
    d.effect p key r (valueBytes key v) test = e := by
  simp only [Dev.effect, writtenValue_of hy hv, h, h2, h3, h4]

/-- Any other entry keeps the value. -/
theorem effect_plain (hy : ¬(r.ty = 9 ∨ r.ty = 15)) (hv : v < 256 ^ entrySize key)
    (h : d.effectAlone p key v (valueBytes key v) test = none) (h2 : d.effectUnits p key v = none)
    (h3 : d.effectEnable key v = none) (h4 : d.effectRuns p key v = none) :
    d.effect p key r (valueBytes key v) test = (d.keep p key r (valueBytes key v)).afterKeep key (valueBytes key v) := by
  simp only [Dev.effect, writtenValue_of hy hv, h, h2, h3, h4]

theorem keep_value (hy : ¬(r.ty = 9 ∨ r.ty = 15)) (hv : v < 256 ^ entrySize key) :
    d.keep p key r (valueBytes key v) = if r.perPath then d.wrPath p key v else d.wr key v := by
  simp only [Dev.keep, if_neg hy, ofLe_valueBytes hv]

end

end Sys2Proof.Laws
end

