-- ==== Sys2Proof/Laws/Flash.lean ====
section
/-! SUPPORT. Which operations leave flash and fuses alone, and how the others change them (R327 to R329, R397 to R405,
R409): the lemmas behind every statement about what only burns. -/

namespace Sys2Proof.Laws

open Sys2Proof.Machine

/-! ## Operations that leave them alone -/

@[simp] theorem nv_each {α : Type} (d : Dev) (l : List α) (f : Dev → α → Dev) (h : ∀ d x, (f d x).nv = d.nv) :
    (d.each l f).nv = d.nv := by
  unfold Dev.each
  induction l generalizing d with
  | nil => rfl
  | cons x r ih => rw [List.foldl_cons, ih, h]

@[simp] theorem nv_foldl {α : Type} (d : Dev) (l : List α) (f : Dev → α → Dev) (h : ∀ d x, (f d x).nv = d.nv) :
    (l.foldl f d).nv = d.nv := nv_each d l f h

@[simp] theorem nv_ite (c : Prop) [Decidable c] (a b : Dev) : (if c then a else b).nv = if c then a.nv else b.nv := by
  split <;> rfl

@[simp] theorem nv_sendVector (d : Dev) (v : Nat) : (Dev.sendVector d v).nv = d.nv := by
  unfold Dev.sendVector
  simp

@[simp] theorem nv_sendMsg (d : Dev) (src : MsixSrc) : (Dev.sendMsg d src).nv = d.nv := by
  unfold Dev.sendMsg
  simp

@[simp] theorem nv_notify (d : Dev) (src : MsixSrc) : (Dev.notify d src).nv = d.nv := by
  unfold Dev.notify
  simp

@[simp] theorem nv_logError (d : Dev) (status : Nat) : (Dev.logError d status).nv = d.nv := by
  unfold Dev.logError
  simp

@[simp] theorem nv_sendEmcy (d : Dev) (e : Emcy) : (Dev.sendEmcy d e).nv = d.nv := by
  unfold Dev.sendEmcy
  simp

@[simp] theorem nv_emergency (d : Dev) (status cls source : Nat) : (Dev.emergency d status cls source).nv = d.nv := by
  unfold Dev.emergency
  simp

@[simp] theorem nv_event (d : Dev) (status source : Nat) : (Dev.event d status source).nv = d.nv := by
  unfold Dev.event
  simp

@[simp] theorem nv_followBits (d : Dev) : (Dev.followBits d).nv = d.nv := by
  unfold Dev.followBits
  simp

@[simp] theorem nv_zeroRange (d : Dev) (a n : Nat) : (Dev.zeroRange d a n).nv = d.nv := by
  unfold Dev.zeroRange
  simp

@[simp] theorem nv_zeroDie (d : Dev) (die : Nat) : (Dev.zeroDie d die).nv = d.nv := by
  unfold Dev.zeroDie
  simp

@[simp] theorem nv_updChan (d : Dev) (ch : Nat) (f : ChanSt → ChanSt) : (Dev.updChan d ch f).nv = d.nv := by
  unfold Dev.updChan
  simp

@[simp] theorem nv_updAxis (d : Dev) (ax : Nat) (f : AxisSt → AxisSt) : (Dev.updAxis d ax f).nv = d.nv := by
  unfold Dev.updAxis
  simp

@[simp] theorem nv_setInhibit (d : Dev) (ax : Nat) (v : Bool) : (Dev.setInhibit d ax v).nv = d.nv := by
  unfold Dev.setInhibit
  simp

@[simp] theorem nv_fiUpdate (d : Dev) (ax : Nat) : (Dev.fiUpdate d ax).nv = d.nv := by
  unfold Dev.fiUpdate
  simp

@[simp] theorem nv_setReference (d : Dev) (ch : Nat) (r : Reference) : (Dev.setReference d ch r).nv = d.nv := by
  unfold Dev.setReference
  simp

@[simp] theorem nv_baseReference (d : Dev) (ch : Nat) : (Dev.baseReference d ch).nv = d.nv := by
  unfold Dev.baseReference
  simp

@[simp] theorem nv_setAxState (d : Dev) (ax s : Nat) : (Dev.setAxState d ax s).nv = d.nv := by
  unfold Dev.setAxState
  simp

@[simp] theorem nv_tryLeave (d : Dev) (ax : Nat) : (Dev.tryLeave d ax).nv = d.nv := by
  unfold Dev.tryLeave
  simp

@[simp] theorem nv_axisReady (d : Dev) (ax : Nat) : (Dev.axisReady d ax).nv = d.nv := by
  unfold Dev.axisReady
  simp

@[simp] theorem nv_showResident (d : Dev) : (Dev.showResident d).nv = d.nv := by
  unfold Dev.showResident
  simp

@[simp] theorem nv_dropFriskets (d : Dev) (p : Nat → Bool) : (Dev.dropFriskets d p).nv = d.nv := by
  unfold Dev.dropFriskets
  simp

@[simp] theorem nv_putImage (d : Dev) (a : Nat) (bs : List Byte) : (Dev.putImage d a bs).nv = d.nv := by
  show (Dev.each d _ _).nv = d.nv
  exact nv_each _ _ _ (fun d w => rfl)

@[simp] theorem nv_putFount (d : Dev) (k : Nat) (image : List Byte) (f : FountIn) :
    (Dev.putFount d k image f).nv = d.nv := by
  unfold Dev.putFount
  simp

@[simp] theorem nv_putGrammar (d : Dev) (k : Nat) (image : List Byte) (g : GrammarIn) :
    (Dev.putGrammar d k image g).nv = d.nv := by
  unfold Dev.putGrammar
  simp

@[simp] theorem nv_setList (d : Dev) (n : Nat) (x : ListRt) : (Dev.setList d n x).nv = d.nv := by
  unfold Dev.setList
  simp

@[simp] theorem nv_updEntry (d : Dev) (n k : Nat) (f : JobEntry → JobEntry) : (Dev.updEntry d n k f).nv = d.nv := by
  unfold Dev.updEntry
  simp

@[simp] theorem nv_writeCons (d : Dev) (n : Nat) : (Dev.writeCons d n).nv = d.nv := by
  unfold Dev.writeCons
  simp

@[simp] theorem nv_writeCompletion (d : Dev) (n : Nat) (e : JobEntry) : (Dev.writeCompletion d n e).nv = d.nv := by
  unfold Dev.writeCompletion
  (repeat' split) <;> simp

@[simp] theorem nv_flushList (d : Dev) (n : Nat) : (Dev.flushList d n).nv = d.nv := by
  unfold Dev.flushList
  simp

@[simp] theorem nv_completeEntry (d : Dev) (n k status count : Nat) :
    (Dev.completeEntry d n k status count).nv = d.nv := by
  unfold Dev.completeEntry
  simp

@[simp] theorem nv_completeJob (d : Dev) (job : Option (Nat × Nat)) (status count : Nat) :
    (Dev.completeJob d job status count).nv = d.nv := by
  unfold Dev.completeJob
  (repeat' split) <;> simp

@[simp] theorem nv_runStatusIs (d : Dev) (status : Nat) : (Dev.runStatusIs d status).nv = d.nv := by
  rfl

@[simp] theorem nv_putImages (d : Dev) (a : Nat) (ps : PlateSetIn) : (Dev.putImages d a ps).nv = d.nv := by
  unfold Dev.putImages
  simp

@[simp] theorem nv_putArea (d : Dev) (a : Nat) (ps : PlateSetIn) : (Dev.putArea d a ps).nv = d.nv := by
  unfold Dev.putArea
  simp

@[simp] theorem nv_setView (d : Dev) (die : Nat) (uni : Bool) : (Dev.setView d die uni).nv = d.nv := by
  unfold Dev.setView
  simp

@[simp] theorem nv_fabStatus (d : Dev) (status : Nat) : (Dev.fabStatus d status).nv = d.nv := by
  unfold Dev.fabStatus
  simp

@[simp] theorem nv_sendLink (d : Dev) (port : Nat) (credits : Kv Nat) (status : Nat) :
    (Dev.sendLink d port credits status).nv = d.nv := by
  unfold Dev.sendLink
  simp

@[simp] theorem nv_freeCredit (d : Dev) (code : Nat) : (Dev.freeCredit d code).nv = d.nv := by
  unfold Dev.freeCredit
  simp

@[simp] theorem nv_transmit (d : Dev) (port : Nat) (pk : PacketIn) (k : Nat) :
    (Dev.transmit d port pk k).nv = d.nv := by
  unfold Dev.transmit
  simp

@[simp] theorem nv_sendOn (d : Dev) (port : Nat) (pk : PacketIn) (code : Nat) :
    (Dev.sendOn d port pk code).nv = d.nv := by
  unfold Dev.sendOn
  simp

@[simp] theorem nv_inject (d : Dev) (pk : PacketIn) : (Dev.inject d pk).nv = d.nv := by
  unfold Dev.inject
  simp
  (repeat' split) <;> simp

@[simp] theorem nv_launchPacket (d : Dev) (o : Outstanding) (pk : PacketIn) :
    (Dev.launchPacket d o pk).nv = d.nv := by
  unfold Dev.launchPacket
  simp

@[simp] theorem nv_request (d : Dev) (o : Outstanding) (pk : PacketIn) : (Dev.request d o pk).nv = d.nv := by
  unfold Dev.request
  simp

@[simp] theorem nv_setWindow (d : Dev) (n : Nat) (w : Window) : (Dev.setWindow d n w).nv = d.nv := by
  unfold Dev.setWindow
  simp

@[simp] theorem nv_closeWindow (d : Dev) (n : Nat) : (Dev.closeWindow d n).nv = d.nv := by
  unfold Dev.closeWindow
  simp

@[simp] theorem nv_trainPorts (d : Dev) : (Dev.trainPorts d).nv = d.nv := by
  unfold Dev.trainPorts
  simp

@[simp] theorem nv_noteAbort (d : Dev) (key code : Nat) : (Dev.noteAbort d key code).nv = d.nv := by
  unfold Dev.noteAbort
  simp

@[simp] theorem nv_abort (d : Dev) (p : Path) (key code : Nat) : (Dev.abort d p key code).nv = d.nv := by
  unfold Dev.abort
  simp

@[simp] theorem nv_showLoad (d : Dev) (p : Option Path) (state status : Nat) :
    (Dev.showLoad d p state status).nv = d.nv := by
  unfold Dev.showLoad
  (repeat' split) <;> simp

@[simp] theorem nv_endLoad (d : Dev) (l : Load) (status count : Nat) : (Dev.endLoad d l status count).nv = d.nv := by
  unfold Dev.endLoad
  simp

@[simp] theorem nv_refuseEarly (d : Dev) (l : Load) (status read : Nat) :
    (Dev.refuseEarly d l status read).nv = d.nv := by
  unfold Dev.refuseEarly
  (repeat' split) <;> simp

@[simp] theorem nv_refuseAfter (d : Dev) (l : Load) (status read : Nat) :
    (Dev.refuseAfter d l status read).nv = d.nv := by
  unfold Dev.refuseAfter
  (repeat' split) <;> simp

@[simp] theorem nv_refuseLate (d : Dev) (l : Load) (status : Nat) : (Dev.refuseLate d l status).nv = d.nv := by
  unfold Dev.refuseLate
  simp

@[simp] theorem nv_giveUp (d : Dev) (t : Nat) : (Dev.giveUp d t).nv = d.nv := by
  unfold Dev.giveUp
  simp

@[simp] theorem nv_checkManifest (d : Dev) (l : Load) (c : ContainerIn) : (Dev.checkManifest d l c).nv = d.nv := by
  unfold Dev.checkManifest
  simp

@[simp] theorem nv_loadManifestReceived (target : Nat) (c : ContainerIn) (d : Dev) :
    (loadManifestReceived target c d).nv = d.nv := by
  unfold loadManifestReceived
  (repeat' split) <;> simp

@[simp] theorem nv_drawChallenge (d : Dev) : (Dev.drawChallenge d).nv = d.nv := by
  unfold Dev.drawChallenge
  simp

@[simp] theorem nv_loopTargetBack (d : Dev) (l : Loop) : (Dev.loopTargetBack d l).nv = d.nv := by
  unfold Dev.loopTargetBack
  simp
  (repeat' split) <;> simp

@[simp] theorem nv_loopEnds (d : Dev) (e : Nat) (l : Loop) (state status : Nat) :
    (Dev.loopEnds d e l state status).nv = d.nv := by
  unfold Dev.loopEnds
  simp

@[simp] theorem nv_abortLoops (d : Dev) (p : Nat → Bool) : (Dev.abortLoops d p).nv = d.nv := by
  unfold Dev.abortLoops
  simp

@[simp] theorem nv_startGalleyTest (d : Dev) (die : Nat) : (Dev.startGalleyTest d die).nv = d.nv := by
  unfold Dev.startGalleyTest
  simp

@[simp] theorem nv_fullReset (d : Dev) (cause : Nat) : (Dev.fullReset d cause).nv = d.nv := by
  unfold Dev.fullReset
  simp

@[simp] theorem nv_enterRecovery (d : Dev) : (Dev.enterRecovery d).nv = d.nv := by
  unfold Dev.enterRecovery
  simp

@[simp] theorem nv_storedReference (d : Dev) (ch : Nat) (r : Reference) : (Dev.storedReference d ch r).nv = d.nv := by
  unfold Dev.storedReference
  dsimp only
  split <;> simp

@[simp] theorem nv_readRefs (d : Dev) : (Dev.readRefs d).nv = d.nv := by
  unfold Dev.readRefs
  split
  · exact nv_each _ _ _ (fun d r => nv_storedReference d r.1 r.2)
  · rfl

@[simp] theorem nv_takeCanSettings (d : Dev) : (Dev.takeCanSettings d).nv = d.nv := rfl

@[simp] theorem nv_startNets (d : Dev) : (Dev.startNets d).nv = d.nv := by
  unfold Dev.startNets
  simp

@[simp] theorem nv_layoutFix (d : Dev) : (Dev.layoutFix d).nv = d.nv := by
  unfold Dev.layoutFix
  (repeat' split) <;> simp

@[simp] theorem nv_spdRead (d : Dev) (spd : List (Fin 8 × Spd)) : (Dev.spdRead d spd).nv = d.nv := by
  unfold Dev.spdRead
  simp
  (repeat' split) <;> simp

@[simp] theorem nv_axesStart (d : Dev) : (Dev.axesStart d).nv = d.nv := by
  unfold Dev.axesStart
  simp

@[simp] theorem nv_recoveryShows (d : Dev) (state status : Nat) : (Dev.recoveryShows d state status).nv = d.nv := by
  unfold Dev.recoveryShows
  simp

@[simp] theorem nv_hostWrite (d : Dev) (addr : Nat) (bs : List Byte) : (Dev.hostWrite d addr bs).nv = d.nv := by
  unfold Dev.hostWrite
  split <;> rfl

@[simp] theorem nv_working (d : Dev) (n k : Nat) : (Dev.working d n k).nv = d.nv := by
  unfold Dev.working
  simp

@[simp] theorem nv_storeIdle (d : Dev) : (Dev.storeIdle d).nv = d.nv := by
  unfold Dev.storeIdle
  simp

@[simp] theorem nv_noteRefusal (d : Dev) (t status : Nat) : (Dev.noteRefusal d t status).nv = d.nv := by
  unfold Dev.noteRefusal
  (repeat' split) <;> rfl

@[simp] theorem nv_refusalStatus (d : Dev) (p : Path) (key code : Nat) :
    (Dev.refusalStatus d p key code).nv = d.nv := by
  unfold Dev.refusalStatus
  (repeat' split) <;> simp

@[simp] theorem nv_accessed (d : Dev) : (Dev.accessed d).nv = d.nv := by
  unfold Dev.accessed
  simp

@[simp] theorem nv_cobDefaults (d : Dev) : (Dev.cobDefaults d).nv = d.nv := by
  unfold Dev.cobDefaults
  simp

@[simp] theorem nv_mailReply (d : Dev) (abort : Nat) (data : List Byte) (more : Bool) :
    (Dev.mailReply d abort data more).nv = d.nv := by
  unfold Dev.mailReply
  simp

@[simp] theorem nv_mailboxReadDo (d : Dev) (h : Nat) : (Dev.mailboxReadDo d h).nv = d.nv := by
  unfold Dev.mailboxReadDo
  simp

@[simp] theorem nv_unstage (d : Dev) (key : Nat) : (Dev.unstage d key).nv = d.nv := by
  unfold Dev.unstage
  simp

@[simp] theorem nv_stage4 (d : Dev) (key : Nat) (bs : List Byte) : (Dev.stage4 d key bs).nv = d.nv := by
  unfold Dev.stage4
  simp

@[simp] theorem nv_storeResponse (d : Dev) (before : Option Saving) (ok : Bool) :
    (Dev.storeResponse d before ok).nv = d.nv := by
  unfold Dev.storeResponse
  (repeat' split) <;> simp

end Sys2Proof.Laws
end

