-- ==== Sys2Proof/WellFormed.lean ====
section
/-! DEFINITION. Which commands are well formed: every operand fits the field that carries it (Tables 3-6, 3-7, 16-3,
16-10, 19-2). A command that is not well formed is no command that the part can be given. -/

namespace Sys2Proof

/-- A slot cycle and a bundle index (COUNT of Table 3-6 holds 23 bits; a plate has at most 65,536 bundles). -/
def atOk (a : At) : Bool := a.cycle < 2 ^ 23 && a.bundle < 65536

/-- An address in 16-byte units of a die's galley: 21 bits (Table 3-6). -/
def unit16 (addr : Nat) : Bool := addr < 2 ^ 21

/-- A streamed row's source. -/
def srcOk : StreamSrc → Bool
  | .galley addr => unit16 addr
  | .tap => true

/-- A window size: WIN_H and WIN_W from 1 to 15 (Table 3-6). -/
def windowOk (h w : Nat) : Bool := 1 ≤ h && h ≤ 15 && 1 ≤ w && w ≤ 15

/-- An index and a sub-index (R322). -/
def entryOk (index sub : Nat) : Bool := index < 65536 && sub < 256

/-- A packet's header of 128 bits and its payload words of 512 (Table 19-2). -/
def packetOk (pk : PacketIn) : Bool := pk.header < 2 ^ 128 && pk.payload.all (· < 2 ^ 512)

/-- Every operand of the command fits its field. -/
def Instr.wellFormed : Instr → Bool
  | .powerOnReset => true
  | .resetNAsserted => true
  | .managementWatchdog => true
  | .resetRequest _ v => v < 2 ^ 64
  | .fieldNetworkReset => true
  | .referenceClockLoss => true
  | .perstN _ => true
  | .functionLevelReset => true
  | .pcieLinkChange _ gen width => gen ≤ 5 && width ≤ 16
  | .busMasterEnable _ => true
  | .resetRelease _ => true
  | .chaseEntry => true
  | .proofEntry _ => true
  | .galleyTestDone _ _ => true
  | .ddrTrainingDone _ _ => true
  | .ddrMemoryTestDone _ _ _ => true
  | .ddrLayoutSizeWrite _ sx _ => sx < 256
  | .pressEntry => true
  | .targetStageProof _ => true
  | .targetStagePress _ => true
  | .recoveryImageWrite _ _ _ _ => true
  | .frameStart temps => temps.dies.length = 8
  | .slotStart _ _ _ => true
  | .formeCommit _ _ => true
  | .loopBegin a _ count _ => atOk a && count < 2 ^ 23
  | .loopEnd a _ => atOk a
  | .waitCycle a count => atOk a && count < 2 ^ 23
  | .endOp a => atOk a
  | .replayPoint a => atOk a
  | .expectFill a _ epoch => atOk a && epoch < 65536
  | .expectDrain a _ epoch => atOk a && epoch < 65536
  | .filled a _ epoch => atOk a && epoch < 65536
  | .drained a _ epoch => atOk a && epoch < 65536
  | .checkTag a _ => atOk a
  | .release a _ => atOk a
  | .mac a _ fmt _ src => atOk a && fmt ≤ 4 && srcOk src
  | .macInit a _ fmt _ src => atOk a && fmt ≤ 4 && srcOk src
  | .loadTile a fmt _ addr => atOk a && fmt ≤ 4 && unit16 addr
  | .loadScale a addr => atOk a && unit16 addr
  | .swap a => atOk a
  | .drain a _ _ => atOk a
  | .drainClear a _ _ => atOk a
  | .add a _ _ _ => atOk a
  | .sub a _ _ _ => atOk a
  | .mul a _ _ _ => atOk a
  | .fma a _ _ _ _ => atOk a
  | .max a _ _ _ => atOk a
  | .min a _ _ _ => atOk a
  | .movi a _ _ => atOk a
  | .scale a _ _ _ => atOk a
  | .exp a _ _ => atOk a
  | .rcp a _ _ => atOk a
  | .rsqrt a _ _ => atOk a
  | .scorr a _ _ _ => atOk a
  | .rsum a _ _ => atOk a
  | .rmax a _ _ => atOk a
  | .cvt a _ _ _ _ _ => atOk a
  | .mseRange a _ _ _ fmt _ _ _ _ => atOk a && fmt ≤ 5
  | .mseError a _ _ _ fmt _ _ _ _ => atOk a && fmt ≤ 5
  | .vectorLoad a _ addr => atOk a && unit16 addr
  | .vectorStore a _ addr => atOk a && unit16 addr
  | .storeConvert a _ addr _ _ _ => atOk a && unit16 addr
  | .lineLoad a _ _ addr => atOk a && unit16 addr
  | .shift a h w st => atOk a && windowOk h w && 1 ≤ st && st ≤ 4
  | .emitTap a _ _ _ _ => atOk a
  | .poolMax a y x h w dil _ => atOk a && windowOk h w && y < 15 && x < 15 && dil ≤ 3
  | .poolAvg a y x h w dil _ => atOk a && windowOk h w && y < 15 && x < 15 && dil ≤ 3
  | .galleyCopy a desc _ => atOk a && unit16 desc && desc % 4 = 0
  | .galleyFill a desc _ => atOk a && unit16 desc && desc % 4 = 0
  | .ddrRead a desc _ => atOk a && unit16 desc && desc % 4 = 0
  | .ddrWrite a desc _ => atOk a && unit16 desc && desc % 4 = 0
  | .slugWalkGather a desc _ => atOk a && unit16 desc && desc % 4 = 0
  | .slugWalkAppend a desc _ => atOk a && unit16 desc && desc % 4 = 0
  | .slugWalkSealRead a desc _ => atOk a && unit16 desc && desc % 4 = 0
  | .slugWalkSealWrite a desc _ => atOk a && unit16 desc && desc % 4 = 0
  | .remoteWrite a desc _ => atOk a && unit16 desc && desc % 4 = 0
  | .loadStreamScaleTable a desc _ => atOk a && unit16 desc && desc % 4 = 0
  | .transferComplete _ _ _ => true
  | .galleyReadLanding a _ _ _ _ => atOk a
  | .stepReplay _ => true
  | .supplyDroop _ need => need < 65536
  | .supplyProtectiveStop _ => true
  | .linkCrcError _ _ => true
  | .lineStep _ => true
  | .axisResume _ => true
  | .stallEvent _ => true
  | .sensorEdge _ _ => true
  | .reservationResume _ => true
  | .jam _ => true
  | .longDocumentJam _ => true
  | .driverFault _ => true
  | .driverFaultRelease _ => true
  | .fieldTimeout _ => true
  | .axisEnable _ _ => true
  | .axisDisable _ _ => true
  | .clearSafe _ _ v => v < 2 ^ 64
  | .go _ _ v => v < 2 ^ 64
  | .freeAxisPulse _ => true
  | .scanLineComplete _ _ => true
  | .pageTruncated _ => true
  | .channelEnable _ _ => true
  | .channelDisable _ _ => true
  | .refStore _ _ v => v < 2 ^ 64
  | .geometryFormeRun _ => true
  | .slugMigrate _ _ => true
  | .textRowProcess _ => true
  | .decodeCutoff _ => true
  | .layoutCutoff _ _ => true
  | .structuringCutoff _ _ => true
  | .fountUnload _ _ v => v < 2 ^ 64
  | .grammarUnload _ _ v => v < 2 ^ 64
  | .textClearCounters _ v => v < 2 ^ 64
  | .imageDecodeStart _ => true
  | .imageDecodeComplete _ => true
  | .decodeDeferred _ => true
  | .decodeAbandoned _ => true
  | .adaptRunStart _ => true
  | .adaptRunStop _ => true
  | .adaptBatchBuild _ => true
  | .publish _ v => v < 2 ^ 64
  | .thermalPointUp => true
  | .thermalPointDown => true
  | .powerPointUp => true
  | .powerPointDown => true
  | .protectiveStepRelease => true
  | .pmbusPoll _ temps => temps.dies.length = 8
  | .pmbusAlert _ => true
  | .sensorCalibration _ => true
  | .backgroundTick _ temps => temps.dies.length = 8
  | .freqRequest _ v => v < 2 ^ 64
  | .activateArea _ v _ => v < 2 ^ 64
  | .clearSuspect _ v => v < 2 ^ 64
  | .coreCounterClear _ sx v => sx < 256 && v < 2 ^ 64
  | .statSlotClear _ _ v => v < 2 ^ 64
  | .dictionaryWrite _ index sx _ => entryOk index sx
  | .sdoTransferTimeout _ index sx => entryOk index sx
  | .mailboxRead header => header < 2 ^ 512
  | .mailboxWrite header bytes => header < 2 ^ 512 && bytes.length ≤ 4096
  | .describeSelect _ v => v < 2 ^ 64
  | .paramStoreSave _ sx v => sx < 256 && v < 2 ^ 64
  | .paramStoreDone _ => true
  | .paramStoreRestore _ sx v => sx < 256 && v < 2 ^ 64
  | .paramStoreCompact _ v => v < 2 ^ 64
  | .paramStoreWearLevel => true
  | .errorHistoryClear _ v => v < 2 ^ 64
  | .rxpdoReceived _ bytes => bytes.length ≤ 64
  | .pdoCycle _ => true
  | .emcyInhibitExpiry => true
  | .heartbeat => true
  | .nmtResetCommunication => true
  | .nmtStateCommand _ => true
  | .ecatStateRequest _ => true
  | .foeWrite _ => true
  | .hostPoll _ => true
  | .jobImage _ _ => true
  | .jobTokenise _ _ => true
  | .jobSample _ _ _ => true
  | .jobTemplateBuild _ _ => true
  | .jobTemplateImport _ _ => true
  | .jobTemplateClear _ => true
  | .jobRequests _ table => table.length % 1152 = 0
  | .jobLoad _ => true
  | .hostReadRetry _ _ => true
  | .msixHoldoffExpiry _ => true
  | .msixUnmask _ => true
  | .ringEnable _ _ => true
  | .jobListEnable _ _ => true
  | .passthroughDrain _ => true
  | .bar2Read _ _ => true
  | .bar2Write _ _ => true
  | .fabricEnable _ => true
  | .fabricPortAligned _ neighbour sizeX sizeY _ => neighbour < 256 && sizeX ≤ 16 && sizeY ≤ 16
  | .fabricRetrain _ => true
  | .fabricAlignmentLost _ => true
  | .fabricLinkSilent _ => true
  | .fabricLinkReceived _ pk => packetOk pk
  | .fabricPacketForward _ pk => packetOk pk
  | .fabricWriteReceived _ pk => packetOk pk
  | .fabricWriteRespReceived _ pk => packetOk pk
  | .fabricGrantReceived _ pk => packetOk pk
  | .fabricCloseReceived _ pk => packetOk pk
  | .fabricMgmtRespReceived _ pk => packetOk pk
  | .fabricAdapterReqReceived _ pk => packetOk pk
  | .fabricAdapterDataReceived _ pk => packetOk pk
  | .fabricRespTimeout _ => true
  | .windowDeadline _ => true
  | .adapterImportFrom _ _ => true
  | .loadManifestReceived _ _ => true
  | .loadComplete _ _ => true
  | .fwSlotWritten _ => true
  | .fwActivate _ v => v < 2 ^ 64
  | .confirm _ v => v < 2 ^ 64
  | .trialTimeout => true
  | .attestRequest _ v => v < 2 ^ 64
  | .tokenWrite _ _ _ => true
  | .debugGrantExpiry => true
  | .debugLock _ v => v < 2 ^ 64
  | .ownerKeyProgram _ _ => true
  | .ownerKeyRevoke _ v => v < 2 ^ 64
  | .loopbackStart _ _ => true
  | .loopbackLock _ => true
  | .loopbackLockTimeout _ => true
  | .loopbackDurationEnd _ _ _ _ => true
  | .loopbackStop _ _ => true
  | .pcieLoopbackEntry => true
  | .galleyTestRequest _ v => v < 2 ^ 64
  | .jtagIdcode => true
  | .jtagSamplePreload => true
  | .jtagExtest => true
  | .jtagClamp => true
  | .jtagHighz => true
  | .jtagDebugAccess _ => true
  | .jtagBypass => true
  | .functionStartComplete _ => true
  | .compactionComplete => true
  | .hostReadCompletion _ _ => true
  | .fabricCrcMismatch _ => true
  | .sampleDecodeOverBudget => true

end Sys2Proof
end

