-- ==== Sys2Proof/Tests/Slice0.lean ====
section
/-! SUPPORT. Tests: ill-formed terms are refused, values worked out by hand from the tables of spec/, and for each clause of
a statement with hypotheses a state and operands that meet them. -/

namespace Sys2Proof.Tests

open Sys2Proof Sys2Proof.Machine

set_option maxRecDepth 8000
set_option exponentiation.threshold 1200

/-- A device that runs in a stage, with some entries set. -/
def dev (stage : Nat) (entries : List (Nat × Nat)) : Dev :=
  entries.foldl (fun d e => d.wr e.1 e.2) (Dev.wr { Dev.inReset with run := .on } 0x2000_01 stage)

/-- A state of such a device. -/
def st (d : Dev) : State := ⟨d, []⟩

def entry0 : SlotEntry := ⟨1000, 100, 90, 0, 0, 1, 0, true⟩

/-- An imposition of one slot, with scoreboard slot 5 over 4 KiB, written by core 0 and read by cores 0 and 1. -/
def imposition0 : ImpositionSeg := ⟨0, [(0, [entry0])], [], [⟨5, 0, [0, 1], 4096, 4096, true⟩]⟩

def set0 : PlateSetIn := ⟨[], 0, [], [imposition0], [], [], [], [], [], [], [], [], ⟨[], [], [], 0, 0⟩⟩

/-- Press, with that imposition in force. -/
def press : Dev :=
  { dev 3 [(0x2501_02, 3), (0x2504_01, 0)] with plate := { PlateSt.init with areas := [(0, set0)] } }

def running : CoreSt := { CoreSt.idle with running := true }

def at0 : At := ⟨0, 10, 3⟩

/-- The core as an operation at cycle 10, bundle 3 finds it. -/
def found (x : CoreSt) : CoreSt := { x with cycle := 10, bundle := 3 }

/-- Press with a core that runs. -/
def withCore (x : CoreSt) : Dev := press.setCore 0 x

/-- A core that launched nothing makes no accesses. -/
theorem engineTo_none (d : Dev) (c : Fin 96) (k : Nat) (h : (d.core c).launches = []) : d.engineTo c k = d := by
  simp [Dev.engineTo, Dev.engines, nextLaunch, h]

/-- A core that runs, with nothing in flight and nothing launched, issues. -/
theorem test_issues (d : Dev) (x : CoreSt) (h : d.core 0 = x) (hr : x.running = true) (hf : x.frozen = false)
    (he : x.ended = false) (hi : x.inFlight = []) (hl : x.launches = []) (hv : x.loads = []) :
    (st d).issues at0 d (found x) := by
  refine ⟨?_, ?_, ?_, ?_, x, ?_, rfl⟩
  · exact engineTo_none d 0 10 (by rw [h, hl])
  · show (d.core 0).ended = false
    rw [h, he]
  · show (d.core 0).running = true
    rw [h, hr]
  · show (d.core 0).frozen = false
    rw [h, hf]
  · show ((d.core 0).catchUp d.word 10).until_ 10 = _
    rw [h, CoreSt.catchUp, if_pos hv, CoreSt.until_, CoreSt.advance, hi]

/-! ## Witnesses: the core -/

theorem test_witness_idle : State.reset.pending = [] ∧ State.reset.dev.run = .held ∧ (st press).pending = [] ∧
    (st press).dev.run ≠ .held := by decide

theorem test_witness_flash : writesNv .jtagIdcode = false ∧ ∃ t, exec .jtagIdcode State.reset = .next t := ⟨rfl, _, rfl⟩

/-- LoopsRun, SequencerMoves, ScoreboardEpochs and every other statement about an operation: a core that issues it. -/
theorem test_witness_issues : (st (withCore running)).issues at0 (withCore running) (found running) :=
  test_issues _ _ (by decide) rfl rfl rfl rfl rfl rfl

theorem test_witness_loopEnd : ∃ x : CoreSt, (st (withCore x)).issues at0 (withCore x) (found x) ∧
    kvGet ⟨0, 0⟩ (found x).loops 1 = ⟨1 + 2, 4⟩ ∧ kvGet ⟨0, 0⟩ (found x).loops 0 = ⟨1, 4⟩ ∧ (1 : Nat) ≤ 1 :=
  ⟨{ running with loops := [(0, ⟨1, 4⟩), (1, ⟨3, 4⟩)] }, test_issues _ _ (by decide) rfl rfl rfl rfl rfl rfl, by decide, by decide,
    by decide⟩

theorem test_witness_sequencer : ((found running).catchUp (withCore running).word 20).until_ 20 = (found running, 0) ∧ (found running).flush = (found running, 0) ∧
    (found running).replaying = false ∧ ((withCore running).core 0).ended = false ∧
    (withCore running).engineTo 0 (max 10 20) = withCore running ∧ (withCore running).reaches at0 (found running) := by
  refine ⟨by decide, by decide, rfl, by decide, ?_, by decide, by decide, running, by decide, rfl⟩
  exact engineTo_none _ _ _ (by decide)

/-- A core at its replay point, to be issued again. -/
def replayed : CoreSt := { running with replaying := true, replayBundle := 3 }

theorem test_witness_replayPoint : (st (withCore replayed)).issues at0 (withCore replayed) (found replayed) ∧
    (found replayed).replaying = true ∧ at0.bundle = (found replayed).replayBundle :=
  ⟨test_issues _ _ (by decide) rfl rfl rfl rfl rfl rfl, rfl, rfl⟩

theorem test_witness_slotStart : press.inPress = true ∧ (press.slotList (0 : Fin 96).val)[0]? = some entry0 ∧
    (press.core 0).running = false ∧ (withCore running).inPress = true ∧
    ((withCore running).slotList (0 : Fin 96).val)[0]? = some entry0 ∧ ((withCore running).core 0).running = true ∧
    ((withCore running).core 0).ended = false := by decide

theorem test_witness_replay : ((withCore { running with frozen := true }).core 0).running = true ∧
    ((withCore { running with frozen := true }).core 0).frozen = true ∧
    ((withCore { running with frozen := true }).core 0).header = none ∧
    ((withCore { running with frozen := true, header := some 0 }).core 0).header = some 0 ∧
    ((withCore { running with frozen := true, header := some 0 }).slotList (0 : Fin 96).val)[0]? = some entry0 := by decide

def pairW (v lo : Nat) : Nat := v <<< lo + (2 ^ 32 - 1 - v) <<< (lo + 32)

/-- A descriptor: one row of 64 bytes (Table 3-5). -/
def descWord (src dstLo dstHi : Nat) : Nat :=
  pairW 64 448 + pairW dstHi 384 + pairW dstLo 320 + pairW 0 256 + pairW src 192 + 2 ^ 176 + 2 ^ 144 + 2 ^ 128

/-- Launch 7 of a D_OP, its descriptor landed, its words due in cycle 9. -/
def launched (op mode word : Nat) (moving : Bool) : Launch := ⟨9, moving, 2, 0, word, false, op, mode, 7, [], none, []⟩

/-- A core with a copy under way whose rows lie in slot 5. -/
def filling : CoreSt := { running with launches := [⟨99, true, 2, 0, descWord 8192 4096 0, false, 1, 0, 7, [], none, []⟩] }

theorem test_witness_scoreboard : (withCore running).sbSlot 5 = some ⟨5, 0, [0, 1], 4096, 4096, true⟩ ∧
    (∀ t ∈ (found running).tags, t.1 ≠ 7) ∧
    (found filling).launches.any
      (·.writesTo ⟨5, 0, [0, 1], 4096, 4096, true⟩) = true ∧
    (found running).launches.any (·.writesTo ⟨5, 0, [0, 1], 4096, 4096, true⟩) = false := by decide

/-- The same of an operation that finds a transfer into slot 5 under way. -/
theorem test_witness_filled : (st (withCore filling)).issues at0 (withCore filling) (found filling) :=
  ⟨by decide, by decide, by decide, by decide, filling, by decide, rfl⟩

/-- A core with transfer 7 and an expected epoch 9 in slot 5. -/
def busyCore : CoreSt := { running with tags := [(7, ⟨4, 0, false, 0, 0, 1, 0, false, none⟩)], sb := [(5, ⟨0, some 9, none, []⟩)] }

theorem test_witness_violations : (st (withCore busyCore)).issues at0 (withCore busyCore) (found busyCore) ∧
    (7, (⟨4, 0, false, 0, 0, 1, 0, false, none⟩ : Xfer)) ∈ (found busyCore).tags ∧
    (withCore busyCore).unfilled (found busyCore) (galleyAddr 0 256) 256 = some 5 ∧
    (withCore busyCore).unfilled (found busyCore) (galleyAddr 0 256) 64 = some 5 ∧
    ∀ fmt, (withCore busyCore).unfilled (found busyCore) (galleyAddr 0 256) (rowBytes fmt) = some 5 :=
  ⟨test_issues _ _ (by decide) rfl rfl rfl rfl rfl rfl, by decide, by decide, by decide,
    fun fmt => by unfold rowBytes; split <;> decide⟩

/-- Reads where no slot is in the way. -/
theorem test_witness_galleyReads : (∀ n, (withCore running).unfilled (found running) (galleyAddr 0 4096) n = none) ∧
    (st (withCore running)).reads at0 4096 256 (withCore running) (found running) :=
  ⟨fun _ => rfl, test_witness_issues, rfl⟩

/-- A core with two results for register 2 due in cycle 9. -/
def twins : CoreSt := { running with inFlight := [⟨9, 0, 1, .vreg 2 []⟩, ⟨9, 0, 2, .vreg 2 []⟩] }

theorem test_witness_collision : (withCore twins).engineTo at0.core at0.cycle = withCore twins ∧
    ((withCore twins).core 0).running = true ∧ ((withCore twins).core 0).frozen = false ∧
    ((withCore twins).core 0).ended = false ∧
    ((withCore twins).core 0).loads = [] ∧ ((withCore twins).core 0).inFlight = ⟨9, 0, 1, .vreg 2 []⟩ :: [⟨9, 0, 2, .vreg 2 []⟩] ∧ (9 : Nat) < at0.cycle ∧
    twinOf ⟨9, 0, 1, .vreg 2 []⟩ [⟨9, 0, 2, .vreg 2 []⟩] = some ⟨9, 0, 2, .vreg 2 []⟩ := by
  refine ⟨?_, by decide⟩
  exact engineTo_none _ _ _ (by decide)

/-- Results due together for two registers do not stop the core: the second of ADD's cycles. -/
theorem test_noCollision : ({ running with inFlight := [⟨9, 0, 1, .vreg 2 []⟩, ⟨9, 0, 2, .vreg 3 []⟩] } : CoreSt).until_ 10 =
    ({ running with vregs := [(2, []), (3, [])] }, 0) := by decide

theorem test_witness_mseScales : (mseBases ⟨false, true, false, 0⟩ ((found running).vreg 0)).all
    (mseScaleOk 1 ⟨false, true, false, 0⟩) = true ∧ (mseBases ⟨false, true, false, 0⟩ (List.replicate 64 0x7FC0_0000#32)).all
    (mseScaleOk 1 ⟨false, true, false, 0⟩) = false := by decide

theorem test_witness_nothingInFlight : (found running).inFlight = [] := rfl

theorem test_witness_stores : (withCore running).dieIn (galleyAddr 0 256) = true ∧
    (∀ w ∈ wordsOf (galleyAddr 0 256) 256, (withCore running).gatedAt (w * 64) = false ∧
      w ∉ (withCore running).poisoned) ∧
    (withCore running).undrained (found running) (galleyAddr 0 256) 256 = none ∧
    (lanesBytes ((found running).vreg 0)).length = 256 := by decide

theorem test_witness_convertedStores : ∀ rnd : Fin 3, ((withCore running).countStochastic rnd.val).dieIn (galleyAddr 0 256) = true ∧
    (∀ w ∈ wordsOf (galleyAddr 0 256) (8 * vfmtBits 1), ((withCore running).countStochastic rnd.val).gatedAt (w * 64) = false ∧
      w ∉ ((withCore running).countStochastic rnd.val).poisoned) ∧
    ((withCore running).countStochastic rnd.val).undrained (found running) (galleyAddr 0 256) (8 * vfmtBits 1) = none := by decide

theorem test_witness_window : (3 : Nat) ≤ 15 ∧ (15 : Nat) ≤ 15 ∧ (14 : Nat) < 15 := by decide

/-! ## Witnesses: transfers -/

/-- A core that runs, with that launch, and a window granted by device 16 over fabric port 1. -/
def withLaunch (l : Launch) : Dev :=
  let d := withCore { running with launches := [l], tags := [(7, ⟨l.op, l.word, false, 0, 0, 1, 0, false, none⟩)] }
  let d := ((d.wr 0x4200_02 2).wr 0x4200_03 1).wr 0x4221_01 2
  { d with fabric := { d.fabric with grants := [⟨16, 3, 0, 0, [], 0, false⟩] } }

/-- What comes next of a launch finds it on its tag. -/
theorem test_witness_launch : ∀ m : Bool, ∀ v : Fin 2, ∀ l,
    l = { launched 1 0 (descWord 4096 8192 0) m with table := if v = 0 then none else some (5, false) } →
    l ∈ (((withLaunch l).toCycle 0 9).core 0).launches ∧
    (((withLaunch l).toCycle 0 9).core 0).tags.find? (fun t => t.1 = 7) =
      some (7, ⟨1, descWord 4096 8192 0, false, 0, 0, 1, 0, false, none⟩) ∧ l.bad = false ∧ descPairsOk l.word = true ∧
    ((withLaunch l).toCycle 0 9).gatedAt l.desc = false ∧ l.dropped = [] := by
  rintro m v l rfl
  cases m <;> fin_cases v <;> decide

/-- The core's state beside the launch, and the device that its words find. -/
def movingCore (op word : Nat) : CoreSt :=
  { running with tags := [(7, ⟨op, word, false, 0, 0, 1, 0, false, none⟩)] }

def movingDev (op mode word : Nat) : Dev := ((withLaunch (launched op mode word true)).toCycle 0 9).setCore 0 (movingCore op word)

theorem test_witness_move : (movingDev 1 0 (descWord 4096 8192 0)).runStatus (launched 1 0 (descWord 4096 8192 0) true).shape = 0 ∧
    (launched 1 0 (descWord 4096 8192 0) true).shape.isFill = false ∧
    (launched 1 1 (descWord 4096 8192 0) true).shape.isFill = true ∧
    (movingDev 1 0 (descWord 4096 8192 0)).undrainedIn (movingCore 1 (descWord 4096 8192 0))
      (launched 1 0 (descWord 4096 8192 0) true).shape.writes = none ∧
    (movingDev 2 0 (descWord 4096 8192 0)).poisonRead (launched 2 0 (descWord 4096 8192 0) true).shape = none := by decide

theorem test_witness_walkAndTable : (movingDev 4 0 (descWord 4096 8192 0)).walkWord 4096 64 true = none ∧
    (descOf (descWord 4096 8192 0)).rows ≠ 0 ∧ (descOf (descWord 4096 8192 0)).length ≠ 0 ∧
    (descOf 0).rows = 0 ∧ (movingDev 6 0 (descWord 4096 8192 0)).reachStatus 4096 64 = 0 := by
  decide

/-- A walk descriptor whose pairs are well formed, at galley address 4096. -/
theorem test_witness_walkDescriptor : pairsOk (pairW 1 448 + pairW 2 384 + pairW 3 320) [448, 384, 320] = true := by decide

/-- Device 16, window 3 is granted; window 4 is not. -/
theorem test_witness_remoteWrite : ∀ w : Fin 2, ∀ word y, word = descWord 4096 8192 (0x100300 + 256 * w.val) → y = descOf word →
    (movingDev 5 0 word).poisoned = [] ∧ (movingDev 5 0 word).remoteWords y ≠ [] ∧
    (movingDev 5 0 word).reachStatus y.src (spanOf y.rows y.length y.srcPitch) = 0 ∧
    (movingDev 5 0 word).grantOf (bits y.dst 55 48) (bits y.dst 47 40) = (if w = 0 then some ⟨16, 3, 0, 0, [], 0, false⟩ else none) ∧
    ((movingDev 5 0 word).outPort (bits y.dst 55 48)).isSome = true := by
  rintro w word y rfl rfl
  fin_cases w <;> decide

theorem test_witness_copyFrame : press.poisoned = [] ∧ addrSpace (descOf (descWord 4096 8192 0)).src ≠ 2 ∧
    addrSpace (descOf (descWord 4096 8192 0)).dst ≠ 2 ∧ ∀ r, r < (descOf (descWord 4096 8192 0)).rows →
    8256 < (descOf (descWord 4096 8192 0)).dst + r * (descOf (descWord 4096 8192 0)).dstPitch * 64 ∨
    (descOf (descWord 4096 8192 0)).dst + r * (descOf (descWord 4096 8192 0)).dstPitch * 64 +
      (descOf (descWord 4096 8192 0)).length ≤ 8256 := by
  refine ⟨by decide, by decide, by decide, fun r hr => Or.inr ?_⟩
  have h : (descOf (descWord 4096 8192 0)).rows = 1 := by decide
  have : r = 0 := by omega
  subst this
  decide

def transferring (p : Bool) : Dev := withCore { running with tags := [(7, ⟨4, 0, p, 5, 9, 1, 0, false, none⟩)] }

theorem test_witness_transfers : ∀ p : Bool,
    ((transferring p).engineTo 0 (lastMove (transferring p).landing (((transferring p).core 0).launches.filter (fun l => l.tag = 7)))).core 0 =
      { running with tags := [(7, ⟨4, 0, p, 5, 9, 1, 0, false, none⟩)] } := by decide

theorem test_witness_landing : (withCore running).gatedAt 0 = false ∧ (withCore running).addrOk 0 = true ∧
    (withCore running).dieIn 0 = true ∧ (withCore running).isPoisoned 0 = false ∧ (found running).detected = false ∧
    (withCore running).engineTo 0 10 = withCore running ∧ (withCore running).lands at0 (found running) ∧
    ∀ f : Bool, ((withCore running).detection 0 (if f then 1 else 0)).restorable 0 = false := by
  refine ⟨by decide, by decide, by decide, by decide, rfl, engineTo_none _ _ _ (by decide),
    ⟨by decide, by decide, running, by decide, rfl⟩, by decide⟩

/-! ## Witnesses: supply, resets and stages -/

theorem test_witness_supply : 0 ≤ press.rd 0x2200_01 ∧ press.rd 0x2200_01 < 65535 ∧ (0 : Fin 96).val ∉ press.power.atDroop ∧
    (((withCore running).overrideOpen 0x0308).core 0).running = true ∧
    (((withCore running).overrideOpen 0x0308).core 0).ended = false ∧ (0 : Fin 8).val < 6 := by decide

/-- In reset, and with a boot record whose slot 0 verifies. -/
def bootable : Dev :=
  { Dev.inReset with nv := { Dev.inReset.nv with slot0 := ⟨2, some ⟨1, 0, 0, [], 0, []⟩⟩,
                                                 boot0 := some ⟨1, 0, false, 0, false, false⟩ } }

theorem test_witness_release : bootable.run = .held ∧ (1 : BitVec 2) ≠ 0 ∧
    ((bootable.nv.cutShort 0).cutShort 1).decide.2.2 = some 0 ∧ ∃ t, exec (.resetRelease 0) (st bootable) = .next t :=
  ⟨rfl, by decide, by decide, _, rfl⟩

theorem test_witness_resets : ¬((dev 4 []).run = .on ∧ (dev 4 []).stage ≤ 3) ∧ press.stage ≤ 3 ∧ press.run ≠ .held ∧ press.run = .on ∧ press.passes .can 0x2000_08 1 := by decide

theorem test_witness_chase : ∃ t, exec (.resetRelease 0) (st bootable) = .next t ∧ t.dev.run = .booting ∧ t.dev.nv.store = [] ∧
    t.dev.start.later = [] ∧ t.dev.start.laterDom = [] := ⟨_, rfl, by decide⟩

/-- Chase, entered from a boot. -/
theorem test_chaseEntry : ∃ t u, exec (.resetRelease 0) (st bootable) = .next t ∧ exec .chaseEntry t = .next u ∧
    u.dev.run = .on ∧ u.dev.stage = 1 ∧ u.dev.ready 27 = true ∧ u.dev.rd 0x4811_01 = 3 := ⟨_, _, rfl, rfl, by decide⟩

/-! ## Witnesses: stages, frames, loops -/

/-- Everything that Press needs is there. -/
def allReady : Dev :=
  dev 2 [(0x2000_02, 3), (0x4100_02, 1), (0x2501_02, 3), (0x2001_01, 2 ^ 33 + 2 ^ 34 + 2 ^ 35 + 2 ^ 37 + 2 ^ 38 + 2 ^ 12 + 31 * 2 ^ 20)]

theorem test_witness_proofStarts : (dev 1 []).run = .on ∧ (dev 1 []).stage = 1 ∧
    ({ dev 2 [] with test := { TestSt.init with dies := [3] } } : Dev).test.dies.contains (3 : Fin 6).val = true ∧
    (dev 2 [(0x4100_02, 1)]).channelOpen (0 : Fin 8).val = true ∧ (0 : Fin 8).val ∉ (dev 2 [(0x4100_02, 1)]).ddrTrained ∧
    ({ dev 2 [(0x4100_02, 1)] with ddrTrained := [0] } : Dev).channelOpen (0 : Fin 8).val = true ∧
    fnBit (.scan 0) ∉ (dev 2 []).start.fnsStarted := by decide

theorem test_witness_stageTargets : (dev 2 []).passes .can 0x2000_02 2 ∧ (dev 2 []).stage ≠ 3 ∧
    (dev 3 []).passes .can 0x2000_02 2 ∧ (dev 3 []).stage = 3 ∧ (dev 3 []).rd 0x3E12_02 ≠ 1 ∧
    (dev 2 []).passes .can 0x2000_02 3 ∧ allReady.run = .on ∧ allReady.stage = 2 ∧ allReady.rd 0x2000_02 = 3 ∧
    allReady.pressCondition = 0 := by decide

def noScrub : ScrubIn := ⟨[], [], [], none⟩

theorem scrub_rows (words : Nat) (bs : List Nat) : ∀ e : Dev,
    (bs.foldl (fun d b => let p := kvGet 0 d.scrubPos b + words
      ({ d with scrubPos := kvPut 0 d.scrubPos b (p % 1024) } : Dev).bumpBy 0x2301_02 (p / 1024)) e).stage = e.stage ∧
    (bs.foldl (fun d b => let p := kvGet 0 d.scrubPos b + words
      ({ d with scrubPos := kvPut 0 d.scrubPos b (p % 1024) } : Dev).bumpBy 0x2301_02 (p / 1024)) e).poisoned = e.poisoned := by
  induction bs with
  | nil => intro e; exact ⟨rfl, rfl⟩
  | cons b r ih =>
    intro e
    rw [List.foldl_cons, (ih _).1, (ih _).2]
    exact ⟨Laws.rd_bumpBy_other _ _ (by decide), rfl⟩

/-- A scrub of clean memory finds nothing. -/
theorem scrub_clean (d : Dev) (n words : Nat) (h : d.poisoned = []) :
    (d.scrubDie n words noScrub).stage = d.stage ∧ (d.scrubDie n words noScrub).poisoned = [] := by
  have e : d.scrubFinds n words noScrub = [] := by simp [Dev.scrubFinds, noScrub, h]
  rw [Dev.scrubDie, e]
  exact ⟨(scrub_rows words _ d).1, (scrub_rows words _ d).2.trans h⟩

theorem test_witness_background (k : Nat) (h : k = 1 ∨ k = 2) :
    ((List.range 6).foldl (fun d n => d.scrubDie n (d.rd 0x2301_01) noScrub) (dev k [])).stage = k ∧ (dev k []).stage = k := by
  have e : (dev k []).stage = k := by rcases h with rfl | rfl <;> decide
  have g : ∀ (l : List Nat) (d : Dev), d.poisoned = [] → (l.foldl (fun d n => d.scrubDie n (d.rd 0x2301_01) noScrub) d).stage = d.stage := by
    intro l
    induction l with
    | nil => intro d _; rfl
    | cons n r ih => intro d h; rw [List.foldl_cons, ih _ (scrub_clean d n _ h).2, (scrub_clean d n _ h).1]
  exact ⟨by rw [g _ _ rfl, e], e⟩

/-- 105 degrees, the point may rise to 2, 100 W over a cap of 50 W. -/
def hot : Dev :=
  { dev 3 [(0x2202_03, 1050), (0x2201_04, 2), (0x2204_02, 100000)] with power := { PowerSt.init with cap := 50 } }

/-- 20 degrees, 10 W under a cap of 50 W, both points at 1. -/
def cool : Dev :=
  { dev 3 [(0x2202_03, 200), (0x2204_02, 10000)] with power := { PowerSt.init with thermal := 1, power := 1, cap := 50 } }

theorem test_witness_loops : hot.tjStep ≤ hot.tjMax ∧ hot.power.thermal < hot.floorPoint ∧ hot.capMw ≠ 0 ∧
    hot.capMw < hot.rd 0x2204_02 ∧ hot.power.power < hot.floorPoint ∧ cool.tjMax ≤ cool.tjBack ∧ 0 < cool.power.thermal ∧
    10 * cool.rd 0x2204_02 < 9 * cool.capMw ∧ 0 < cool.power.power := by decide

/-- A plate set that is verified stands in area 0. -/
def loaded (stage : Nat) : Dev :=
  { dev stage [(0x2501_02, 2), (0x2505_01, 1)] with plate := { PlateSt.init with areas := [(0, set0)] } }

theorem test_witness_plateEntries : (∀ v : Fin 3, (dev 2 []).passes .can 0x2201_01 v.val) ∧
    (loaded 2).passes .can 0x2503_01 0 ∧ (loaded 2).accessed.stage ≠ 3 ∧ (loaded 3).passes .can 0x2503_01 0 ∧
    (loaded 3).accessed.stage = 3 ∧ (loaded 2).passes .can 0x2505_04 1 := by decide

/-! ## Witnesses: axes and channels -/

/-- Axis 0 is a transport coupled to channel 0, which is on and takes lines; its other values are given. -/
def moving (state : Nat) (a : AxisSt) (more : List (Nat × Nat)) : Dev :=
  { dev 3 ([(akey 0 0 1, 1), (akey 0 0 2, 1), (akey 0 0 15, 1), (akey 0 5 1, state), (ckey 0 0 9, 1), (ckey 0 0 1, 1)] ++ more)
    with axes := [(0, a)] }

theorem test_witness_axes : (moving 1 AxisSt.init []).stepping (0 : Fin 4).val = true ∧
    ((moving 1 AxisSt.init []).taking (0 : Fin 4).val).any (moving 1 AxisSt.init []).spaceLow = false ∧
    (moving 4 AxisSt.init []).axState (0 : Fin 4).val = 4 ∧ (moving 5 AxisSt.init []).axState (0 : Fin 4).val = 5 ∧
    ((moving 4 AxisSt.init []).retrySheet (0 : Fin 4).val).roomBack (0 : Fin 4).val = true ∧
    (((moving 4 AxisSt.init []).retrySheet (0 : Fin 4).val).axis (0 : Fin 4).val).need = 0 ∧
    (((moving 5 AxisSt.init []).retrySheet (0 : Fin 4).val).axis (0 : Fin 4).val).need = 0 ∧
    ((moving 4 AxisSt.init []).axis (0 : Fin 4).val).stallRaised = false := by decide

/-- Channel 0 reads and its page side has no buffer: the axis must withhold its step. -/
def full : Dev :=
  { moving 1 AxisSt.init [] with pages := [PageSide.blank 0 0],
                                 chans := [(0, { ChanSt.init with reading := true, page := some (0, 0) })] }

theorem test_witness_withheld : full.stepping (0 : Fin 4).val = true ∧ (full.taking (0 : Fin 4).val).any full.spaceLow = true := by
  decide

/-- A free axis on its way to 100, or that decelerates into its safe state. -/
def free (pos : Nat) (decel : Bool) : Dev :=
  { dev 2 [(akey 0 0 1, 2), (akey 0 1 1, 8), (akey 0 5 1, 2), (akey 0 3 3, pairOf pos)] with
    axes := [(0, { AxisSt.init with rest := false, index := 3, decel := decel, reason := if decel then 3 else 0, goal := 100 })] }

theorem test_witness_pulses : (free 0 false).aget (0 : Fin 4).val 0 1 = 2 ∧ 1 ≤ (free 0 false).axState (0 : Fin 4).val ∧
    (free 0 false).axState (0 : Fin 4).val ≤ 3 ∧ ((free 0 true).axis 0).decel = true ∧ ((free 0 true).axis 0).reason = 3 ∧
    ((free 0 false).axis 0).decel = false ∧ ((free 99 false).axis 0).forward = true ∧
    (free 99 false).rdInt (akey 0 3 3) + 1 = signed 32 ((free 99 false).axis 0).goal ∧
    (signed 32 ((free 98 false).axis 0).goal - ((free 98 false).rdInt (akey 0 3 3) + 1)).natAbs = 1 ∧
    1 ≤ (free 98 false).nextIndex 0 ∧
    (free 0 false).nextIndex 0 < (signed 32 ((free 0 false).axis 0).goal - ((free 0 false).rdInt (akey 0 3 3) + 1)).natAbs := by
  decide

theorem test_witness_jams : ((moving 1 { AxisSt.init with edges := [0] } [(akey 0 5 2, 10000)]).axis (0 : Fin 4).val).edges = [0] ∧
    (moving 1 AxisSt.init []).onPath (0 : Fin 4).val = true ∧ (moving 1 AxisSt.init []).axState (0 : Fin 4).val ≠ 6 ∧
    ((moving 1 AxisSt.init []).front (0 : Fin 4).val).isSome = true ∧ (moving 1 AxisSt.init [(akey 0 0 10, 0)]).aget 0 0 10 ≠ 255 ∧
    0 + (moving 1 AxisSt.init [(akey 0 5 2, 10000)]).aget 0 0 11 + (moving 1 AxisSt.init [(akey 0 5 2, 10000)]).rdp (akey 0 2 2) ≤
      (moving 1 AxisSt.init [(akey 0 5 2, 10000)]).lineSteps 0 ∧
    0 ∈ (moving 1 AxisSt.init []).coupled (0 : Fin 4).val ∧
    (moving 1 AxisSt.init [(akey 0 2 5, pairOf 100)]).rdp (akey 0 2 5) ≠ 0 := by decide

theorem test_witness_longDocument :
    (Dev.chan { moving 1 AxisSt.init [] with chans := [(0, { ChanSt.init with longSteps := some 100000 })] } 0).longSteps =
      some 100000 ∧ (moving 1 AxisSt.init []).rdp (akey 0 2 3) ≤ 100000 := by decide

/-- The axis moves to 100 and stands at 0, its ENABLE being given. -/
def entering (a : AxisSt) (enable target : Nat) : Dev :=
  { dev 2 [(0x2001_01, 256), (akey 0 0 1, 2), (akey 0 0 15, enable), (akey 0 5 1, if enable = 1 then 0 else 6), (akey 0 3 1, pairOf target),
      (akey 0 3 5, pairOf 200)] with axes := [(0, a)] }

theorem test_witness_axisEntries :
    (entering AxisSt.init 0 0).passes .can (akey 0 0 15) 1 ∧ (entering AxisSt.init 1 0).passes .can (akey 0 0 15) 0 ∧
    (((entering AxisSt.init 1 0).accessed.clearLatched 0).wr (akey 0 0 15) 0).axState 0 ≠ 6 ∧
    ((((entering AxisSt.init 1 0).accessed.clearLatched 0).wr (akey 0 0 15) 0).axis 0).rest = true ∧
    ((((entering { AxisSt.init with rest := false } 1 0).accessed.clearLatched 0).wr (akey 0 0 15) 0).axis 0).rest = false ∧
    (entering AxisSt.init 1 0).passes .can (akey 0 4 2) 1 := by decide

theorem test_witness_go : (entering AxisSt.init 1 0).passes .can (akey 0 3 2) 1 ∧
    (entering AxisSt.init 1 0).accessed.rdp (akey 0 3 1) = (entering AxisSt.init 1 0).accessed.rdp (akey 0 3 3) ∧
    (entering AxisSt.init 1 100).passes .can (akey 0 3 2) 1 ∧
    (entering AxisSt.init 1 100).accessed.rdp (akey 0 3 1) ≠ (entering AxisSt.init 1 100).accessed.rdp (akey 0 3 3) := by decide

/-! ## Witnesses: channels, formes, slugs, text -/

/-- Channel 0 with its start bit set. -/
def scanning (c : ChanSt) (enable : Nat) : Dev :=
  { dev 3 [(0x2001_01, 16), (ckey 0 0 1, 1), (ckey 0 0 9, enable)] with chans := [(0, c)] }

theorem test_witness_channels : (scanning ChanSt.init 1).takes (0 : Fin 4).val = true ∧
    (scanning { ChanSt.init with inPage := true, page := some (0, 0), stored := 10000000 } 1).truncationDue (0 : Fin 4).val = true ∧
    (scanning ChanSt.init 0).passes .can (ckey 0 0 9) 1 ∧ (scanning ChanSt.init 0).accessed.chanOn 0 = false ∧
    (scanning ChanSt.init 1).passes .can (ckey 0 0 9) 0 ∧ (scanning ChanSt.init 1).accessed.chanOn 0 = true ∧
    (scanning ChanSt.init 0).passes .can (ckey 0 0 9) 0 ∧ (scanning ChanSt.init 0).axisOf 0 = none ∧
    (moving 1 AxisSt.init []).axisOf 0 = some 0 ∧ (scanning ChanSt.init 0).passes .can (ckey 0 7 2) 1 := by decide

def page0 : PageSide := PageSide.blank 0 0

/-- A geometry forme of page side (0, 0) on unit 1. -/
def geometry : Dev :=
  { press with pages := [page0], formes := [{ Forme.blank 2 with id := 7, pages := [(0, 0)], admitted := true, unit := 1 }] }

theorem test_witness_geometry : ∃ f, geometry.unitForme (1 : Fin 2).val = some f ∧ f.pages = (0, 0) :: [] ∧
    geometry.page? 0 0 = some page0 := ⟨_, rfl, rfl, rfl⟩

/-- Slug 0 lies sealed in galley; DDR5 has room for it. -/
def sealedSlug : Dev :=
  { dev 3 [(0x4101_07, pairOf 1), (0x3C10_01, 2048), (0x3C10_02, 1), (0x3C10_03, 128), (0x3C10_04, 1), (0x3C10_06, 1), (0x3C01_01, 10 + 256 * 4 + 65536)] with
    mem := [(0x1200_0000, 20)] }

theorem test_witness_migrate : slugWordOk (sealedSlug.slugWord 0) = true ∧ (sealedSlug.slugAt 0).state = 1 ∧ (sealedSlug.slugAt 0).pool = 1 ∧
    (∀ m ∈ sealedSlug.slug.moves, m.1 ≠ 0) ∧ (sealedSlug.slotAddr 1 (sealedSlug.slugAt 0).loc).isSome = true ∧
    sealedSlug.freeLoc 2 = some 0 ∧ (sealedSlug.slotAddr 2 0).isSome = true := by decide

/-- Row 3: a sequence whose step has committed, with a fount of one token and its candidate. -/
def textRow : Dev :=
  { dev 3 [] with
    text := { TextSt.init with founts := [(0, ⟨1, 0, 1, [[65]], []⟩)] },
    seqs := [(0, { SeqSt.init with due := true, request := List.replicate 95 0 ++ [255] ++ List.replicate 1056 0 })],
    mem := memWrite (memWrite [] (candBase 3) (leBytes 8 (2 ^ 63))) (seqAddr 0) (leBytes 64 (3 * 2 ^ 144 + 2 ^ 138)) }

theorem test_witness_textRow : textRow.dueSeqs.find? (fun i => (textRow.seqEnt i).row = (3 : Fin 256).val &&
      textRow.dueSeqs.all (fun j => !textRow.rowBefore j i)) = some 0 ∧
    (textRow.stepOf 0).find? (fun j => !(kvGet SeqSt.init textRow.seqs j).checked && !textRow.rowCandsOk j) = none ∧
    ((textRow.checkStep 0).fount? (textReqOf (kvGet SeqSt.init (textRow.checkStep 0).seqs 0).request).fount).isSome = true := by
  decide

theorem test_witness_cutoffs : textRow.liveSeqs.contains 0 = true ∧ (textRow.seqEnt 0).state ≠ 2 ∧ (textRow.seqEnt 0).state ≠ 3 ∧
    ({ textRow with mem := memWrite textRow.mem (seqAddr 0) (leBytes 64 (2 * 2 ^ 138)) } : Dev).liveSeqs.contains 0 = true ∧
    (({ textRow with mem := memWrite textRow.mem (seqAddr 0) (leBytes 64 (2 * 2 ^ 138)) } : Dev).seqEnt 0).state = 2 ∧
    geometry.page? (0 : Fin 16).val 0 = some page0 ∧ page0.bare = none ∧ page0.group = none ∧ page0.geometryDone = false := by
  decide

theorem test_witness_textEntries : (dev 2 [(0x2001_01, 2 ^ 34)]).passes .can (fountKey 0 7) 1 ∧
    (dev 2 [(0x2001_01, 2 ^ 34)]).passes .can (grammarKey 31 7) 1 ∧ (dev 2 [(0x2001_01, 2 ^ 34)]).passes .can 0x3A01_01 1 := by decide

/-! ## Witnesses: images, adaptation, commits -/

def gray : ImageIn := .samples 1 1 1 false [[5]]

def decode0 : Decode := ⟨0, 0, 0, gray, 0, 2000000, false, false, none⟩

/-- An image waits. -/
def waiting : Dev := { press.wr 0x4000_04 1 with pages := [page0], batch := { BatchSt.init with images := [(0, 0)] } }

/-- An engine decodes. -/
def decoding (x : Decode) : Dev := { press with pages := [page0], batch := { BatchSt.init with decodes := [x] } }

theorem test_witness_decodes : waiting.busOn = true ∧ waiting.batch.images = (0, 0) :: [] ∧ waiting.freeEngine = some 0 ∧
    (waiting.picture decode0).isSome = true ∧ waiting.picture { decode0 with img := .corrupt } = none ∧
    (decoding decode0).decodeAt (0 : Fin 8).val = some decode0 ∧ decode0.waits = false ∧
    ((decoding decode0).picture decode0).isSome = true ∧ (decoding decode0).page? decode0.ring decode0.seq = some page0 ∧
    page0.bare = none ∧ decode0.deferred = false ∧ (decoding decode0).now < decode0.start + decode0.budget ∧
    (decoding { decode0 with deferred := true }).decodeAt (0 : Fin 8).val = some { decode0 with deferred := true } ∧
    (decoding decode0).now < decode0.start + (decoding decode0).rdp 0x3E01_06 * 1000000 ∧
    decode0.start + decode0.budget ≤ ({ decoding decode0 with now := 20000000000 } : Dev).now ∧
    decode0.start + ({ decoding decode0 with now := 20000000000 } : Dev).rdp 0x3E01_06 * 1000000 ≤
      ({ decoding decode0 with now := 20000000000 } : Dev).now := by decide

/-- A plate set with an adaptation group, the batch unit started. -/
def adaptive (run : Nat) : Dev :=
  let groups := leBytes 8 (pairOf 1) ++ leBytes 32 (pairW 1 192 + 2 ^ 96 + 5 * 2 ^ 92 + 9 * 2 ^ 88 + 2 ^ 72)
  let set := { set0 with constant := groups }
  { dev 3 [(0x2001_01, 2 ^ 38), (0x2501_02, 3), (0x2504_01, 0), (0x3E10_01, pairOf 1), (0x3E12_02, run)] with
    plate := { PlateSt.init with areas := [(0, set)], groups := [(0, groupsIn set)] },
    batch := { BatchSt.init with queue := [⟨0, 1, [], false, true, 1, 0, [], [], [], [], 0⟩] } }

theorem test_witness_runs : (adaptive 0).passes .can 0x3E12_01 1 ∧ (adaptive 0).accessed.rd 0x3E12_02 = 0 ∧
    ((((adaptive 0).accessed.wr 0x3E12_01 1).wr 0x3E12_02 1).wr 0x3E12_03 0).failImport.rdp 0x3E10_01 ≠ 0 ∧
    ((((adaptive 0).accessed.wr 0x3E12_01 1).wr 0x3E12_02 1).wr 0x3E12_03 0).failImport.rdp 0x3E10_03 ≠ 0 ∧
    (adaptive 1).passes .can 0x3E12_01 0 ∧ (adaptive 1).accessed.rd 0x3E12_02 = 1 ∧
    (adaptive 1).accessed.formes.any (fun f => f.kind = 9 && f.group.isSome) = false ∧ (adaptive 1).rd 0x3E12_02 = 1 ∧
    (adaptive 1).building.isSome = true ∧ (adaptive 1).passes .can 0x3E12_04 1 := by decide

/-- The one sample's table entry stands at the head of the adaptation area. -/
def sampled : Dev :=
  { adaptive 1 with mem := memWrite [] (adaptive 1).adaptArea (leBytes 32 (pairW 0 192 + pairW 0 128 + pairW 0 64 + 2 ^ 30)) }

theorem test_witness_overBudget : sampled.passSkips (2 * sampled.rdp 0x3E10_01 + 1) = sampled ∧ sampled.building.isSome = true ∧
    sampled.rd 0x3E12_02 = 1 := by decide

/-- A structuring forme in its last frame. -/
def lastFrame : Forme := { Forme.blank 5 with id := 7, group := some 0, framesLeft := 1 }

theorem test_witness_commit : ({ press with formes := [lastFrame] } : Dev).forme? 7 = some lastFrame ∧ lastFrame.group.isSome = true ∧
    lastFrame.framesLeft ≤ 1 ∧ lastFrame.fault = 0 ∧ press.tagsDone lastFrame.id = true ∧
    (lastFrame.kind = 2 → lastFrame.ran = true) ∧ press.badBoxes lastFrame .plain = false := by decide

/-! ## Witnesses: the dictionary and the parameter store -/

theorem test_witness_values : (∀ i : Fin 2, (dev 2 []).passes .can (dkey 0x2403 (i.val + 1)) 0) ∧
    (1 : Fin 64).val ≠ 0 ∧ (dev 2 []).passes .can (dkey (0x2440 + (1 : Fin 64).val) 10) 1 ∧
    (dev 2 []).passes .can (dkey (0x2440 + (63 : Fin 64).val) 10) 1 ∧ (dev 2 []).passes .can 0x1003_00 0 ∧
    (dev 2 []).passes .can 0x4812_01 0x2201_01 := by decide

theorem test_witness_layoutSize : (dev 1 []).passes .can (dkey 0x4101 1) (pairOf 1024) := by decide

theorem test_witness_writes : (dev 2 []).run = .on ∧ (rowOf (dkey 0x2201 1)).isSome = true ∧
    (dev 2 []).serveCode .can (dkey 0x2201 1) [1] false = 0 ∧ (dev 2 []).serveCode .can (dkey 0x2201 1) [9] false ≠ 0 ∧
    State.reset.dev.run ≠ .on ∧ storesKey (dkey 0x2201 1) = false ∧ openKey (dkey 0x2201 1) = false ∧
    (rowOf (dkey 0x1010 1)).isSome = true ∧ storesKey (dkey 0x1010 1) = true ∧ openKey (dkey 0x1010 1) = false ∧
    (dev 2 []).serveCode .can (dkey 0x1010 1) (leBytes 4 0x6576_6173) false = 0 ∧ openKey (dkey 0x2503 1) = true ∧
    (rowOf (dkey 0x4406 2)).isSome = true := by decide

theorem test_witness_checks : rowOf (dkey 0x5FFF 1) = none ∧ indexExists 0x5FFF = false ∧ rowOf (dkey 0x2201 0x77) = none ∧
    indexExists 0x2201 = true ∧ (∃ r, rowOf 0x2001_01 = some r ∧ r.rw = false) ∧
    (∃ r, rowOf (dkey 0x4101 1) = some r ∧ r.rw = true ∧ lengthCode (dkey 0x4101 1) r 8 = 0 ∧ r.paired = true ∧
      pairOk 1024 = false ∧ pairOk (pairOf 1024) = true) ∧
    (∃ r, rowOf 0x4200_04 = some r ∧ r.rw = true ∧ r.paired = false ∧ lengthCode 0x4200_04 r 1 = 0 ∧
      ∃ k, (dev k []).stageOk r = false) := by
  refine ⟨by decide, by decide, by decide, by decide, ⟨_, rfl, by decide⟩, ⟨_, rfl, by decide⟩, ⟨_, rfl, by decide, by decide, by decide, 4, by decide⟩⟩

theorem test_witness_refused : (dev 2 []).run = .on ∧
    (dev 2 []).serveCode .can 0x2201_01 (valueBytes 0x2201_01 9) false ≠ 0 := by decide

def saving0 : Saving := ⟨.can, 0x1010_01, ⟨1, [], [], [], 0, true⟩⟩

theorem test_witness_store : (∀ i : Fin 4, (dev 2 []).passes .can (dkey 0x1010 (i.val + 1)) 0x6576_6173) ∧
    (∀ i : Fin 4, (dev 2 []).passes .can (dkey 0x1011 (i.val + 1)) 0x6461_6F6C) ∧ (dev 2 []).passes .can 0x4811_05 1 ∧
    ({ dev 2 [] with fw := { FwSt.init with compacting := true } } : Dev).fw.compacting = true ∧
    ({ dev 2 [] with fw := { FwSt.init with compacting := true } } : Dev).fw.saving = none ∧
    ({ dev 2 [] with fw := { FwSt.init with saving := some saving0 } } : Dev).fw.saving = some saving0 ∧ (dev 2 []).stage ≤ 3 := by
  decide

/-! ## Witnesses: the mailbox and the field buses -/

/-- A read of 2000h:01, request 1 (Table 16-10). -/
def request (cmd len : Nat) : Nat := pairW 1 448 + pairW len 384 + pairW 0 320 + cmd * 2 ^ 292 + 0x2000_01 * 2 ^ 296

theorem test_witness_mailbox : (pairedAt 0 448).2 = false ∧ (dev 2 []).run = .on ∧ (dev 2 []).host.perst = false ∧
    (pairedAt (request 1 1) 448).2 = true ∧ (pairedAt (request 1 1) 448).1 ≠ (dev 2 []).host.lastReq ∧
    requestCode (request 3 1) ≠ 0 ∧ requestCode (request 1 1) = 0 ∧ bits (request 1 1) 295 292 = 1 ∧
    requestCode (request 2 1) = 0 ∧ bits (request 2 1) 295 292 = 2 := by decide

/-- Operational on both buses, RxPDO and TxPDO 0 mapped on 2201h:01 and 2000h:01. -/
def operational : Dev :=
  { dev 2 [(0x2001_01, 2 ^ 28), (0x1C12_00, 1), (0x1C12_01, 0x1600), (0x1600_00, 1), (0x1600_01, 0x2201_0108), (0x1400_01, 0x201),
      (0x1800_01, 0x181), (0x1800_02, 254), (0x1800_05, 10), (0x1A00_00, 1), (0x1A00_01, 0x2000_0108)] with
    net := { NetSt.init with al := .op, nmt := 5 } }

theorem test_witness_pdo : operational.rxRuns .ecat = true ∧ operational.rxRuns .can = true ∧
    ((operational.mapped 0x1600).map mapSize).sum ≤ [2#8].length ∧
    operational.tickMoves (splitPdo (operational.mapped 0x1600) [2#8]) = false ∧ operational.canRuns = true ∧
    operational.run = .on ∧ (operational.net.al = .safeop ∨ operational.net.al = .op) ∧ operational.tpdoOn (0 : Fin 8).val = true ∧
    operational.rd (dkey (0x1800 + (0 : Fin 8).val) 2) = 254 ∧ operational.rd (dkey (0x1800 + (0 : Fin 8).val) 5) ≠ 0 ∧
    operational.inhibitOver (0 : Fin 8).val = true ∧
    operational.ecatCycle .freeRun = true ∧ operational.ecatCycle .sync0 = false := by decide

theorem test_witness_snapshot : ∃ d e : Dev, d ≠ e ∧ d.net.snapshot = e.net.snapshot ∧ ∀ n sub,
    d.rd (dkey (0x1A00 + n) sub) = e.rd (dkey (0x1A00 + n) sub) :=
  ⟨operational, { operational with now := 1 }, by decide, rfl, fun _ _ => rfl⟩

theorem test_witness_notOperational : (dev 2 []).net.nmt ≠ 5 ∧ (dev 2 []).net.al ≠ .op := by decide

def emcy0 : Emcy := ⟨0x0302, 2, 0⟩

theorem test_witness_buses : ({ dev 2 [] with net := { NetSt.init with emcyQueue := [emcy0] } } : Dev).net.emcyQueue = emcy0 :: [] ∧
    (dev 2 [(0x2001_01, 2 ^ 28)]).ready 28 = true ∧ (dev 2 [(0x1017_00, 100)]).rd 0x1017_00 ≠ 0 ∧ (dev 2 []).stage ≤ 3 ∧
    (dev 2 []).alAllowed .preop = true ∧ (dev 2 []).alAllowed .op = false ∧
    foeTarget [0x46#8, 0x57#8] = some 0x40 ∧ foeTarget [] = none ∧ dkey 0x4403 3 ≠ 0x4403_02 ∧ dkey 0x4403 3 ≠ 0x4410_01 := by
  decide

/-! ## Witnesses: the host -/

/-- Everything a job may need: bus mastering, readiness, a fount of one token in slot 0, a valid slug class. -/
def hosted (h : HostSt) : Dev :=
  { dev 3 [(0x4000_04, 1), (0x2001_01, 8 + 2 ^ 12 + 2 ^ 33 + 2 ^ 34 + 2 ^ 37 + 2 ^ 38), (0x4100_02, 1), (0x4100_03, 1),
      (fountKey 0 1, 2), (0x3C10_06, 1), (0x4050_0B, 1), (0x4050_01, pairOf 4096)] with
    host := h, text := { TextSt.init with founts := [(0, ⟨1, 0, 1, [[65]], []⟩)] } }

def read0 (tries : Nat) : HostRead := ⟨.ringWord 0, tries, 0⟩

theorem test_witness_reads : (hosted HostSt.init).busOn = true ∧ (∀ r ∈ (hosted HostSt.init).host.reads, r.what ≠ .ringWord 0) ∧
    (hosted { HostSt.init with reads := [read0 1] }).host.reads.find? (fun q => q.what = .ringWord 0) = some (read0 1) ∧
    (read0 1).tries < 2 ∧ 2 ≤ (read0 2).tries ∧
    (hosted { HostSt.init with reads := [read0 2] }).host.reads.find? (fun q => q.what = .ringWord 0) = some (read0 2) := by decide

theorem test_witness_hostInterface : MsixSrc.event ∈ ({ HostSt.init with heldMsgs := [.event] } : HostSt).heldMsgs ∧
    (hosted HostSt.init).passes .can (dkey (0x4030 + (0 : Fin 16).val) 11) 1 ∧
    (hosted HostSt.init).accessed.on? (dkey (0x4030 + (0 : Fin 16).val) 11) = false ∧
    (hosted HostSt.init).passes .can (dkey (0x4010 + (0 : Fin 16).val) 11) 1 ∧
    (hosted HostSt.init).accessed.on? (dkey (0x4010 + (0 : Fin 16).val) 11) = false ∧
    (({ hosted HostSt.init with chans := [(0, { ChanSt.init with fifo := [[1, 2]] })] } : Dev).chan 0).fifo = [1, 2] :: [] ∧
    [1#8, 2#8].length ≤ (hosted HostSt.init).passFree (0 : Fin 4).val ∧ (hosted HostSt.init).run ≠ .held ∧
    0 + 64 ≤ (hosted HostSt.init).ddrBytes ∧ (hosted HostSt.init).ddrBytes < 2 ^ 40 + 64 := by decide

/-- List 0 has fetched one entry. -/
def job (desc : Nat) : Dev := hosted { HostSt.init with lists := [(0, ⟨1, 0, [⟨0, desc, .fetched, none, 0⟩]⟩)] }

def entry (desc : Nat) : JobEntry := ⟨0, desc, .fetched, none, 0⟩

def imageDesc : Nat := 2 ^ 24
def tokenDesc : Nat := 2 * 2 ^ 24 + 48 * 2 ^ 192 + 2 ^ 384
def sampleDesc : Nat := 3 * 2 ^ 24 + 255 * 2 ^ 802
def templateDesc : Nat := 4 * 2 ^ 24
def importDesc : Nat := 4 * 2 ^ 24 + 2 ^ 881
def clearDesc : Nat := 4 * 2 ^ 24 + 2 ^ 880
def tableDesc : Nat := 5 * 2 ^ 24
def loadDesc : Nat := 6 * 2 ^ 24

theorem test_witness_jobImage : (job imageDesc).busOn = true ∧
    (job imageDesc).nextEntry 0 (fun w => jobKind w = 1) = some (entry imageDesc) ∧ bits imageDesc 223 192 = 0 ∧
    auxLen imageDesc = 0 ∧ bits imageDesc 809 806 = 0 ∧ (job imageDesc).ready 3 = true ∧ (job imageDesc).leavePending = false := by decide

theorem test_witness_jobText : (job tokenDesc).nextEntry 0 (fun w => jobKind w = 2) = some (entry tokenDesc) ∧
    (job tokenDesc).fountStatus (bits tokenDesc 895 893) = 0 ∧ 48 * descLen tokenDesc ≤ bits tokenDesc 223 192 ∧
    (job tokenDesc).ready 34 = true ∧ (job sampleDesc).nextEntry 0 (fun w => jobKind w = 3) = some (entry sampleDesc) ∧
    (job sampleDesc).fountStatus (bits sampleDesc 812 810) = 0 ∧ bits sampleDesc 809 802 = 255 ∧
    (job sampleDesc).rd 0x3E12_02 = 0 ∧ ((job sampleDesc).tokensOf (bits sampleDesc 812 810) []).1.length < 65536 ∧
    ((job sampleDesc).samplePlace (bits sampleDesc 831 816) (roundUp64 (descLen sampleDesc) +
      4 * ((job sampleDesc).tokensOf (bits sampleDesc 812 810) []).1.length)).isSome = true ∧ (job sampleDesc).ready 38 = true ∧
    (job sampleDesc).ddrReady = true := by decide

theorem test_witness_jobTemplates : (∀ x ∈ (job templateDesc).templateStatus templateDesc 1, x = 0) ∧
    (job templateDesc).nextEntry 0 (isTemplate false false) = some (entry templateDesc) ∧
    (∀ x ∈ (job importDesc).templateStatus importDesc 1, x = 0) ∧
    (job importDesc).nextEntry 0 (isTemplate false true) = some (entry importDesc) ∧
    (job clearDesc).nextEntry 0 (isTemplate true false) = some (entry clearDesc) ∧
    (job clearDesc).templateNamed (bits clearDesc 895 888) = false ∧ (job clearDesc).ready 33 = true ∧
    (job clearDesc).ready 37 = true := by decide

theorem test_witness_jobTables : (job tableDesc).nextEntry 0 (fun w => jobKind w = 5) = some (entry tableDesc) ∧
    (job tableDesc).slotInUse (bits tableDesc 895 892) = false ∧
    (∀ x ∈ tableEntries [], (job tableDesc).tableEntryStatus x = 0) ∧
    (job loadDesc).nextEntry 0 (fun w => jobKind w = 6) = some (entry loadDesc) ∧
    (job loadDesc).loadCheck (bits loadDesc 895 888) = 0 := by decide

/-- Text that gives no token, and text that gives one. -/
theorem test_witness_tokens : ((job tokenDesc).tokensOf (bits tokenDesc 895 893) (([] : List Byte).take (descLen tokenDesc))).1 = [] ∧
    ((job tokenDesc).tokensOf (bits tokenDesc 895 893) ([65#8].take (descLen tokenDesc))).1 ≠ [] := by decide

/-- With bus mastering on a job may name host memory; with it off one that does is refused, and one that does not is not. -/
theorem test_witness_busMastering : (job tokenDesc).run = .on ∧ (job tokenDesc).stage ≤ 3 ∧
    (job tokenDesc).on? 0x4000_04 = true ∧ ((job tokenDesc).wr 0x4000_04 0).on? 0x4000_04 = false ∧
    namesHost clearDesc = false ∧ ∀ k : Fin 2, ∀ w, w = (if k = 0 then imageDesc else loadDesc) + 2 ^ 384 →
      namesHost w = true ∧ ((job w).wr 0x4000_04 0).nextEntry 0 (fun v => jobKind v = (if k = 0 then 1 else 6)) = some (entry w) := by
  refine ⟨by decide, by decide, by decide, by decide, by decide, ?_⟩
  rintro k w rfl
  fin_cases k <;> decide

/-! ## Witnesses: the fabric -/

/-- A device at (0, 0) of a torus of 2 by 1, port 1 in a state. -/
def torus (stage state enable : Nat) : Dev :=
  dev stage [(0x4200_02, 2), (0x4200_03, 1), (0x4200_04, enable), (0x4201_01, 2), (0x4221_01, state), (0x4211_03, 0)]

theorem test_witness_ports : (torus 2 0 0).passes .can 0x4200_04 1 ∧ 2 ≤ ((torus 2 0 0).accessed.wr 0x4200_04 1).stage ∧
    (torus 1 0 0).passes .can 0x4200_04 1 ∧ ((torus 1 0 0).accessed.wr 0x4200_04 1).stage < 2 ∧
    (torus 2 1 1).portState (1 : Fin 4).val = 1 ∧ (torus 2 1 1).looped (0x40 + (1 : Fin 4).val) = false ∧
    (2 : Nat) = ((torus 2 1 1).wr (dkey (portIx 1) 2) 16).sizeX ∧ (1 : Nat) = ((torus 2 1 1).wr (dkey (portIx 1) 2) 16).sizeY ∧
    (3 : Fin 4).val = ((1 : Fin 4).val + 2) % 4 ∧ (16 : Nat) = ((torus 2 1 1).wr (dkey (portIx 1) 2) 16).neighbourAt 1 ∧
    (5 : Nat) ≠ ((torus 2 1 1).wr (dkey (portIx 1) 2) 16).sizeX ∧ (torus 2 3 1).portState (1 : Fin 4).val = 3 ∧
    (torus 2 3 1).on? 0x4200_04 = true ∧ bit ((torus 2 3 1).rd 0x4201_01) (1 : Fin 4).val = true ∧
    (torus 2 2 1).portState (1 : Fin 4).val = 2 := by decide

/-- A header to a device, of a type, with LINK_SEQ 0 (Table 19-2). -/
def header (dest ty : Nat) : Nat := dest * 2 ^ 120 + 16 * 2 ^ 112 + ty * 2 ^ 108

def grantW : Nat := pairW 1 448 + pairW 0 384 + pairW 0 320 + pairW 0 256

theorem test_witness_link : (torus 3 2 1).portState (1 : Fin 4).val = 2 ∧ (hdrOf (header 0 0)).ty = 0 ∧
    (hdrOf (header 0 0)).status ≠ 1 := by decide

theorem test_witness_forward : (hdrOf (header 16 1)).seq = (((torus 3 2 1).port (1 : Fin 4).val).lastRx + 1) % 4096 ∧
    (hdrOf (header 16 1)).ty ≠ 0 ∧ (hdrOf (header 16 1)).ty < 8 ∧ (hdrOf (header 16 1)).dest ≠ (torus 3 2 1).here ∧
    ((torus 3 2 1).numbered (1 : Fin 4).val ⟨header 16 1, []⟩).outPort (hdrOf (header 16 1)).dest = some 1 := by decide

theorem test_witness_inOrder : ∀ ty : Fin 7, (torus 3 2 1).inOrder (1 : Fin 4).val ⟨header 0 (ty.val + 1), []⟩ (ty.val + 1) := by
  decide

def outstanding0 (ty : Nat) : Outstanding := ⟨4, ty, 16, 0, 0, 1, 0, 0, 7, 1, 0, 0⟩

/-- A request of a type waits for its answer. -/
def asking (ty : Nat) : Dev :=
  { torus 3 2 1 with fabric := { FabricSt.init with outstanding := [outstanding0 ty] } }

theorem test_witness_answers :
    ((asking 1).arrived 1 ⟨header 0 2, []⟩).answered (hdrOf (header 0 2)) true = some (outstanding0 1) ∧
    ((asking 5).arrived 1 ⟨header 0 7, []⟩).answered (hdrOf (header 0 7)) false = some (outstanding0 5) ∧
    (asking 1).fabric.outstanding.find? (fun o => o.tag = 4) = some (outstanding0 1) ∧ (outstanding0 1).ty = 1 ∧
    (asking 5).fabric.outstanding.find? (fun o => o.tag = 4) = some (outstanding0 5) ∧ (outstanding0 5).ty = 5 ∧
    (asking 6).fabric.outstanding.find? (fun o => o.tag = 4) = some (outstanding0 6) ∧ (outstanding0 6).ty = 6 ∧
    ({ torus 3 2 1 with fabric := { FabricSt.init with adapterTag := some 9 } } : Dev).fabric.outstanding.find?
      (fun o => o.tag = 9) = none := by decide

/-- Template 0 is ready, with a prefix of 0 tokens. -/
def exporting : Dev := { torus 3 2 1 with mem := memWrite [] (templateAddr 0) (leBytes 64 (2 * 2 ^ 282)) }

theorem test_witness_grants : grantWordOk grantW = true ∧
    ((exporting.arrived 1 ⟨header 0 3, [grantW]⟩).bump 0x4210_03).grantMatches grantW = true := by decide

def imported : Dev :=
  { torus 3 2 1 with fabric := { FabricSt.init with windows := [(9, { Window.init with isOpen := true, grant := 2 ^ 384, template := 0 })] } }

theorem test_witness_deadline : (imported.window (9 : Fin 256).val).isOpen = true ∧
    (imported.window (9 : Fin 256).val).template ≠ 255 ∧ (imported.window (9 : Fin 256).val).full = false := by decide

theorem test_witness_adapter : (16 : Nat) < 256 ∧ (torus 3 2 1).passes .can 0x4211_01 16 ∧
    (((torus 3 2 1).accessed.wr 0x4211_01 16).wr 0x4211_02 1).outPort 16 = some 1 ∧ (torus 3 3 1).passes .can 0x4211_01 16 ∧
    (((torus 3 3 1).accessed.wr 0x4211_01 16).wr 0x4211_02 1).outPort 16 = none := by decide

/-! ## Witnesses: firmware, security, test -/

def load0 : Load := ⟨0x40, some .can, none, false, 0, none, none⟩

/-- A firmware container of version 1 with one segment (Table 20-1). -/
def firmware0 : ContainerIn :=
  ⟨pairW 1024 448 + pairW 1 384 + pairW 1 320 + 0x4741_4853 * 2 ^ 288 + 2 ^ 280 + 2 ^ 272, [pairW 512 448 + pairW 64 384 + 2 ^ 376], true, true, [],
    .firmware []⟩

/-- The part runs slot 0; a load may be under way, or a package may be being written to slot 1. -/
def updating (ls : List Load) (b : Option (Load × ContainerIn)) : Dev :=
  { dev 2 [] with fw := { FwSt.init with loads := ls, building := b } }

/-- The image in slot 0 is on trial. -/
def trying : Dev :=
  { dev 2 [] with fw := { FwSt.init with selfTest := true },
                  nv := { Nv.init with slot0 := ⟨2, some ⟨1, 4, 0, [], 0, []⟩⟩, boot0 := some ⟨7, 0, true, 1, true, false⟩ } }

/-- Slot 1 holds a valid image, or slot 0 does while slot 1 runs. -/
def valid (run : Nat) : Dev :=
  { dev 2 [] with fw := { FwSt.init with running := run },
                  nv := { Nv.init with slot0 := ⟨2, some ⟨1, 0, 0, [], 0, []⟩⟩, slot1 := ⟨2, some ⟨2, 0, 0, [], 0, []⟩⟩ } }

theorem test_witness_loads : (updating [load0] none).loadOf 0x40 = some load0 ∧ load0.manifest = none ∧
    ((loadManifestReceived 0x40 firmware0 (updating [load0] none)).loadOf 0x40).isSome = true ∧
    (updating [] (some (load0, firmware0))).fw.building = some (load0, firmware0) ∧
    (updating [] (some (load0, firmware0))).builtStatus true firmware0 = 0 ∧
    (updating [] (some (load0, firmware0))).builtStatus false firmware0 ≠ 0 := by decide

/-- COPY of 2 bytes from offset 1, LITERAL of 3, ZERO of 2 (Table 20-7): what they make; a COPY past the base and a reserved OP
are inconsistent. -/
theorem test_deltaStream :
    (let s := leBytes 16 (pairW 2 64 + 2 ^ 32) ++ leBytes 16 (pairW 3 64 + 2 ^ 30) ++ List.replicate 16 7#8 ++ leBytes 16 (pairW 2 64 + 2 ^ 31)
     deltaRun [1#8, 2#8, 3#8] 5 s = some [2#8, 3#8, 7#8, 7#8, 7#8, 0#8, 0#8] ∧ deltaRun [1#8, 2#8] 5 s = none ∧
       deltaOp 16 (pairW 1 64 + 3 * 2 ^ 30) = none) := by decide

theorem test_witness_trial : (∀ v : Fin 2, (valid (1 - v.val)).passes .can 0x4402_01 v.val) ∧ trying.passes .can 0x4402_02 1 ∧
    trying.onTrial = true ∧ trying.nv.record.gen + 1 < 2 ^ 32 ∧ trying.run = .on ∧ trying.fw.trialRaised = false := by decide

/-- Recovery, with 64 bytes of an image written. -/
def recovering : Dev := { dev 4 [] with fw := { FwSt.init with recoveryNext := 64 } }

theorem test_witness_recovery : recovering.run = .on ∧ recovering.stage = 4 ∧ recovering.fw.recoveryNext ≠ 0 ∧
    recovering.fw.recoveryNext + [1#8].length ≤ fwSlotBytes ∧ Path.can ≠ .ecat := by decide

/-- One owner key is programmed and scope bit 1 granted. -/
def owned : Dev :=
  { dev 2 [] with fw := { FwSt.init with grants := [(2, 1000)] }, nv := { Nv.init with ownerKeys := [(7, List.replicate 32 1)] } }

theorem test_witness_security : (dev 2 []).passes .can 0x4405_02 1 ∧ owned.fw.grants = (2, 1000) :: [] ∧ owned.passes .can 0x4406_05 1 ∧
    owned.run = .on ∧ (dev 2 []).serveCode .can 0x4407_09 (0 :: List.replicate 32 1) false = 0 ∧
    owned.serveCode .can 0x4407_09 (3 :: List.replicate 32 1) false = 0 ∧ owned.passes .can 0x4407_0A 7 := by decide

/-- The head word of a token for scope bit 0, signed with Plovant's key 0, for one second (Table 20-10). -/
def tokenWord (serial : Nat) : Nat := serial * 2 ^ 448 + 2 ^ 160 + 2 ^ 144

theorem tokenWord_lt (n : Nat) (h : n < 2 ^ 64) : tokenWord n < 256 ^ 64 := by
  rw [show (256 : Nat) ^ 64 = 2 ^ 448 * 2 ^ 64 by norm_num]
  unfold tokenWord
  omega

/-- The head of that token, and the token, with the signature of the key's holder. -/
def tokenHead : List Byte := leBytes 64 (tokenWord Config.serial.toNat)

def token0 : List Byte := tokenHead ++ Config.signature (Config.plovantKey 0) tokenHead

theorem signature_length (k m : List Byte) : (Config.signature k m).length = 64 := by
  rw [Config.signature, List.length_map, List.length_range]

theorem token0_head : token0.take 64 = tokenHead := List.take_left' (Laws.leBytes_length _ _)

theorem token0_word : ofLe (token0.take 64) = tokenWord Config.serial.toNat := by
  exact token0_head ▸ Laws.ofLe_leBytes 64 _ (tokenWord_lt _ Config.serial.isLt)

theorem tokenWord_bits (n : Nat) (h : n < 2 ^ 64) : bits (tokenWord n) 511 448 = n ∧ bits (tokenWord n) 447 192 = 0 ∧
    bits (tokenWord n) 191 160 = 1 ∧ bits (tokenWord n) 151 144 = 1 ∧ bits (tokenWord n) 143 0 = 0 ∧
    bits (tokenWord n) 159 152 = 0 := by
  unfold tokenWord bits
  refine ⟨?_, ?_, ?_, ?_, ?_, ?_⟩ <;> norm_num <;> omega

theorem token0_ok : (dev 2 []).tokenOk token0 true = true := by
  obtain ⟨h1, h2, h3, h4, h5, h6⟩ := tokenWord_bits _ Config.serial.isLt
  unfold Dev.tokenOk
  simp only [token0_word, h1, h2, h3, h4, h5, h6]
  decide

theorem token0_length : token0.length = 128 := by
  rw [token0, List.length_append, tokenHead, Laws.leBytes_length, signature_length]

/-- Its signature verifies with the key that SIGNER names. -/
theorem token0_signed (d : Dev) : d.tokenSigned token0 = true := by
  have hk : bits (ofLe (token0.take 64)) 159 152 = 0 := by
    rw [token0_word]
    exact (tokenWord_bits _ Config.serial.isLt).2.2.2.2.2
  have hs : (token0.drop 64).take 64 = Config.signature (Config.plovantKey 0) tokenHead := by
    rw [token0, List.drop_left' (show tokenHead.length = 64 from Laws.leBytes_length _ _), List.take_of_length_le (by rw [signature_length])]
  rw [Dev.tokenSigned, hk, hs, token0_head, Config.signedBy]
  simp [Dev.signerKey]

def tokenRow : EntryRow := ⟨0x4406, 1, 1, 2, 2, 15, 128, 9, 15, 0, 0, 0, []⟩

/-- A 128-byte token passes every check before that of its signature and contents. -/
theorem token_reaches (bs : List Byte) (h : bs.length = 128) (ht : (dev 2 []).tokenOk bs true = true) :
    (dev 2 []).serveCode .can 0x4406_02 bs true = 0 := by
  have hr : rowOf 0x4406_02 = some tokenRow := by decide
  have hl : lengthCode 0x4406_02 tokenRow 128 = 0 := by decide
  have h1 : (dev 2 []).stageOk tokenRow = true := by decide
  have h2 : (dev 2 []).functionOk 0x4406_02 tokenRow 0 = true := by decide
  have h3 : (dev 2 []).locked .can 0x4406_02 0 bs = false := by
    unfold Dev.locked
    rw [show (dev 2 []).loopLocks 0x4406_02 = false by decide, show (dev 2 []).lockNet .can 0x4406_02 = false by decide,
      show (dev 2 []).lockUnits 0x4406_02 0 = false by decide, show (dev 2 []).lockWork 0x4406_02 0 = false by decide,
      show (dev 2 []).lockHost 0x4406_02 0 = false by decide]
    rfl
  have h4 : (dev 2 []).rangeCode 0x4406_02 tokenRow 0 bs = 0 := rfl
  have h5 : (dev 2 []).consistencyCode .can 0x4406_02 0 bs true = 0 := by
    unfold Dev.consistencyCode
    rw [show (dev 2 []).consistent 0x4406_02 0 = true by decide, ht]
    rfl
  have h6 : (dev 2 []).domainBusy .can 0x4406_02 = false := by decide
  have hv : writtenValue tokenRow bs = 0 := rfl
  have hw : (dev 2 []).writeCode .can 0x4406_02 bs true = 0 := by
    unfold Dev.writeCode Dev.stateCode
    rw [hr]
    simp only [h, hl, hv, h1, h2, h3, h4, h5]
    rfl
  unfold Dev.serveCode
  rw [hw, h6]
  rfl

theorem test_witness_token : token0 = tokenHead ++ Config.signature (Config.plovantKey 0) tokenHead ∧ (dev 2 []).run = .on ∧
    (dev 2 []).serveCode .can 0x4406_02 token0 ((dev 2 []).tokenSigned token0) = 0 :=
  ⟨rfl, by decide, (token0_signed _).symm ▸ token_reaches _ token0_length token0_ok⟩

/-! ## Witnesses: test -/

/-- Lane registers of the worked example of a fabric port at depth 2, and the first bits of PRBS7 from register 1: its output
is bit 0 delayed by seven stages, and each later bit is the sum of those six and seven before it (Table 21-3). -/
theorem test_loopbackLanes : (List.range 4).map (lbRegister 3 1) = [1, 1, 3, 2] ∧
    ∀ i, i < 50 → (lbStream 1 16 1 0 57).getD (i + 7) false =
      ((lbStream 1 16 1 0 57).getD i false ^^ (lbStream 1 16 1 0 57).getD (i + 1) false) := by decide

def loop0 : Loop := ⟨0, 1, false, 0, [0xA5A5_A5A5], 0⟩

/-- A loopback engine runs. -/
def looping : Dev := { dev 2 [] with test := { TestSt.init with loops := [(0, loop0)] } }

/-- 64 bits of its lane that are the generator's, from its bit 3 on, and 64 that are not. -/
theorem test_witness_locks : looping.locksOn loop0 ⟨0, [(3, lbStream 0 16 0xA5A5_A5A5 3 64)]⟩ = true ∧
    looping.locksOn loop0 ⟨0, [(3, List.replicate 64 false)]⟩ = false ∧ loop0.locked = false := by decide

theorem test_witness_test : (∀ e : Fin 4, (dev 2 [(lbKey e.val 2, 1)]).passes .can (dkey (0x4610 + e.val) 6) 1) ∧
    looping.passes .can (dkey (0x4610 + (0 : Fin 4).val) 6) 0 ∧ looping.loopOf (0 : Fin 4).val = some loop0 ∧
    (63 : Nat) < 64 ∧ (dev 2 []).passes .can 0x4600_01 63 ∧ (({ owned with fw := { FwSt.init with grants := [(1, 9)] } } : Dev).setIr 0x80).scopeOn 0 = true ∧
    ((dev 2 []).setIr 0x80).scopeOn 0 = false := by decide

/-! ## Well-formedness: one ill-formed term for each check, and the greatest operands that pass -/

/-- Commands that differ from a well-formed one in one operand that does not fit: the sequencer. -/
def illCore : List Instr :=
  [.endOp ⟨0, 2 ^ 23, 3⟩, .swap ⟨0, 10, 65536⟩, .loopBegin at0 0 (2 ^ 23) 7, .waitCycle at0 (2 ^ 23),
   .expectFill at0 5 65536, .expectDrain at0 5 65536, .filled at0 5 65536, .drained at0 5 65536]

theorem test_ill_formed_core : illCore.all (fun i => !i.wellFormed) = true := by decide

/-- Commands that differ from a well-formed one in one operand that does not fit: the matrix and vector engines. -/
def illEngine : List Instr :=
  [.mac at0 0 5 0 .tap, .mac at0 0 4 0 (.galley (2 ^ 21)), .macInit at0 0 5 0 .tap, .loadTile at0 5 0 0,
   .loadTile at0 1 0 (2 ^ 21), .loadScale at0 (2 ^ 21), .mseRange at0 0 0 0 6 true true false 0,
   .mseError at0 0 0 0 6 true true false 0, .vectorLoad at0 0 (2 ^ 21), .vectorStore at0 0 (2 ^ 21)]

theorem test_ill_formed_engine : illEngine.all (fun i => !i.wellFormed) = true := by decide

/-- Commands that differ from a well-formed one in one operand that does not fit: stores and the window engine. -/
def illWindow : List Instr :=
  [.storeConvert at0 0 (2 ^ 21) 0 0 0#32, .lineLoad at0 0 0 (2 ^ 21), .shift at0 0 3 1, .shift at0 16 3 1,
   .shift at0 3 16 1, .shift at0 3 3 0, .shift at0 3 3 5, .poolMax at0 15 0 3 3 1 0, .poolMax at0 0 15 3 3 1 0,
   .poolAvg at0 0 0 3 3 4 0, .poolAvg at0 0 0 3 0 1 0]

theorem test_ill_formed_window : illWindow.all (fun i => !i.wellFormed) = true := by decide

/-- Commands that differ from a well-formed one in one operand that does not fit: the data engine. -/
def illTransfer : List Instr :=
  [.galleyCopy at0 2 0, .galleyFill at0 (2 ^ 21) 0, .ddrRead at0 1 0, .ddrWrite at0 3 0, .slugWalkGather at0 5 0,
   .slugWalkAppend at0 6 0, .slugWalkSealRead at0 7 0, .slugWalkSealWrite at0 9 0, .remoteWrite at0 10 0,
   .loadStreamScaleTable at0 11 0, .supplyDroop 0 65536]

theorem test_ill_formed_transfer : illTransfer.all (fun i => !i.wellFormed) = true := by decide

/-- Commands that differ from a well-formed one in one operand that does not fit: frames, power and the dictionary. -/
def illSystem : List Instr :=
  [.frameStart ⟨[]⟩, .pmbusPoll [] ⟨[]⟩, .ddrLayoutSizeWrite .can 256 0#64, .coreCounterClear .can 256 1,
   .freqRequest .can (2 ^ 64), .publish .can (2 ^ 64), .clearSafe .can 0 (2 ^ 64), .dictionaryWrite .can 65536 1 [],
   .dictionaryWrite .can 0x2000 256 [], .sdoTransferTimeout .can 65536 1]

theorem test_ill_formed_system : illSystem.all (fun i => !i.wellFormed) = true := by decide

/-- Commands that differ from a well-formed one in one operand that does not fit: the host and the fabric. -/
def illHost : List Instr :=
  [.mailboxRead (2 ^ 512), .mailboxWrite (2 ^ 512) [],
   .rxpdoReceived .can (List.replicate 65 0#8), .jobRequests 0 [1#8], .pcieLinkChange true 6 16,
   .pcieLinkChange true 5 17, .fabricPortAligned 0 256 16 16 2, .fabricPortAligned 0 1 17 16 2,
   .fabricPacketForward 0 ⟨2 ^ 128, []⟩, .fabricPacketForward 0 ⟨0, [2 ^ 512]⟩]

theorem test_ill_formed_host : illHost.all (fun i => !i.wellFormed) = true := by decide

theorem test_ill_formed_mailbox (bs : List Byte) (h : bs.length = 4097) : (Instr.mailboxWrite 0 bs).wellFormed = false := by
  have h' : decide (bs.length ≤ 4096) = false := decide_eq_false (by omega)
  rw [Instr.wellFormed, h', Bool.and_false]

/-- Commands whose operands are at the edge of their fields. -/
def wellFormedEdge : List Instr :=
  [.endOp ⟨95, 2 ^ 23 - 1, 65535⟩, .loopBegin at0 3 (2 ^ 23 - 1) 7, .expectFill at0 511 65535,
   .mac at0 31 4 31 (.galley (2 ^ 21 - 1)), .mseRange at0 0 0 0 5 true true true 63, .shift at0 1 15 4,
   .poolMax at0 14 14 15 1 3 31, .poolAvg at0 0 0 3 3 0 0, .ddrRead at0 (2 ^ 21 - 4) 127, .supplyDroop 0 65535,
   .frameStart ⟨List.replicate 8 (some 0)⟩, .dictionaryWrite .can 65535 255 [],
   .mailboxWrite (2 ^ 512 - 1) [], .pcieLinkChange true 5 16, .fabricPortAligned 0 255 16 16 2,
   .fabricPacketForward 0 ⟨2 ^ 128 - 1, [2 ^ 512 - 1]⟩]

theorem test_edges_well_formed : wellFormedEdge.all Instr.wellFormed = true := by decide

/-! ## The table gives no row a bit pattern: no word spells a command -/

theorem test_no_word_decodes : decodeTableWord 32 0 = none := rfl

theorem test_no_word_is_queued : State.reset.withFetchWord 32 0 = State.reset := rfl

/-! ## Worked examples of the spec -/

/-- A paired word of 300 in address order, and one with a bit flipped, refused (R2). -/
theorem test_pair : leBytes 8 (pairOf 300) = [0x2C#8, 1#8, 0#8, 0#8, 0xD3#8, 0xFE#8, 0xFF#8, 0xFF#8] ∧
    pairOk (pairOf 300) = true ∧ pairOk (pairOf 300 + 2) = false := by decide

/-- 1.171875 into FP8 E4M3, in the three rounding modes (section 4, the stochastic store). -/
theorem test_convert_e4m3 : convertCode 2 0x3F960000#32 .nearest = 0x39 ∧ convertCode 2 0x3F960000#32 .zero = 0x39 ∧
    convertCode 2 0x3F960000#32 (.stochastic 0x3A7F) = 0x3A ∧
    convertCode 2 0x3F960000#32 (.stochastic 0x6000) = 0x39 := by decide

/-- 2.875, -1.3125, 0.25, 0.75 and 28 zeros (section 4, Table 4-7). -/
def int4Group : List F32 := [0x40380000#32, 0xBFA80000#32, 0x3E800000#32, 0x3F400000#32] ++ List.replicate 28 0#32

def int4Opt : MseOpt := ⟨true, true, false, 3⟩

/-- Range mode gives MAXABS 2.875 and SCALE -1. -/
theorem test_mse_range : (mseRangeSeg 5 int4Opt int4Group []).getD 0 0#32 = 0x40380000#32 ∧
    (mseRangeSeg 5 int4Opt int4Group []).getD 4 0#32 = 0xBF800000#32 := by decide

/-- Error mode, from that range: SSE 0.17578125, SUMSQ 10.61328125, no saturation, one group, not a zero group. -/
theorem test_mse_error : ((mseErrorSeg 5 5 int4Opt int4Group (mseRangeSeg 5 int4Opt int4Group [])).drop 6).take 5 =
    [0x3E340000#32, 0x4129D000#32, 0#32, 0x3F800000#32, 0#32] := by decide

/-- The unified bank and row of a die offset (section 5). -/
theorem test_bank : unifiedBank 0x345640 = (50, 555) := by decide

/-- Shading and drift (section 7, worked example). -/
theorem test_shade : spanOf16 19252 423687 29789 = 735334 ∧ gainK 735334 1 61440 = 1401801 ∧
    shadeY (shadeX 42017 19252) 1401801 = 54562 ∧ driftFactor 2162688 2151936 = 32932 ∧
    shadeV 54562 32932 = 54835 := by decide

/-- The rotation of 1.15 degrees (section 9, worked example). -/
theorem test_rotation : cosQ 115 = 1073525549 ∧ sinQ 115 = 21549933 := by decide +kernel

/-- U+FFFD emitted by a stream of bytes, and characters (Table 12-4). -/
def counted (bs : List Nat) : Nat × Nat :=
  let cs := utf8Stream [] (bs.map (BitVec.ofNat 8))
  ((cs.filter (·.replaced)).length, cs.length)

theorem test_utf8 : counted [0xE2, 0x82, 0xAC] = (0, 1) ∧ counted [0xE2, 0x82, 0x41] = (1, 2) ∧
    counted [0xF0, 0x80, 0x80, 0x41] = (3, 4) ∧ counted [0xED, 0xA0, 0x80] = (3, 3) ∧ counted [0xC3] = (1, 1) := by decide

/-- The mailbox header that writes JAM_TOL (section 16, worked example): bytes 36 to 63. -/
def jamTolHeader : Nat := ofLe (List.replicate 36 0#8 ++
  ([0x28, 2, 2, 0x34, 0, 0, 0, 0, 0xFF, 0xFF, 0xFF, 0xFF, 8, 0, 0, 0, 0xF7, 0xFF, 0xFF, 0xFF,
    0x2A, 0, 0, 0, 0xD5, 0xFF, 0xFF, 0xFF]).map (BitVec.ofNat 8))

theorem test_mailbox_header : reqKey jamTolHeader = 0x3402_02 ∧ reqLength jamTolHeader = 8 := by decide

/-- A group that runs over the end of a ring of 1 MiB (section 17, worked example), of four bytes here. -/
theorem test_ring_wrap : ringWrites 0x1000_0000 0x10_0000 0x3A6F_FFFE [1#8, 2#8, 3#8, 4#8] =
    [.hostWrite 0x100F_FFFE [1#8, 2#8], .hostWrite 0x1000_0000 [3#8, 4#8]] := by decide

/-- The channel of offset 5_4401_A5C0h with eight channels in service (section 18, worked example). -/
theorem test_channel : (dev 2 [(0x4100_02, 255)]).ddrChannel (ddrBase + 0x5_4401_A5C0) = 1 := by decide

/-- The update of one element at step 1 (section 13, worked example). -/
theorem test_update : (updateElem ⟨0x3B800000#32, 0x3F600000#32, 0x3F700000#32, 0x3E000000#32, 0x3D800000#32, 0x35800000#32⟩
    0x3F000000#32 0#32 0#32 0x3F800000#32) = (0x3D800000#32, 0x3E000000#32, 0x3F7F8000#32) := by decide

/-- A column of the torus of 16 by 16 is reached the short way round (section 19, worked example). -/
theorem test_route : (dev 2 [(0x4200_01, 0xC2), (0x4200_02, 16), (0x4200_03, 16)]).routePort 0x3E = some 1 ∧
    (dev 2 [(0x4200_01, 0x3E), (0x4200_02, 16), (0x4200_03, 16)]).routePort 0xC2 = some 3 := by decide

/-- The write of JAM_TOL = 96 in Proof, and the same request in Press, which leaves it (section 16, worked example). -/
theorem test_jam_tol :
    (mailboxServe jamTolHeader (leBytes 8 (pairOf 96)) (dev 2 [(0x4000_04, 1)])).rdp 0x3402_02 = 96 ∧
    (mailboxServe jamTolHeader (leBytes 8 (pairOf 96)) (dev 3 [(0x4000_04, 1), (0x3402_02, pairOf 40)])).rdp 0x3402_02 = 40 := by decide

/-- The measurement record of a decoded picture, read by the fields of Table 7-6. -/
theorem test_image_record :
    ([(607, 592), (623, 608), (639, 624), (655, 640), (799, 768), (863, 832), (959, 896), (1023, 960), (509, 509),
      (513, 512)].map fun (b : Nat × Nat) => bits (ofLe (Pic.measurement ⟨3, 2, 3, false, []⟩ (-5) 7 11 13)) b.1 b.2) =
      [3, 2, 0, 65531, 2, 7, 11, 13, 0, 3] := by decide

end Sys2Proof.Tests
end

