-- ==== Sys2Proof/Proofs/Sequencer.lean ====
section
/-! The sequencer of a compute core (R46, R59 to R61): what each of its operations does when it issues, what a slot start
does, and the statements assembled from these. -/

namespace Sys2Proof.Proofs

open Sys2Proof Sys2Proof.Machine Sys2Proof.Laws

/-! ## Operations that issue -/

/-- An operation that issues answers the next state with its effect on the core as it finds it. -/
theorem updAt_issue {s : State} {a : At} {d : Dev} {x : CoreSt} (f : Dev → CoreSt → Dev) (h : s.issues a d x) :
    s.updAt a (fun e => e.issue a f) = s.after (f d x) := by
  rw [updAt_of _ h, issue_of f h]

section Issued

variable {s : State} {a : At} {d : Dev} {x : CoreSt}

theorem exec_loopBegin_zero (level : Fin 4) (e : Nat) (h : s.issues a d x) :
    exec (.loopBegin a level 0 e) s = s.withCore d a { x with bundle := e + 1 } :=
  updAt_issue _ h

theorem exec_loopBegin_pos (level : Fin 4) {n : Nat} (e : Nat) (h : s.issues a d x) (hn : n ≠ 0) :
    exec (.loopBegin a level n e) s =
      s.withCore d a { x with loops := kvInsert x.loops level.val ⟨n, a.bundle + 1⟩, bundle := a.bundle + 1 } :=
  (updAt_issue _ h).trans (by rw [if_neg hn, State.withCore])

/-- LOOP_END with passes to go: one fewer is left, and issue goes back to the body's start. -/
theorem exec_loopEnd_again {level : Fin 4} {n b : Nat} (h : s.issues a d x)
    (hl : kvGet ⟨0, 0⟩ x.loops level.val = ⟨n, b⟩) (hn : 1 < n) :
    exec (.loopEnd a level) s = s.withCore d a { x with loops := kvInsert x.loops level.val ⟨n - 1, b⟩, bundle := b } :=
  (updAt_issue _ h).trans (by simp only [hl, if_pos hn, State.withCore])

/-- LOOP_END in the last pass: the loop is over. -/
theorem exec_loopEnd_last {level : Fin 4} {n b : Nat} (h : s.issues a d x)
    (hl : kvGet ⟨0, 0⟩ x.loops level.val = ⟨n, b⟩) (hn : n ≤ 1) :
    exec (.loopEnd a level) s = s.withCore d a { x with loops := kvErase x.loops level.val, bundle := a.bundle + 1 } :=
  (updAt_issue _ h).trans (by simp only [hl, if_neg (Nat.not_lt.mpr hn), State.withCore])

theorem exec_endOp {y : CoreSt} (h : s.issues a d x) (hy : x.flush = (y, 0)) :
    exec (.endOp a) s = s.withCore d a { x with ended := true } :=
  (updAt_issue _ h).trans (by simp only [hy, if_true, State.withCore])

/-- A replay point keeps the mark of a detection only where a replay begins at it. -/
theorem exec_replayPoint (h : s.issues a d x) :
    exec (.replayPoint a) s = s.withCore d a { x with
      replayLoops := x.loops, replayBundle := a.bundle,
      detected := x.detected && (x.replaying && a.bundle = x.replayBundle), replaying := false } :=
  updAt_issue _ h

end Issued

/-- WAIT_CYCLE finds what the core's data engine has done by the cycle it waits for. -/
theorem exec_waitCycle {s : State} {a : At} {count : Nat} {d : Dev} {x y : CoreSt} (hs : (s.dev.core a.core).ended = false)
    (he : s.dev.engineTo a.core (max a.cycle count) = d) (hd : (d.core a.core).ended = false) (hr : d.reaches a x)
    (hy : (x.catchUp d.word count).until_ count = (y, 0)) :
    exec (.waitCycle a count) s = s.withCore d a { y with cycle := max a.cycle count, bundle := a.bundle + 1 } := by
  show s.after (waitUntil a count s.dev) = _
  have hw : waitUntil a count s.dev = waitCycle a count d := by simp [waitUntil, hs, he]
  rw [hw, waitCycle, Dev.issue, if_neg (by simp [hd]), reach_of _ hr]
  simp only [hy, if_true, State.withCore]

/-! ## The slot start -/

/-- A slot of the list that starts in Press: what ran before it ends, its header is read, its background work is done. -/
theorem exec_slotStart {s : State} {c : Fin 96} {n : Nat} {e : SlotEntry} (scrub : ScrubIn) (hp : s.dev.inPress = true)
    (he : (s.dev.slotList c.val)[n]? = some e) :
    exec (.slotStart c n scrub) s = s.after (((s.dev.endSlot c).headerStart c e n).slotWork c.val e scrub) := by
  show s.after (slotStart c n scrub s.dev) = _
  simp [slotStart, he, hp]

theorem endSlot_unended {d : Dev} {c : Fin 96} (hr : (d.core c).running = true) (he : (d.core c).ended = false) :
    d.endSlot c = (d.stopCore c (d.core c) 0x0302).idleCore c := by
  simp [Dev.endSlot, hr, he]

/-! ## The statements -/

/-- Settles O5: LOOP_BEGIN by whether COUNT is 0, LOOP_END by whether more than one pass is left. -/
theorem loopsRun : Obligations.LoopsRun := by
  intro s a d x level h
  refine ⟨fun e => exec_loopBegin_zero level e h, fun n e hn => exec_loopBegin_pos level e h hn, ?_, ?_⟩
  · intro n b hl
    exact exec_loopEnd_again h hl (by omega)
  · intro n b hl hn
    exact exec_loopEnd_last h hl hn

/-- Settles O6, one operation at a time: END, the replay point outside and inside a replay, WAIT_CYCLE, and the slot start
that finds a core without its END. -/
theorem sequencerMoves : Obligations.SequencerMoves := by
  intro s
  refine ⟨fun a d x h => ⟨fun y hy => exec_endOp h hy, ?_, ?_⟩, ?_, ?_⟩
  · intro hr
    simp [exec_replayPoint h, hr]
  · intro hr hb
    simp [exec_replayPoint h, hr, hb]
  · intro a count d x y hs he hd hr hy
    exact exec_waitCycle hs he hd hr hy
  · intro c n e scrub hp he hr hn
    rw [exec_slotStart scrub hp he, endSlot_unended hr hn]

end Sys2Proof.Proofs
end

