-- ==== Sys2Proof/Proofs/Window.lean ====
section
/-! The window engine of a compute core (R55, R198 to R202): what each of its operations does when it issues, and what SHIFT
leaves in each position. -/

namespace Sys2Proof.Proofs

open Sys2Proof Sys2Proof.Machine Sys2Proof.Laws

/-! ## Operations that issue -/

section Issued

variable {s : State} {a : At} {d : Dev} {x : CoreSt}

/-- An operation that only puts a result in flight: nothing else of its core changes. -/
theorem updAt_issue_land (c : Nat) (act : CoreSt → CoreAct) (h : s.issues a d x) :
    s.updAt a (fun e => e.issue a (fun e y => e.land a y c (act y))) = s.withCore d a (x.flying c (act x)) := by
  rw [updAt_issue _ h, land_of _ _ (bundle_of h), State.withCore]

/-- LINE_LOAD where no unexpected epoch stands on its word: the word as it stands at issue lands L cycles on. -/
theorem exec_lineLoad (y c : Fin 15) {addr : Nat} (h : s.reads a addr 64 d x) :
    exec (.lineLoad a y c addr) s = s.withCore d a
      (x.flying (a.cycle + d.landing) (.winWord y.val c.val (d.word (galleyAddr a.core addr)))) := by
  show s.updAt a (lineLoadOp a y.val c.val addr) = _
  rw [updAt_of _ h.1, lineLoadOp, read_of _ h, land_of _ _ (bundle_of h.1), State.withCore]

theorem exec_shift (i j n : Nat) (h : s.issues a d x) :
    exec (.shift a i j n) s = s.withCore d a (x.flying a.cycle (.shift i j n)) :=
  updAt_issue_land a.cycle (fun _ => .shift i j n) h

/-- EMIT_TAP reads its position as the core's window stands at issue (R199, R200). -/
theorem exec_emitTap (y c : Fin 15) (row : Fin 32) (init : Bool) (h : s.issues a d x) :
    exec (.emitTap a y c row init) s = s.withCore d a
      (x.flying (a.cycle + 2) (.mulRow row.val init 0 0 (kvGet 0 x.window (16 * y.val + c.val)))) :=
  updAt_issue_land (a.cycle + 2) (fun x => .mulRow row.val init 0 0 (kvGet 0 x.window (16 * y.val + c.val))) h

/-- A pooling operation, whatever it reduces by (R55, R202). -/
theorem updAt_poolOp (f : List F32 → F32) (y c i j dil : Nat) (vd : Fin 32) (h : s.issues a d x) :
    s.updAt a (poolOp f a y c i j dil vd.val) =
      s.result d a x (poolLatency i j) vd (poolLanes f x.window y c i j dil) := by
  rw [updAt_of _ h]
  exact vecOp_of _ h

end Issued

/-! ## SHIFT, position by position (R201) -/

/-- Writes to n keys in a row: each of them reads as written, every other one as before. -/
theorem kvGet_foldl_put_range (m : Kv Nat) (b n : Nat) (v : Nat → Nat) (k : Nat) :
    kvGet 0 ((List.range n).foldl (fun acc i => kvPut 0 acc (b + i) (v i)) m) k =
      if b ≤ k ∧ k < b + n then v (k - b) else kvGet 0 m k := by
  induction n with
  | zero => simp [show ¬ (b ≤ k ∧ k < b) by omega]
  | succ n ih =>
    rw [List.range_succ, List.foldl_append, List.foldl_cons, List.foldl_nil]
    by_cases hk : k = b + n
    · subst hk
      simp [kvGet_put_same]
    · rw [kvGet_put_other _ _ _ _ hk, ih]
      exact if_congr (by omega) rfl rfl

/-- The same in rows 16 keys apart: none of them is so long that it writes into another. -/
theorem kvGet_foldl_put_rows (m : Kv Nat) (h n : Nat) (v : Nat → Nat → Nat) {y c : Nat} (hn : n ≤ 16) (hc : c < 16) :
    kvGet 0 ((List.range h).foldl (fun acc y =>
        (List.range n).foldl (fun acc i => kvPut 0 acc (16 * y + i) (v y i)) acc) m) (16 * y + c) =
      if y < h ∧ c < n then v y c else kvGet 0 m (16 * y + c) := by
  induction h with
  | zero => simp
  | succ h ih =>
    rw [List.range_succ, List.foldl_append, List.foldl_cons, List.foldl_nil, kvGet_foldl_put_range, ih]
    by_cases hy : y = h
    · subst hy
      simp
    · rw [if_neg (by omega)]
      exact if_congr (by omega) rfl rfl

theorem kvGet_shiftWindow (h n : Nat) {w y c : Nat} (win : Kv Nat) (hw : w ≤ 15) (hc : c < 15) :
    kvGet 0 (shiftWindow h w n win) (16 * y + c) =
      if y < h ∧ c + n < w then kvGet 0 win (16 * y + c + n) else kvGet 0 win (16 * y + c) := by
  rw [shiftWindow, kvGet_foldl_put_rows win h (w - n) (fun y i => kvGet 0 win (16 * y + i + n)) (by omega) (by omega)]
  exact if_congr (by omega) rfl rfl

/-! ## The statement -/

/-- Settles O18, one operation at a time: LINE_LOAD, SHIFT as it issues and as it takes effect, EMIT_TAP, and the two pooling
operations. That EMIT_TAP puts the product in flight and that pooling counts its NaN and infinite lanes when it issues are the
model's choices (log entries 10 and 126). -/
theorem windowOperations : Obligations.WindowOperations := by
  intro s a d x h
  refine ⟨?_, fun i j n => exec_shift i j n h, ?_, fun y c row init => exec_emitTap y c row init h, ?_⟩
  · intro y c addr hu
    exact exec_lineLoad y c ⟨h, hu⟩
  · intro _ _ i j n y c _ hj _ hc
    exact kvGet_shiftWindow i n x.window hj hc
  · intro y c i j dil vd
    exact ⟨updAt_poolOp poolMaxLane y c i j dil vd h, updAt_poolOp poolAvgLane y c i j dil vd h⟩

end Sys2Proof.Proofs
end

