-- ==== Sys2Proof/Proofs/ResetRelease.lean ====
section
/-! Reset release (R304, R422) and the boot ROM's decision (R398): what the part does by the TMODE it samples, and what a
boot that names a slot leaves behind. -/

namespace Sys2Proof.Proofs

open Sys2Proof Sys2Proof.Machine Sys2Proof.Laws

/-! ## What the boot ROM does -/

@[simp] theorem drawChallenge_now (d : Dev) : d.drawChallenge.now = d.now := by simp only [Dev.drawChallenge]

/-- A boot that names a slot goes on to Chase with that slot's image. -/
theorem boot_of_slot {d : Dev} {k : Nat} (h : ((d.nv.cutShort 0).cutShort 1).decide.2.2 = some k) :
    d.boot.run = .booting ∧ d.boot.now = d.now ∧ d.boot.fw.running = k := by
  simp [Dev.boot, h]

/-! ## RESET_RELEASE by the TMODE it samples -/

section Held

variable {s : State} {m : BitVec 2}

/-- TMODE other than 00b: device time starts, and the part keeps the reset state it is in. -/
theorem exec_resetRelease_test (hr : s.dev.run = .held) (hm : m ≠ 0) :
    exec (.resetRelease m) s =
      .next { s with dev := { s.dev with now := 0, start := { s.dev.start with tmode := m.toNat } } } := by
  have hn : m.toNat ≠ 0 := fun h => hm (BitVec.eq_of_toNat_eq h)
  show s.updNv (resetRelease m.toNat) = _
  rw [updNv_eq, resetRelease, if_neg (not_not.mpr hr), if_neg hn]

/-- TMODE 00b: device time starts, and the boot ROM decides. -/
theorem exec_resetRelease_boot (hr : s.dev.run = .held) :
    exec (.resetRelease 0) s =
      .next { s with dev := Dev.boot { s.dev with now := 0, start := { s.dev.start with tmode := 0 } } } := by
  show s.updNv (resetRelease 0) = _
  rw [updNv_eq, resetRelease, if_neg (not_not.mpr hr), if_pos rfl]

end Held

/-! ## The statement -/

/-- Settles O25, by the TMODE sampled; the last clause is what the boot ROM does from the state that 00b gives it. -/
theorem releaseBoots : Obligations.ReleaseBoots := by
  intro s m hr
  refine ⟨exec_resetRelease_test hr, exec_resetRelease_boot hr, ?_⟩
  intro t k hk ht
  rw [exec_resetRelease_boot hr] at ht
  obtain rfl := Host.Outcome.next.inj ht
  exact boot_of_slot hk

end Sys2Proof.Proofs
end

