-- ==== Sys2Proof/Proofs/Flash.lean ====
section
/-! What only burns (R327 to R329, R397 to R405, R409): the order in which flash and fuses move, one lemma for each operation
that writes them, and that every command keeps to it. -/

namespace Sys2Proof.Proofs

open Sys2Proof Sys2Proof.Machine Sys2Proof.Laws

/-! ## What only burns: a preorder, and the part of `Nv` that it speaks of -/

/-- The security version, the revoked keys and the owner keys: all that `Nv.burnt` compares. -/
def fuses (n : Nv) : Nat × Nat × Kv (List Byte) × Nat := (n.minSv, n.plovantRevoked, n.ownerKeys, n.ownerRevoked)

theorem burnt_refl (n : Nv) : n.burnt n := ⟨Nat.le_refl _, rfl, fun _ h => h, fun _ _ => rfl⟩

theorem burnt_trans {a b c : Nv} (hab : a.burnt b) (hbc : b.burnt c) : a.burnt c := by
  obtain ⟨hv, hp, hr, hk⟩ := hab
  obtain ⟨hv', hp', hr', hk'⟩ := hbc
  refine ⟨hv.trans hv', hp.trans hp', fun i h => hr' i (hr i h), fun k h => ?_⟩
  have hb := hk k h
  exact (hk' k (by rwa [hb])).trans hb

theorem burnt_of_fuses {a b : Nv} (h : fuses b = fuses a) : a.burnt b := by
  simp only [fuses, Prod.mk.injEq] at h
  obtain ⟨hv, hp, hk, hr⟩ := h
  exact ⟨hv.ge, hp.symm, fun i hi => hr ▸ hi, fun k _ => by rw [hk]⟩

theorem burnt_from {d e : Dev} {n : Nv} (h : e.nv.burnt n) (he : e.nv = d.nv) : d.nv.burnt n := he ▸ h

theorem burnt_of_nv {a b : Nv} (h : b = a) : a.burnt b := h ▸ burnt_refl a

/-! ## Flash that holds no fuse -/

@[simp] theorem fuses_setSlot (n : Nv) (k : Nat) (x : FwSlot) : fuses (n.setSlot k x) = fuses n := by
  unfold Nv.setSlot
  split <;> rfl

@[simp] theorem fuses_write (n : Nv) (r : BootRec) : fuses (n.write r) = fuses n := by
  unfold Nv.write
  dsimp only
  split
  · rfl
  · rfl
  · split <;> rfl

@[simp] theorem fuses_reject (n : Nv) (k : Nat) : fuses (n.reject k) = fuses n := fuses_setSlot n k _

@[simp] theorem fuses_cutShort (n : Nv) (k : Nat) : fuses (n.cutShort k) = fuses n := by
  unfold Nv.cutShort
  split
  · exact fuses_setSlot n k _
  · rfl

/-- The boot record as the ROM leaves it before it looks at the slot it has chosen. -/
theorem fuses_decide (n : Nv) : fuses n.decide.1 = fuses n := by
  unfold Nv.decide
  dsimp only
  split_ifs <;> simp

@[simp] theorem fuses_dropMarked (n : Nv) : fuses n.dropMarked = fuses n := rfl

@[simp] theorem fuses_eraseSector (n : Nv) (k : Nat) : fuses (n.eraseSector k) = fuses n := rfl

@[simp] theorem fuses_takeSector (g : Nat) (n : Nv) : fuses (n.takeSector g) = fuses n := by
  unfold Nv.takeSector
  split <;> rfl

theorem fuses_foldl {α : Type} (f : Nv → α → Nv) (hf : ∀ n x, fuses (f n x) = fuses n) (l : List α) (n : Nv) :
    fuses (l.foldl f n) = fuses n := by
  induction l generalizing n with
  | nil => rfl
  | cons x r ih => rw [List.foldl_cons, ih, hf]

@[simp] theorem fuses_compact (n : Nv) : fuses n.compact = fuses n :=
  fuses_foldl (fun n (e : Nat × Nat) => n.eraseSector e.2) (fun n e => fuses_eraseSector n e.2) n.deadSectors n

@[simp] theorem setNv_nv (d : Dev) (n : Nv) : (d.setNv n).nv = n := rfl

@[simp] theorem setStore_nv (d : Dev) (n : Nv) : (d.setStore n).nv = n := by simp [Dev.setStore]

/-! ## Operations of the device that leave flash alone, beside those of `Laws.Flash` -/

@[simp] theorem nv_pcieBit (d : Dev) : d.pcieBit.nv = d.nv := by
  unfold Dev.pcieBit
  simp

@[simp] theorem nv_setRing (d : Dev) (r : Nat) (x : RingRt) : (d.setRing r x).nv = d.nv := rfl

@[simp] theorem nv_forgetPages (d : Dev) (r : Nat) (p : PageSide → Bool) : (d.forgetPages r p).nv = d.nv := rfl

@[simp] theorem nv_writeGroup (d : Dev) (r : Nat) (bs : List Byte) : (d.writeGroup r bs).nv = d.nv := by
  unfold Dev.writeGroup
  split <;> simp

@[simp] theorem nv_leaveRing (d : Dev) (p : PageSide) : (d.leaveRing p).nv = d.nv := by
  unfold Dev.leaveRing
  split <;> simp

@[simp] theorem nv_releaseRing (fuel r : Nat) (d : Dev) : (d.releaseRing fuel r).nv = d.nv := by
  induction fuel generalizing d with
  | zero => rfl
  | succ fuel ih =>
    unfold Dev.releaseRing
    split
    · split
      · split
        · rw [ih, nv_writeGroup, nv_leaveRing]
        · rfl
      · rfl
    · rfl

@[simp] theorem nv_takeReserve (d : Dev) (p : PageSide) : (d.takeReserve p).nv = d.nv := by
  unfold Dev.takeReserve
  split <;> simp

@[simp] theorem nv_writeBare (d : Dev) (p : PageSide) : (d.writeBare p).nv = d.nv := by
  unfold Dev.writeBare
  (repeat' split) <;> simp

@[simp] theorem nv_settleRings (d : Dev) : d.settleRings.nv = d.nv := by
  unfold Dev.settleRings
  dsimp only
  rw [nv_foldl _ _ _ (fun d r => nv_releaseRing _ r d), nv_each _ _ _ nv_writeBare, nv_each _ _ _ nv_takeReserve]

@[simp] theorem nv_sendPending (d : Dev) : d.sendPending.nv = d.nv :=
  nv_each _ _ _ (fun _ v => nv_sendVector _ v)

@[simp] theorem nv_sendOwed (d : Dev) : d.sendOwed.nv = d.nv := by
  unfold Dev.sendOwed
  dsimp only
  rw [nv_sendPending, nv_settleRings, nv_foldl _ _ _ nv_flushList]

/-- What follows from a change reaches no flash. -/
@[simp] theorem nv_close (d : Dev) : d.close.nv = d.nv := by
  unfold Dev.close
  split <;> rfl

@[simp] theorem nv_spent (d : Dev) (key : Nat) : (d.spent key).nv = d.nv := by
  unfold Dev.spent
  split <;> rfl

@[simp] theorem nv_applyChase (d : Dev) : d.applyChase.nv = d.nv := rfl

@[simp] theorem nv_recoveryBreak (d : Dev) : d.recoveryBreak.nv = d.nv := by simp [Dev.recoveryBreak]

/-! ## The boot ROM, Chase and Proof -/

theorem boot_burnt (d : Dev) : d.nv.burnt d.boot.nv := by
  have hd := fuses_decide ((d.nv.cutShort 0).cutShort 1)
  unfold Dev.boot
  dsimp only
  apply burnt_of_fuses
  split <;> simp [hd]

theorem resetRelease_burnt (m : Nat) (d : Dev) : d.nv.burnt (resetRelease m d).nv := by
  unfold resetRelease
  dsimp only
  split
  · exact burnt_refl _
  · split
    · exact burnt_from (boot_burnt _) rfl
    · exact burnt_refl _

theorem readStore_nv (d : Dev) : d.readStore.nv = d.nv.dropMarked := by
  unfold Dev.readStore
  dsimp only
  split <;> simp

theorem enterChase_nv (d : Dev) : d.enterChase.nv = d.nv.dropMarked := by
  unfold Dev.enterChase
  dsimp only
  split <;> simp [readStore_nv]

theorem chaseEntry_burnt (d : Dev) : d.nv.burnt (chaseEntry d).nv := by
  unfold chaseEntry
  dsimp only
  apply burnt_of_fuses
  split
  · split <;> simp [enterChase_nv]
  · rfl

/-- CONFIRM raises the least security version and turns nothing back (R403, R404). -/
theorem confirmNow_burnt (d : Dev) : d.nv.burnt d.confirmNow.nv := by
  unfold Dev.confirmNow
  dsimp only
  split
  · have hf := fuses_write d.nv { d.nv.record with trial := false, tries := 0 }
    simp only [fuses, Prod.mk.injEq] at hf
    obtain ⟨hv, hp, hk, hr⟩ := hf
    simp only [setReady_nv, setNv_nv]
    exact ⟨by rw [hv]; exact Nat.le_max_left _ _, hp.symm, fun i hi => hr ▸ hi, fun k _ => by rw [hk]⟩
  · exact burnt_refl _

theorem selfTestPassed_burnt (d : Dev) : d.nv.burnt d.selfTestPassed.nv := by
  unfold Dev.selfTestPassed
  dsimp only
  split
  · exact burnt_from (confirmNow_burnt _) rfl
  · exact burnt_refl _

theorem enterProof_burnt (d : Dev) (spd : List (Fin 8 × Spd)) : d.nv.burnt (d.enterProof spd).nv := by
  unfold Dev.enterProof
  dsimp only
  rw [nv_followBits, nv_trainPorts, nv_axesStart, nv_spdRead, nv_foldl _ _ _ nv_startGalleyTest]
  exact burnt_from (selfTestPassed_burnt _) (by simp)

theorem proofEntryBase_burnt (spd : List (Fin 8 × Spd)) (d : Dev) : d.nv.burnt (proofEntryBase spd d).nv := by
  unfold proofEntryBase
  split
  · exact enterProof_burnt d spd
  · exact burnt_refl _

/-! ## Recovery (R405) -/

@[simp] theorem fuses_recoveryTake (d : Dev) (o : Nat) (bs : List Byte) : fuses (d.recoveryTake o bs).nv = fuses d.nv := by
  unfold Dev.recoveryTake
  dsimp only
  rw [nv_recoveryShows]
  split <;> simp

@[simp] theorem fuses_recoveryFails (d : Dev) (st : Nat) : fuses (d.recoveryFails st).nv = fuses d.nv := by
  simp [Dev.recoveryFails]

@[simp] theorem fuses_recoveryDone (d : Dev) (c : ContainerIn) : fuses (d.recoveryDone c).nv = fuses d.nv := by
  unfold Dev.recoveryDone
  dsimp only
  split <;> simp

@[simp] theorem fuses_recoveryFinal (d : Dev) : fuses d.recoveryFinal.nv = fuses d.nv := by
  unfold Dev.recoveryFinal
  split <;> simp

theorem fuses_recoveryWhole (d : Dev) (p : Path) (bs : List Byte) : fuses (d.recoveryWhole p bs).nv = fuses d.nv := by
  unfold Dev.recoveryWhole
  dsimp only
  split <;> simp

theorem fuses_recoveryImageWrite (p : Path) (o : Nat) (bs : List Byte) (last : Option ContainerIn) (d : Dev) :
    fuses (recoveryImageWrite p o bs last d).nv = fuses d.nv := by
  unfold recoveryImageWrite Dev.recoveryPiece
  dsimp only
  (repeat' split) <;> simp

/-! ## Loads and firmware packages (R400, R401) -/

@[simp] theorem fuses_buildPackage (d : Dev) (l : Load) (c : ContainerIn) : fuses (d.buildPackage l c).nv = fuses d.nv := by
  unfold Dev.buildPackage
  dsimp only
  (repeat' split) <;> simp

theorem fuses_finishLoad (d : Dev) (l : Load) (c : ContainerIn) : fuses (d.finishLoad l c).nv = fuses d.nv := by
  unfold Dev.finishLoad Dev.takeContent
  dsimp only
  (repeat' split) <;> simp

theorem fuses_loadComplete (t : Nat) (c : ContainerIn) (d : Dev) : fuses (loadComplete t c d).nv = fuses d.nv := by
  unfold loadComplete
  dsimp only
  split
  · rw [fuses_finishLoad, nv_loadManifestReceived]
  · rw [nv_loadManifestReceived]

theorem fuses_fwSlotWritten (ok : Bool) (d : Dev) : fuses (fwSlotWritten ok d).nv = fuses d.nv := by
  unfold fwSlotWritten
  dsimp only
  split
  · rfl
  · rw [nv_endLoad]
    split <;> simp

/-! ## The parameter store (R327 to R329, R340) -/

theorem fuses_keepGeneration (d : Dev) (s : Saving) : fuses (d.keepGeneration s).nv = fuses d.nv := by
  have hr (e : Dev) (l : List (Nat × Reference)) : (e.each l (fun d r => d.storedReference r.1 r.2)).nv = e.nv :=
    nv_each e l _ (fun d r => nv_storedReference d r.1 r.2)
  unfold Dev.keepGeneration
  dsimp only
  rw [nv_storeIdle, wr_nv, wr_nv, hr, setStore_nv]
  calc fuses _ = fuses ((List.range s.gen.sectorsOf).foldl (fun n _ => n.takeSector s.gen.generation) d.nv) := rfl
    _ = fuses d.nv := fuses_foldl _ (fun n _ => fuses_takeSector _ n) _ _

theorem fuses_storeDone (ok : Bool) (d : Dev) : fuses (storeDone ok d).nv = fuses d.nv := by
  unfold storeDone paramStoreDone
  rw [nv_storeResponse]
  split
  · rfl
  · dsimp only
    split
    · exact fuses_keepGeneration _ _
    · rw [nv_storeIdle]

theorem fuses_paramStoreWearLevel (d : Dev) : fuses (paramStoreWearLevel d).nv = fuses d.nv := by
  unfold paramStoreWearLevel Dev.wearStep
  (repeat' split) <;> simp

theorem fuses_compactionComplete (d : Dev) : fuses (compactionComplete d).nv = fuses d.nv := by
  unfold compactionComplete
  dsimp only
  (repeat' split) <;> simp

/-! ## Dictionary writes that reach flash or fuses (R329, R402, R403, R405, R409) -/

theorem kvGet_of_not_any {α : Type} (d : α) {m : Kv α} {k : Nat} (h : m.any (fun e => e.1 = k) = false) : kvGet d m k = d := by
  induction m with
  | nil => rfl
  | cons e r ih =>
    obtain ⟨i, a⟩ := e
    simp only [List.any_cons, Bool.or_eq_false_iff, decide_eq_false_iff_not] at h
    simp [kvGet, h.1, ih h.2]

/-- PROGRAM writes an empty slot: no key that stood is touched (R409). -/
theorem ownerProgramDo_burnt {bs : List Byte} {d : Dev} (h : d.ownerProgrammed (ownerSlot bs) = false) :
    d.nv.burnt (ownerProgramDo bs d).nv := by
  refine ⟨Nat.le_refl _, rfl, fun _ h => h, fun k hk => ?_⟩
  have hne : k ≠ ownerSlot bs := fun he => hk (he ▸ kvGet_of_not_any [] h)
  exact kvGet_insert_other [] d.nv.ownerKeys (bs.drop 1) hne

/-- REVOKE sets a bit and clears none (R409). -/
theorem ownerRevokeDo_burnt (v : Nat) (d : Dev) : d.nv.burnt (ownerRevokeDo v d).nv := by
  refine ⟨Nat.le_refl _, rfl, fun i hi => ?_, fun _ _ => rfl⟩
  by_cases h : i = v
  · subst h
    exact setBit_testBit _ _ true
  · exact (setBit_testBit_other _ true h).trans hi

/-- A restore goes by its run of indices: no unit and no list or ring has index 1011h. -/
theorem effect_restore {d : Dev} {p : Path} {key : Nat} {r : EntryRow} {bs : List Byte} {test : Bool} (h : keyIx key = 0x1011) :
    d.effect p key r bs test = restoreDo (keySub key) d := by
  have hk : 0x1011 * 256 ≤ key ∧ key < 0x1012 * 256 := by unfold keyIx at h; omega
  have ha : d.effectAlone p key (writtenValue r bs) bs test = none := by
    unfold Dev.effectAlone
    split
    any_goals omega
    rfl
  have hu : d.effectUnits p key (writtenValue r bs) = none := by
    simp [Dev.effectUnits, chanEntry, axisEntry, h]
  have he : d.effectEnable key (writtenValue r bs) = none := by
    simp [Dev.effectEnable, h]
  have hr : d.effectRuns p key (writtenValue r bs) = some (restoreDo (keySub key) d) := by
    simp [Dev.effectRuns, h]
  simp only [Dev.effect, ha, hu, he, hr]

/-- A write that takes effect turns flash and fuses forward only, where OWNER_KEY_PROGRAM finds its slot empty. -/
theorem accept_burnt {d : Dev} {p : Path} {key : Nat} {r : EntryRow} {bs : List Byte} {test : Bool}
    (ho : key = 0x4407_09 → d.ownerProgrammed (ownerSlot bs) = false) : d.nv.burnt (d.accept p key r bs test).nv := by
  by_cases hn : reachesNv key = true
  · rw [Dev.accept, if_pos hn]
    simp only [reachesNv, Bool.or_eq_true, decide_eq_true_eq] at hn
    rcases hn with ((((rfl | rfl) | rfl) | rfl) | rfl) | hk
    · exact burnt_of_fuses (fuses_write _ _)
    · exact confirmNow_burnt d
    · exact ownerProgramDo_burnt (ho rfl)
    · exact ownerRevokeDo_burnt _ d
    · exact burnt_of_fuses (fuses_recoveryWhole d p bs)
    · rw [effect_restore hk]
      exact burnt_of_fuses rfl
  · exact burnt_of_nv (by rw [accept_keeps (by simpa using hn)])

theorem missing_ne_zero {key : Nat} (h : rowOf key = none) : missing key ≠ 0 := by
  simp only [missing, h]
  split <;> decide

/-- A write of OWNER_KEY_PROGRAM that passes its checks finds its slot empty (R409). -/
theorem ownerProgrammed_of_serveCode {d : Dev} {p : Path} {key : Nat} {bs : List Byte} {sig : Bool}
    (h : d.serveCode p key bs sig = 0) (hk : key = 0x4407_09) : d.ownerProgrammed (ownerSlot bs) = false := by
  subst hk
  by_contra hp
  have hc : d.ownerProgramCheck bs = 0x0800_0022 := by simp [Dev.ownerProgramCheck, hp]
  have hl (v : Nat) : d.locked p 0x4407_09 v bs = true := by
    have hs : d.lockSystem p 0x4407_09 v bs = true := by simp [Dev.lockSystem, keyIx, hc]
    simp [Dev.locked, hs]
  have hw : d.writeCode p 0x4407_09 bs sig ≠ 0 := by
    unfold Dev.writeCode
    split
    · exact missing_ne_zero ‹_›
    · split_ifs with h1 h2 h3
      · decide
      · exact h2
      · decide
      · simp [Dev.stateCode, hl]
  simp [Dev.serveCode, hw] at h

theorem nv_refuseWrite (d : Dev) (p : Path) (key code : Nat) : (d.refuseWrite p key code).nv = d.nv := by
  unfold Dev.refuseWrite
  dsimp only
  split <;> simp

theorem write_burnt (d : Dev) (p : Path) (key : Nat) (bs : List Byte) (sig test : Bool) :
    d.nv.burnt (d.write p key bs sig test).nv := by
  unfold Dev.write
  dsimp only
  split
  · exact burnt_refl _
  · split
    · exact burnt_of_nv (nv_refuseWrite _ _ _ _)
    · rename_i hc
      have ho (hk : key = 0x4407_09) := ownerProgrammed_of_serveCode (not_not.mp hc) hk
      split
      · split
        · exact accept_burnt ho
        · exact burnt_trans (burnt_of_nv (nv_accessed d)) (accept_burnt (by simpa [Dev.ownerProgrammed] using ho))
      · exact burnt_refl _

theorem writeOpen_burnt (d : Dev) (p : Path) (key : Nat) (bs : List Byte) : d.nv.burnt (d.writeOpen p key bs).nv :=
  burnt_trans (burnt_of_nv (nv_spent d key)) (write_burnt _ _ _ _ _ _)

/-! ## Mailbox requests (R333, R405) -/

theorem mailboxWhole_burnt (d : Dev) (key : Nat) (r : EntryRow) (bs : List Byte) :
    d.nv.burnt (d.mailboxWhole key r bs).nv := by
  unfold Dev.mailboxWhole
  dsimp only
  split
  · exact burnt_of_nv (by simp)
  · rename_i hc
    have ha : d.nv.burnt ((d.spent key).accept .mailbox key r bs (d.flagOf key bs)).nv :=
      burnt_trans (burnt_of_nv (nv_spent d key)) (accept_burnt (ownerProgrammed_of_serveCode (not_not.mp hc)))
    split
    · exact ha
    · rw [nv_mailReply]
      exact ha

theorem mailboxPiece_burnt (d : Dev) (key : Nat) (r : EntryRow) (bs : List Byte) (final : Bool) :
    d.nv.burnt (d.mailboxPiece key r bs final).nv := by
  unfold Dev.mailboxPiece
  dsimp only
  split
  · rename_i hk
    split
    · exact mailboxWhole_burnt d key r bs
    · have ha : d.nv.burnt (if (d.staged key).isNone then d.accept .mailbox key r bs false else d).nv := by
        split
        · exact accept_burnt (fun h => absurd (hk.symm.trans h) (by decide))
        · exact burnt_refl _
      rw [nv_mailReply]
      split
      · rwa [nv_unstage]
      · rwa [nv_stage4]
  · split
    · exact burnt_trans (burnt_of_nv (nv_unstage d key)) (mailboxWhole_burnt _ _ _ _)
    · exact burnt_of_nv (by simp)

theorem mailboxDomain_burnt (d : Dev) (key : Nat) (r : EntryRow) (o : Nat) (bs : List Byte) (final : Bool) :
    d.nv.burnt (d.mailboxDomain key r o bs final).nv := by
  unfold Dev.mailboxDomain
  dsimp only
  split
  · exact burnt_of_nv (by simp)
  · split
    · exact burnt_of_nv (by simp)
    · split
      · exact burnt_of_nv (by simp)
      · split
        · exact burnt_of_nv (by simp)
        · exact mailboxPiece_burnt d key r bs final

theorem mailboxRecovery_burnt (d : Dev) (o : Nat) (bs : List Byte) (final : Bool) :
    d.nv.burnt (d.mailboxRecovery o bs final).nv := by
  unfold Dev.mailboxRecovery
  dsimp only
  apply burnt_of_fuses
  (repeat' split) <;> simp

theorem mailboxServe_burnt (h : Nat) (bs : List Byte) (d : Dev) : d.nv.burnt (mailboxServe h bs d).nv := by
  have keep (e : Dev) (he : e.nv = d.nv) : d.nv.burnt (e.mailboxWriteDo h bs).nv := by
    rw [← he]
    unfold Dev.mailboxWriteDo
    dsimp only
    split
    · exact burnt_refl _
    · split
      · exact mailboxRecovery_burnt _ _ _ _
      · split
        · exact mailboxDomain_burnt _ _ _ _ _ _
        · split
          · exact burnt_of_nv (nv_mailReply _ _ _ _)
          · exact mailboxWhole_burnt _ _ _ _
  unfold mailboxServe
  dsimp only
  split
  · exact burnt_refl _
  · split
    · exact burnt_of_nv (by simp)
    · split
      · exact burnt_of_nv (by simp)
      · exact keep _ (by simp)

/-! ## Every command -/

/-- A command outside `writesNv` changes the device alone: flash and fuses are put back as they were. -/
theorem exec_after_of_writesNv_false {c : Instr} (h : writesNv c = false) (s : State) : ∃ d, exec c s = s.after d := by
  cases c with
  | resetRelease | chaseEntry | proofEntry | recoveryImageWrite | dictionaryWrite | mailboxRead | mailboxWrite
  | paramStoreDone | paramStoreRestore | paramStoreWearLevel | compactionComplete | loadManifestReceived | loadComplete
  | fwSlotWritten | fwActivate | confirm | ownerKeyProgram | ownerKeyRevoke => cases h
  | _ => exact ⟨_, rfl⟩

/-- A command that may write flash runs one function of the device, which turns flash and fuses forward only. -/
theorem exec_burnt_of_writesNv {c : Instr} (h : writesNv c = true) (s : State) :
    ∃ e : Dev, exec c s = .next { s with dev := e } ∧ s.dev.nv.burnt e.nv := by
  cases c with
  | resetRelease m => exact ⟨_, rfl, resetRelease_burnt _ _⟩
  | chaseEntry => exact ⟨_, rfl, chaseEntry_burnt _⟩
  | proofEntry spd => exact ⟨_, rfl, by rw [nv_close]; exact proofEntryBase_burnt spd _⟩
  | recoveryImageWrite p o bs last => exact ⟨_, rfl, burnt_of_fuses (fuses_recoveryImageWrite p o bs last _)⟩
  | dictionaryWrite p index sub bs => exact ⟨_, rfl, by rw [nv_close]; exact writeOpen_burnt _ _ _ _⟩
  | mailboxRead header => exact ⟨_, rfl, mailboxServe_burnt header [] _⟩
  | mailboxWrite header bs => exact ⟨_, rfl, by rw [nv_close]; exact mailboxServe_burnt header bs _⟩
  | paramStoreDone ok => exact ⟨_, rfl, burnt_of_fuses (fuses_storeDone ok _)⟩
  | paramStoreWearLevel => exact ⟨_, rfl, burnt_of_fuses (fuses_paramStoreWearLevel _)⟩
  | compactionComplete => exact ⟨_, rfl, burnt_of_fuses (fuses_compactionComplete _)⟩
  | loadManifestReceived t c => exact ⟨_, rfl, burnt_of_nv (by rw [nv_close, nv_loadManifestReceived])⟩
  | loadComplete t c => exact ⟨_, rfl, burnt_of_fuses (by rw [nv_close, fuses_loadComplete])⟩
  | fwSlotWritten ok => exact ⟨_, rfl, burnt_of_fuses (by rw [nv_close, fuses_fwSlotWritten])⟩
  | paramStoreRestore | fwActivate | confirm | ownerKeyProgram | ownerKeyRevoke =>
    exact ⟨_, rfl, write_burnt _ _ _ _ _ _⟩
  | _ => cases h

/-- Every command goes on, leaves the rest of the queue alone, and turns flash and fuses forward only. -/
theorem exec_burnt (c : Instr) (s : State) : ∃ t, exec c s = .next t ∧ t.pending = s.pending ∧ s.dev.nv.burnt t.dev.nv := by
  cases h : writesNv c with
  | false =>
    obtain ⟨d, hd⟩ := exec_after_of_writesNv_false h s
    exact ⟨_, hd, rfl, burnt_refl _⟩
  | true =>
    obtain ⟨e, he, hb⟩ := exec_burnt_of_writesNv h s
    exact ⟨_, he, rfl, hb⟩

/-! ## The statements -/

/-- Settles O4: a command outside `writesNv` puts flash and fuses back as they were. -/
theorem flashIsOutOfReach : Obligations.FlashIsOutOfReach := by
  intro c s t h ht
  obtain ⟨d, hd⟩ := exec_after_of_writesNv_false h s
  obtain rfl := Host.Outcome.next.inj (hd.symm.trans ht)
  rfl

/-- Settles O3, by the queue: an empty one idles, else the front command runs on the rest. -/
theorem fusesOnlyBurn : Obligations.FusesOnlyBurn := by
  intro s
  obtain ⟨d, q⟩ := s
  cases q with
  | nil =>
    refine ⟨_, rfl, rfl, burnt_of_nv ?_⟩
    show d.idle.nv = d.nv
    unfold Dev.idle
    split <;> rfl
  | cons c r => exact exec_burnt c ⟨d, r⟩

/-- Settles O1: the step takes the front command, and that is all it does itself. -/
theorem stepRunsTheFront : Obligations.StepRunsTheFront := fun _ _ _ => rfl

/-- Settles O2, by whether the part is in reset. -/
theorem anEmptyQueueIdles : Obligations.AnEmptyQueueIdles := by
  rintro ⟨d, q⟩ rfl
  constructor
  · intro h
    show Host.Outcome.next ({ dev := d.idle, pending := [] } : State) = _
    rw [Dev.idle, if_pos h]
  · intro h
    show Host.Outcome.next ({ dev := d.idle, pending := [] } : State) = _
    rw [Dev.idle, if_neg h]

end Sys2Proof.Proofs
end

