-- ==== Sys2Proof/Proofs/Scoreboard.lean ====
section
/-! The scoreboard of a compute core (R61 to R64, R49, R57): what its operations do when they issue, what stops a core in place
of its operation, and the replay of a frozen one. -/

namespace Sys2Proof.Proofs

open Sys2Proof Sys2Proof.Machine Sys2Proof.Laws

section Issued

variable {s : State} {a : At} {d : Dev} {x : CoreSt}

/-- An operation that only changes its core. -/
theorem updAt_issue_core (f : CoreSt → CoreSt) (h : s.issues a d x) :
    s.updAt a (fun e => e.issue a (fun e y => e.setCore a.core (f y))) = s.withCore d a (f x) :=
  updAt_issue _ h

/-! ## FILLED and DRAINED -/

theorem exec_filled (slot : Fin 512) (epoch : Nat) {e : SbSlot} (h : s.issues a d x) (hs : d.sbSlot slot.val = some e) :
    exec (.filled a slot epoch) s =
      if x.launches.any (·.writesTo e) then s.withCore d a { x with launches := fillWith e (slot.val, epoch) x.launches }
      else s.after ((d.setCore a.core x).publishFill slot.val epoch) := by
  refine (updAt_issue _ h).trans ?_
  simp only [hs]
  split <;> rfl

/-- The slot table does not depend on the cores. -/
@[simp] theorem setCore_sbSlot (d : Dev) (c : Fin 96) (x : CoreSt) (n : Nat) : (d.setCore c x).sbSlot n = d.sbSlot n := rfl

theorem publishFill_of {slot epoch : Nat} {e : SbSlot} (hs : d.sbSlot slot = some e) :
    d.publishFill slot epoch = d.each e.consumers (fun d n => d.atCore n (fun y =>
      y.setSb slot (if reached (y.sbEntry slot).fill epoch then y.sbEntry slot
        else { y.sbEntry slot with fill := epoch % 65536 }))) := by
  simp only [Dev.publishFill, hs]
  rfl

theorem exec_drained (slot : Fin 512) (epoch : Nat) {e : SbSlot} (h : s.issues a d x) (hs : d.sbSlot slot.val = some e) :
    exec (.drained a slot epoch) s = s.after ((d.setCore a.core x).atCore e.producer (fun y =>
      y.setSb slot.val ((y.sbEntry slot.val).drain a.core.val epoch))) := by
  refine (updAt_issue _ h).trans ?_
  simp only [setCore_sbSlot, hs]

/-! ## CHECK_TAG -/

theorem exec_checkTag (tag : Fin 128) (h : s.issues a d x) :
    exec (.checkTag a tag) s =
      s.after (if x.tags.any (fun t => t.1 = tag.val) then d.stopCore a.core x 0x0307 else d.setCore a.core x) :=
  updAt_issue _ h

/-! ## What stops a core in place of its operation -/

/-- A result that is due and stops the core does so whatever is to issue. -/
theorem updAt_issue_stops {y : CoreSt} {st : Nat} (f : Dev → CoreSt → Dev) (he : s.dev.engineTo a.core a.cycle = d)
    (hn : (d.core a.core).ended = false) (hr : (d.core a.core).running = true) (hf : (d.core a.core).frozen = false)
    (hu : (d.coreAt a.core a.cycle).until_ a.cycle = (y, st)) (hs : st ≠ 0) :
    s.updAt a (fun e => e.issue a f) = s.after (d.stopCore a.core { y with cycle := a.cycle } st) := by
  rw [State.updAt, State.upd, he, Dev.issue, if_neg (by simp [hn]), reach_stops f hr hf hu hs]

/-- Two results due to one destination in one cycle (R49), with no LOAD under way. -/
theorem until_twin {c : CoreSt} {e f : CoreEv} {r : List CoreEv} {n : Nat} (hi : c.inFlight = e :: r)
    (hd : e.cycle < n ∨ (e.cycle = n ∧ e.phase < 1)) (ht : twinOf e r = some f) :
    c.until_ n = ({ c with bundle := f.bundle }, 0x0304) := by
  simp only [CoreSt.until_, CoreSt.advance, hi, if_pos hd, ht]

theorem coreAt_of_no_loads {c : Fin 96} (n : Nat) (h : (d.core c).loads = []) : d.coreAt c n = d.core c := by
  simp [Dev.coreAt, CoreSt.catchUp, h]

/-- A galley read that finds an epoch that has not come stops its core (R62). -/
theorem updAt_issueRead_stops {addr n k : Nat} (f : Dev → CoreSt → Dev) (h : s.issues a d x)
    (hk : d.unfilled x (galleyAddr a.core addr) n = some k) :
    s.updAt a (fun e => e.issueRead a addr n f) = s.after (d.stopCore a.core x 0x0305 (some k)) := by
  rw [updAt_of _ h, read_stops f h hk]

end Issued

/-! ## STEP_REPLAY -/

theorem stepReplay_point {d : Dev} {c : Fin 96} (hr : (d.core c).running = true) (hf : (d.core c).frozen = true)
    (hh : (d.core c).header = none) :
    stepReplay c d = (d.setCore c { d.core c with
      frozen := false, replaying := true, loops := (d.core c).replayLoops, bundle := (d.core c).replayBundle }).bump 0x2404_01 := by
  simp [stepReplay, hh, replayCore, hr, hf]

theorem stepReplay_header {d : Dev} {c : Fin 96} {n : Nat} {e : SlotEntry} (hr : (d.core c).running = true)
    (hf : (d.core c).frozen = true) (hh : (d.core c).header = some n) (he : (d.slotList c.val)[n]? = some e) :
    stepReplay c d = ((d.setCore c { d.core c with running := false, frozen := false, header := none }).bump
      0x2404_01).headerStart c e n true := by
  simp [stepReplay, hh, he, hr, hf]

/-! ## The statements -/

/-- Settles O7, by whether a slot's header froze the core. -/
theorem replayReturnsToItsPoint : Obligations.ReplayReturnsToItsPoint := by
  intro s c hr hf
  refine ⟨fun hh => ?_, fun n e hh he => ?_⟩
  · exact congrArg s.after (stepReplay_point hr hf hh)
  · exact congrArg s.after (stepReplay_header hr hf hh he)

/-- Settles O8, one operation at a time. That FILLED waits for every launch that writes into the slot, a walk's among them, is
the model's choice (log entry 161). -/
theorem scoreboardEpochs : Obligations.ScoreboardEpochs := by
  intro s a d x slot epoch h
  refine ⟨updAt_issue_core _ h, updAt_issue_core _ h, updAt_issue_core _ h, fun e hs => ⟨?_, ?_, ?_⟩, ?_⟩
  · intro hl
    rw [exec_filled slot epoch h hs, hl, if_neg (by simp), publishFill_of (by exact hs)]
  · intro hl
    rw [exec_filled slot epoch h hs, hl, if_pos rfl]
  · exact exec_drained slot epoch h hs
  · intro tag ht
    have hn : x.tags.any (fun t => t.1 = tag.val) = false := by simpa using ht
    rw [exec_checkTag tag h, hn, if_neg (by simp), State.withCore]

/-- Settles O9: a collision stops the core in place of SWAP, END or DRAIN; a running tag stops CHECK_TAG; an epoch that has not
come stops each of the galley reads. -/
theorem violationsStopTheCore : Obligations.ViolationsStopTheCore := by
  intro s a d x
  refine ⟨?_, ?_, ?_⟩
  · intro e f r he hr hf hn hi hd hl ht c hc
    have hu := until_twin hi hd ht
    rw [← coreAt_of_no_loads a.cycle hl] at hu
    rcases hc with rfl | rfl | ⟨row, vd, rfl⟩
    all_goals
      refine (updAt_issue_stops _ he hn hr hf hu (by decide)).trans ?_
      rw [coreAt_of_no_loads a.cycle hl]
  · intro h tag t ht
    have hy : x.tags.any (fun t => t.1 = tag.val) = true := List.any_eq_true.mpr ⟨_, ht, by simp⟩
    rw [exec_checkTag tag h, if_pos hy]
  · intro h row r y c fmt i w addr desc tag n
    refine ⟨fun hk => ⟨?_, ?_⟩, fun hk => ?_, fun hk => ⟨?_, ?_, ?_⟩, fun hk => ?_⟩
    all_goals exact updAt_issueRead_stops _ h hk

end Sys2Proof.Proofs
end

