-- ==== Sys2Proof/Proofs/Matrix.lean ====
section
/-! The matrix engine of a compute core (R50, R51, R66 to R72): each of its operations puts one result in flight. -/

namespace Sys2Proof.Proofs

open Sys2Proof Sys2Proof.Machine Sys2Proof.Laws

section Issued

variable {s : State} {a : At} {d : Dev} {x : CoreSt}

/-- A galley read that issues: its result lands L cycles on, and nothing else of its core changes. -/
theorem updAt_read_land {addr n : Nat} (act : Dev → CoreAct) (h : s.reads a addr n d x) :
    s.updAt a (fun e => e.issueRead a addr n (fun e y => e.land a y (a.cycle + e.landing) (act e))) =
      s.withCore d a (x.flying (a.cycle + d.landing) (act d)) := by
  rw [updAt_of _ h.1, read_of _ h, land_of _ _ (bundle_of h.1), State.withCore]

/-- A streamed row, whether it adds to its row or begins it. -/
theorem updAt_streamOp (init : Bool) (row : Fin 32) (fmt : Nat) (i : Fin 32) {addr : Nat}
    (h : s.reads a addr (rowBytes fmt) d x) :
    s.updAt a (streamOp init a row.val fmt i.val (.galley addr)) = s.withCore d a
      (x.flying (a.cycle + d.landing) (.mulRow row.val init fmt i.val (d.word (galleyAddr a.core addr)))) :=
  updAt_read_land (fun e => .mulRow row.val init fmt i.val (e.word (galleyAddr a.core addr))) h

/-- One whose source is the window tap does nothing itself. -/
theorem updAt_streamOp_tap (init : Bool) (row : Fin 32) (fmt : Nat) (i : Fin 32) (h : s.issues a d x) :
    s.updAt a (streamOp init a row.val fmt i.val .tap) = s.withCore d a x :=
  updAt_issue_core (fun y => y) h

theorem exec_loadTile (fmt : Nat) (w : Fin 64) {addr : Nat} (h : s.reads a addr 64 d x) :
    exec (.loadTile a fmt w addr) s = s.withCore d a
      (x.flying (a.cycle + d.landing) (.tileWord fmt w.val (d.word (galleyAddr a.core addr)))) :=
  updAt_read_land (fun e => .tileWord fmt w.val (e.word (galleyAddr a.core addr))) h

theorem exec_loadScale {addr : Nat} (h : s.reads a addr 64 d x) :
    exec (.loadScale a addr) s = s.withCore d a
      (x.flying (a.cycle + d.landing) (.tileScale (d.word (galleyAddr a.core addr)))) :=
  updAt_read_land (fun e => .tileScale (e.word (galleyAddr a.core addr))) h

theorem exec_swap (h : s.issues a d x) : exec (.swap a) s = s.withCore d a (x.flying a.cycle .swap) :=
  updAt_issue_land a.cycle (fun _ => .swap) h

/-- DRAIN takes the row as it stands when the operation issues. -/
theorem exec_drain (row vd : Fin 32) (h : s.issues a d x) :
    exec (.drain a row vd) s = s.withCore d a (x.flying (a.cycle + 4) (.vreg vd.val (x.accRow row.val))) :=
  updAt_issue_land (a.cycle + 4) (fun y => .vreg vd.val (y.accRow row.val)) h

/-- DRAIN_CLEAR also leaves the row at +0. -/
theorem exec_drainClear (row vd : Fin 32) (h : s.issues a d x) :
    exec (.drainClear a row vd) s =
      s.withCore d a ((x.setAcc row.val zeroLanes).flying (a.cycle + 4) (.vreg vd.val (x.accRow row.val))) := by
  have hb : (x.setAcc row.val zeroLanes).bundle = a.bundle := (bundle_of h : x.bundle = a.bundle)
  refine (updAt_issue _ h).trans ?_
  rw [land_of _ _ hb, State.withCore]

end Issued

/-! ## The statement -/

/-- Settles O10, one operation at a time. That a row streamed from a tap is put in flight by its EMIT_TAP, and MAC and MAC_INIT
do nothing more, is the model's reading (log entry 10). -/
theorem matrixOperations : Obligations.MatrixOperations := by
  intro s a d x row vd h
  refine ⟨fun fmt i addr => ⟨fun hu => ?_, ?_⟩, fun fmt w addr hu => ?_, exec_swap h, exec_drain row vd h,
    exec_drainClear row vd h⟩
  · exact ⟨updAt_streamOp false row fmt i ⟨h, hu⟩, updAt_streamOp true row fmt i ⟨h, hu⟩⟩
  · exact ⟨updAt_streamOp_tap false row fmt i h, updAt_streamOp_tap true row fmt i h⟩
  · exact ⟨exec_loadTile fmt w ⟨h, hu⟩, exec_loadScale ⟨h, hu⟩⟩

end Sys2Proof.Proofs
end

