-- ==== Sys2Proof/Proofs/Vector.lean ====
section
/-! The vector engine of a compute core (R46, R52 to R54, R77 to R84, R90): results, latencies, what a program sees of them, and
what a store leaves in galley. -/

namespace Sys2Proof.Proofs

open Sys2Proof Sys2Proof.Machine Sys2Proof.Laws

section Issued

variable {s : State} {a : At} {d : Dev} {x : CoreSt}

/-- A vector operation: its lanes are on their way and have been counted. -/
theorem updAt_vecOp {lat : Nat} {vd : Fin 32} (f : CoreSt → List F32) (h : s.issues a d x) :
    s.updAt a (vecOp a vd.val lat f) = s.result d a x lat vd (f x) := by
  rw [updAt_of _ h, vecOp_of f h]

theorem exec_add (vd va vb : Fin 32) (h : s.issues a d x) :
    exec (.add a vd va vb) s = s.result d a x 4 vd (List.zipWith fadd (x.vreg va) (x.vreg vb)) :=
  updAt_vecOp (fun y => List.zipWith fadd (y.vreg va) (y.vreg vb)) h

/-- The immediate of MOVI, a NaN made the canonical one (R52). -/
theorem canonical_eq (w : F32) : canonical w = if Num.of32 w = .nan then 0x7FC0_0000#32 else w := by
  simp [canonical, canonNaN]

/-! ## Conversions -/

theorem countStochastic_fin (d : Dev) (rnd : Fin 3) :
    d.countStochastic rnd.val = if rnd = 2 then d.bumpBy 0x2440_03 64 else d :=
  if_congr (Fin.ext_iff (b := 2)).symm rfl rfl

theorem exec_cvt (vd va : Fin 32) (fmt : Fin 6) (rnd : Fin 3) (imm : BitVec 32) (h : s.issues a d x) :
    exec (.cvt a vd va fmt rnd imm) s = s.result (d.countStochastic rnd.val) a x 3 vd
      ((convertLanes fmt.val rnd.val x.seed x.step imm.toNat (x.vreg va)).map (codeTo32 fmt.val)) := by
  refine (updAt_issue _ h).trans ?_
  rw [land_of _ _ (bundle_of h), State.result]

/-- MSE in error mode issues its result where every scale lane is one of Table 4-2. -/
theorem exec_mseError (vd va vb : Fin 32) (fmt : Nat) (split first zp : Bool) (slot : Fin 64) {ok : Bool} (h : s.issues a d x)
    (hk : (mseBases ⟨split, first, zp, slot.val⟩ (x.vreg vb)).all (mseScaleOk fmt ⟨split, first, zp, slot.val⟩) = ok) :
    exec (.mseError a vd va vb fmt split first zp slot) s =
      if ok then s.result d a x 6 vd
        (mseLanes (fun k q v => mseErrorSeg fmt k ⟨split, first, zp, slot.val⟩ q v) ⟨split, first, zp, slot.val⟩
          (x.vreg va) (x.vreg vb))
      else s.after (d.stopCore a.core x 0x0311) := by
  refine (updAt_issue _ h).trans ?_
  dsimp only
  rw [hk]
  cases ok
  · rfl
  · rw [if_pos rfl, if_pos rfl, land_of _ _ (bundle_of h), State.result]

/-! ## V_MEM LOAD -/

theorem exec_vectorLoad (r : Fin 32) {addr : Nat} (h : s.reads a addr 256 d x) :
    exec (.vectorLoad a r addr) s = s.withCore d a
      { x.flying (a.cycle + 3 + d.landing) (.vreg r.val (lanesOf (memBytes d.mem (galleyAddr a.core addr) 256))) with
        loads := x.loads ++ [⟨r.val, a.cycle + 3 + d.landing, galleyAddr a.core addr, a.cycle, 1⟩] } := by
  refine (updAt_of _ h.1).trans ?_
  rw [vectorLoadOp, read_of _ h, land_of _ _ (by exact (bundle_of h.1 : x.bundle = a.bundle)), State.withCore]
  rfl

/-! ## Stores -/

/-- A store that nothing stops writes its bytes through the banks. -/
theorem coreStore_of {addr : Nat} {bs : List Byte} (f : CoreSt → CoreSt) (hd : d.dieIn addr = true)
    (hg : ∀ w ∈ wordsOf addr bs.length, d.gatedAt (w * 64) = false) (hu : d.undrained x addr bs.length = none) :
    d.coreStore a x addr bs f = (d.setCore a.core (f x)).put addr bs := by
  have hn : (wordsOf addr bs.length).any (fun w => d.gatedAt (w * 64)) = false := by simpa using hg
  simp only [Dev.coreStore, hd, hn, hu, Bool.not_true, Bool.false_eq_true, if_false]

/-- What such a store leaves in local space. -/
theorem coreStore_mem {addr : Nat} {bs : List Byte} (f : CoreSt → CoreSt) (hd : d.dieIn addr = true)
    (hw : ∀ w ∈ wordsOf addr bs.length, d.gatedAt (w * 64) = false ∧ w ∉ d.poisoned)
    (hu : d.undrained x addr bs.length = none) : (d.coreStore a x addr bs f).mem = memWrite d.mem addr bs := by
  rw [coreStore_of f hd (fun w h => (hw w h).1) hu, put_mem (fun w h => by simpa using (hw w h).2), setCore_mem]

/-- V_MEM STORE; what an accepted one does to its core besides is to list a statistics block (R85). -/
theorem exec_vectorStore (r : Fin 32) (addr : Nat) (h : s.issues a d x) :
    ∃ f, exec (.vectorStore a r addr) s = s.after (d.coreStore a x (galleyAddr a.core addr) (lanesBytes (x.vreg r)) f) :=
  ⟨_, updAt_issue _ h⟩

theorem exec_storeConvert (r : Fin 32) (addr : Nat) (fmt : Fin 6) (rnd : Fin 3) (imm : BitVec 32) (h : s.issues a d x) :
    exec (.storeConvert a r addr fmt rnd imm) s = s.after ((d.countStochastic rnd.val).coreStore a x (galleyAddr a.core addr)
      (leBytes (8 * vfmtBits fmt.val)
        (packCodes (vfmtBits fmt.val) (convertLanes fmt.val rnd.val x.seed x.step imm.toNat (x.vreg r))))) :=
  updAt_issue _ h

/-- A command that leaves local space as one write of bytes does. -/
theorem written_of_mem (s : State) {e : Dev} {m : List Host.Cell} {addr : Nat} {bs : List Byte} (hm : e.mem = memWrite m addr bs) :
    ∃ t, s.after e = .next t ∧ memBytes t.dev.mem addr bs.length = bs ∧
      ∀ y, y < addr ∨ addr + bs.length ≤ y → memByte t.dev.mem y = memByte m y := by
  refine ⟨_, rfl, ?_, fun y hy => ?_⟩
  · show memBytes e.mem addr bs.length = bs
    rw [hm, memBytes_write]
  · show memByte e.mem y = memByte m y
    rw [hm, memByte_write_other m addr y bs hy]

@[simp] theorem countStochastic_mem (d : Dev) (rnd : Nat) : (d.countStochastic rnd).mem = d.mem := by
  unfold Dev.countStochastic
  split <;> simp

end Issued

/-! ## One result in flight, seen from outside (R46) -/

section Alone

variable {x : CoreSt} {n : Nat} {vd : Nat} {r : List F32}

/-- Before its cycle nothing of the core has changed. -/
theorem until_flying_early {k : Nat} (hi : x.inFlight = []) (hk : k < n) :
    (x.flying n (.vreg vd r)).until_ k = (x.flying n (.vreg vd r), 0) := by
  have hlt : ¬ (n < k ∨ (n = k ∧ CoreAct.phase (.vreg vd r) < 1)) := by omega
  simp only [CoreSt.until_, CoreSt.flying, hi, insertEv, CoreSt.advance, if_neg hlt]

/-- In its cycle the register holds the result, and nothing is in flight. -/
theorem until_flying_due (hi : x.inFlight = []) : (x.flying n (.vreg vd r)).until_ n = (x.setVreg vd r, 0) := by
  simp [CoreSt.until_, CoreSt.flying, hi, insertEv, CoreSt.advance, CoreAct.phase, twinOf, CoreSt.apply, CoreSt.setVreg]

theorem vreg_set_same (x : CoreSt) (k : Nat) (r : List F32) : (x.setVreg k r).vreg k = r := kvGet_put_same _ _ _ _

theorem vreg_set_other (x : CoreSt) {k j : Nat} (r : List F32) (h : j ≠ k) : (x.setVreg k r).vreg j = x.vreg j :=
  kvGet_put_other _ _ _ _ h

end Alone

@[simp] theorem core_countLanes (d : Dev) (l : List F32) (c : Fin 96) : (d.countLanes l).core c = d.core c := by
  simp [Dev.core, Dev.countLanes]

/-! ## Special values (R52, R53) -/

theorem add_nan_left (v : Machine.Num) : Machine.Num.add .nan v = .nan := rfl

theorem mul_nan_right (v : Machine.Num) : Machine.Num.mul v .nan = .nan := by cases v <;> rfl

/-! ## The statements -/

/-- Settles O11, one operation at a time. That the lanes are counted when the operation issues is the model's choice (log
entry 126). -/
theorem vectorArithmetic : Obligations.VectorArithmetic := by
  intro s a d x vd va vb vc h
  refine ⟨exec_add vd va vb h, updAt_vecOp _ h, updAt_vecOp _ h, updAt_vecOp _ h, updAt_vecOp _ h, updAt_vecOp _ h, ?_,
    fun k => updAt_vecOp _ h, updAt_vecOp _ h, updAt_vecOp _ h, updAt_vecOp _ h, updAt_vecOp _ h, updAt_vecOp _ h,
    updAt_vecOp _ h⟩
  intro w
  rw [← canonical_eq]
  exact updAt_vecOp (fun _ => List.replicate 64 (canonical w)) h

/-- Settles O12, one operation at a time; the moment at which lanes and stochastic conversions are counted, and the outcome of
a lane that is no integer, are the model's choices (log entries 126, 141, 147 and 13). -/
theorem conversionsAndErrors : Obligations.ConversionsAndErrors := by
  intro s a d x vd va vb h
  refine ⟨fun fmt rnd imm => ?_, fun fmt split first zp slot => ⟨updAt_vecOp _ h, fun hk => ?_, fun hk => ?_⟩⟩
  · rw [← countStochastic_fin]
    exact exec_cvt vd va fmt rnd imm h
  · rw [exec_mseError vd va vb fmt split first zp slot h hk, if_pos rfl]
  · rw [exec_mseError vd va vb fmt split first zp slot h hk, if_neg (by simp)]

/-- Settles O13: ADD's result is the one thing in flight, so nothing changes before its cycle, and its register alone in it. -/
theorem addIsSeenAfterItsLatency : Obligations.AddIsSeenAfterItsLatency := by
  intro s a d x vd va vb h hi
  refine ⟨_, exec_add vd va vb h, ?_, ?_, ?_, ?_⟩
  all_goals simp only [show ∀ (e : Dev) (n : Nv) c, ({ e with nv := n } : Dev).core c = e.core c from fun _ _ _ => rfl]
  · intro k hk
    rw [core_set_same, until_flying_early hi (by omega)]
    rfl
  · rw [core_set_same, until_flying_due hi, vreg_set_same]
  · intro r hr
    rw [core_set_same, until_flying_due hi, vreg_set_other _ _ hr]
  · intro c hc
    rw [core_set_other _ _ hc, core_countLanes]

/-- Settles O14: a NaN by the first operand that is one, and the single values by evaluation. -/
theorem specialValues : Obligations.SpecialValues := by
  have hn : Num.of32 0x7F80_0001#32 = .nan := by decide
  have hc : Num.of32 0x7FC0_0000#32 = .nan := by decide
  have hm : Num.of32 0xFFC0_0000#32 = .nan := by decide
  refine ⟨fun w => ⟨?_, ?_, ?_, ?_⟩, by decide, by decide, by decide, by decide, by decide, by decide, by decide, by decide⟩
  · rw [fadd, hc, add_nan_left]
    rfl
  · rw [fmul, hn, mul_nan_right]
    rfl
  · simp only [fmax, hm]
    rfl
  · simp only [fmin, hc]
    cases Num.of32 w <;> rfl

/-- Settles O15: a LOAD is a galley read whose last word lands three cycles after the first. -/
theorem vectorLoads : Obligations.VectorLoads := fun _ _ _ _ r _ h => exec_vectorLoad r h

/-- Settles O16: such a store writes the register's bytes and touches no other. -/
theorem storesChangeTheirBytesOnly : Obligations.StoresChangeTheirBytesOnly := by
  intro s a d x r addr h hd hw hu
  obtain ⟨f, hf⟩ := exec_vectorStore r addr h
  rw [hf]
  exact written_of_mem s (coreStore_mem f hd hw hu)

/-- Settles O17: the same with the lanes' codes packed, whose bytes are as many as eight lanes have bits. -/
theorem convertedStoresChangeTheirBytesOnly : Obligations.ConvertedStoresChangeTheirBytesOnly := by
  intro s a d e x r addr fmt rnd imm h he hd hw hu
  have hm : d.mem = e.mem := by rw [he, countStochastic_mem]
  rw [exec_storeConvert r addr fmt rnd imm h, ← he, hm]
  have hlen := leBytes_length (8 * vfmtBits fmt.val)
    (packCodes (vfmtBits fmt.val) (convertLanes fmt.val rnd.val x.seed x.step imm.toNat (x.vreg r)))
  have hs := written_of_mem s (coreStore_mem (a := a) (x := x) id hd (by rwa [hlen]) (by rwa [hlen]))
  rwa [hlen] at hs

end Sys2Proof.Proofs
end

