-- ==== Sys2Proof/Proofs/Transfers.lean ====
section
/-! The data engine of a compute core (R47, R48, R56, R61 to R63, R92, R107, R218, R384): launches, what a launch moves, copies,
and the ends of transfers and reads. -/

namespace Sys2Proof.Proofs

open Sys2Proof Sys2Proof.Machine Sys2Proof.Laws

/-! ## Launches -/

theorem updAt_launch {s : State} {a : At} {d : Dev} {x : CoreSt} (op mode desc : Nat) (tag : Fin 128)
    (h : s.reads a desc 64 d x) : s.updAt a (launch op mode a desc tag.val) = s.withCore d a (x.launched op mode d a desc tag) := by
  rw [updAt_of _ h.1, launch_of op mode desc tag h, State.withCore]

/-! ## Loops over lists that change nothing -/

theorem each_id {α : Type} {d : Dev} (l : List α) {f : Dev → α → Dev} (h : ∀ x, f d x = d) : d.each l f = d := by
  unfold Dev.each
  induction l with
  | nil => rfl
  | cons x r ih => rw [List.foldl_cons, h, ih]

theorem each_readCheck_of_clean {d : Dev} (h : d.poisoned = []) (source : Nat) (ws : List Nat) :
    d.each ws (fun d w => d.readCheck source w) = d :=
  each_id (d := d) ws (fun w => by simp [Dev.readCheck, h])

/-! ## What a launch does when its time has come -/

section Step

variable {d e : Dev} {c : Fin 96} {l : Launch} {t : Xfer}

/-- A launch that is on its tag, by whether its words are on the move. -/
theorem stepLaunch_of (he : e = d.toCycle c l.due) (hl : l ∈ (e.core c).launches)
    (ht : (e.core c).tags.find? (fun t => t.1 = l.tag) = some (l.tag, t)) :
    d.stepLaunch c l =
      if l.moving then
        ((e.setCore c { e.core c with launches := (e.core c).launches.erase l }).moveNow c
          { e.core c with launches := (e.core c).launches.erase l } l t).each l.fills (fun g e => g.publishFill e.1 e.2)
      else e.useDescriptor c (e.core c) l t := by
  subst he
  simp only [Dev.stepLaunch, if_pos hl, ht]

/-- A descriptor that can be used: its words move 8 cycles on. -/
theorem useDescriptor_of {x : CoreSt} (hg : e.gatedAt l.desc = false) (hb : l.bad = false) (hw : descPairsOk l.word = true) :
    e.useDescriptor c x l t = e.setCore c { x with
      launches := updIf (· = l) (fun l => { l with moving := true, due := l.due + 8 }) x.launches } := by
  simp [Dev.useDescriptor, hg, hb, hw]

end Step

section Moves

variable {f : Dev} {c : Fin 96} {y : CoreSt} {l : Launch} {t : Xfer}

/-- Words that nothing refuses move; none of them was dropped on a link. -/
theorem guardMove_of (g : Dev → Desc → Dev) (hd : l.dropped = []) (hs : f.runStatus l.shape = 0)
    (hu : f.undrainedIn y l.shape.writes = none) : guardMove g f c y l t = g f l.shape := by
  simp [guardMove, hs, hu, Dev.keepDropped, hd, Dev.each]

theorem moveNow_copy (hd : l.dropped = []) (hs : f.runStatus l.shape = 0) (hu : f.undrainedIn y l.shape.writes = none)
    (ho : l.op = 1) : f.moveNow c y l t = if l.shape.isFill then f.fillRows l.shape else f.copyRows 4 l.shape := by
  simp only [Dev.moveNow, ho, guardMove_of _ hd hs hu]

theorem moveNow_ddrRead (hd : l.dropped = []) (hs : f.runStatus l.shape = 0) (hu : f.undrainedIn y l.shape.writes = none)
    (ho : l.op = 2) (hp : f.poisonRead l.shape = none) : f.moveNow c y l t = f.copyRows 4 l.shape := by
  simp only [Dev.moveNow, ho, ddrReadMove, hp, guardMove_of _ hd hs hu]

theorem moveNow_ddrWrite (hd : l.dropped = []) (hs : f.runStatus l.shape = 0) (hu : f.undrainedIn y l.shape.writes = none)
    (ho : l.op = 3) : f.moveNow c y l t = f.copyRows 5 l.shape := by
  simp only [Dev.moveNow, ho, guardMove_of _ hd hs hu]

/-- A walk or a table load of no rows or no length moves nothing (R56). -/
theorem moveNow_empty (ho : l.op = 4 ∨ l.op = 6) (ht : l.table = none)
    (hn : (descOf l.word).rows = 0 ∨ (descOf l.word).length = 0) : f.moveNow c y l t = f := by
  rcases ho with ho | ho
  · simp only [Dev.moveNow, ho, walkMove, if_pos hn]
  · have hr : (descOf l.word).rows = 0 ∨ (descOf l.word).length = 0 ∨ (descOf l.word).src / 64 * 64 / 64 ∈ l.dropped :=
      hn.imp_right Or.inl
    simp only [Dev.moveNow, ho, ht, tableRead, if_pos hr]

/-- A walk whose descriptor word can be read moves its rows in order and ends as they end (R218). -/
theorem moveNow_walk {w : Nat} (hd : l.dropped = []) (ho : l.op = 4) (hr : (descOf l.word).rows ≠ 0)
    (hn : (descOf l.word).length ≠ 0) (hw : w = (descOf l.word).src / 64 * 64)
    (hk : f.walkWord w 64 (pairsOk (f.word w) [448, 384, 320]) = none) {r : Dev × Option RowStop}
    (he : r = f.walkRows l.mode y (walkDescOf (f.word w)) (descOf l.word)
      ((List.range (walkDescOf (f.word w)).rowCount).map (· + (walkDescOf (f.word w)).firstRow))) :
    f.moveNow c y l t = r.1.walkEnd c y l.bundle t r.2 := by
  subst hw he
  simp only [Dev.moveNow, ho, walkMove, hr, hn, or_self, if_false, hk, Dev.keepDropped, hd, Dev.each, List.foldl_nil]

/-- A remote write of clean words sends them to the window that is granted (R384). -/
theorem moveNow_remote_granted {g : Grant} (hd : l.dropped = []) (ho : l.op = 5) (hp : f.poisoned = [])
    (hw : f.remoteWords (descOf l.word) ≠ [])
    (hr : f.reachStatus (descOf l.word).src (spanOf (descOf l.word).rows (descOf l.word).length (descOf l.word).srcPitch) = 0)
    (hg : f.grantOf (bits (descOf l.word).dst 55 48) (bits (descOf l.word).dst 47 40) = some g)
    (hq : (f.outPort (bits (descOf l.word).dst 55 48)).isSome = true) :
    f.moveNow c y l t = f.sendWords c l.tag t.forme g (f.remoteWords (descOf l.word)) := by
  simp [Dev.moveNow, ho, remoteWriteMove, hr, hd, hw, each_readCheck_of_clean hp, hg, hq]

/-- With no live grant nothing is sent and the forme faults with 0605h (R386). -/
theorem moveNow_remote_ungranted (hd : l.dropped = []) (ho : l.op = 5) (hp : f.poisoned = [])
    (hw : f.remoteWords (descOf l.word) ≠ [])
    (hr : f.reachStatus (descOf l.word).src (spanOf (descOf l.word).rows (descOf l.word).length (descOf l.word).srcPitch) = 0)
    (hg : f.grantOf (bits (descOf l.word).dst 55 48) (bits (descOf l.word).dst 47 40) = none) :
    f.moveNow c y l t = (f.remoteFault c.val t.plate t.forme 0x0605).finishRemote c.val l.tag t.forme := by
  simp [Dev.moveNow, ho, remoteWriteMove, hr, hd, hw, each_readCheck_of_clean hp, hg]

/-- A table load reads its word when it moves; the word lands L cycles on. -/
theorem moveNow_tableRead {p : Nat} (hd : l.dropped = []) (ho : l.op = 6) (ht : l.table = none)
    (hr : (descOf l.word).rows ≠ 0) (hn : (descOf l.word).length ≠ 0) (hp : p = (descOf l.word).src / 64 * 64)
    (hs : f.reachStatus p 64 = 0) :
    f.moveNow c y l t = f.setCore c { y with
      launches := y.launches ++ [{ l with due := l.due + f.landing, table := some (f.word p, f.isPoisoned p) }] } := by
  subst hp
  simp [Dev.moveNow, ho, ht, tableRead, hr, hn, hd, hs]

theorem moveNow_loadTable {w : Nat} (ho : l.op = 6) (ht : l.table = some (w, false)) :
    f.moveNow c y l t = f.setCore c { y with streamTable := w } := by
  simp [Dev.moveNow, ho, ht, loadTable]

end Moves

/-! ## Copies -/

theorem mergeWord_clean {d : Dev} (a n w : Nat) (h : d.poisoned = []) : (d.mergeWord a n w).poisoned = [] := by
  unfold Dev.mergeWord
  split
  · simp [Dev.cleanWord, h]
  · simp [h, Dev.uncount]

/-- A write where no word is poisoned leaves none poisoned. -/
theorem put_clean {d : Dev} (a : Nat) (bs : List Byte) (h : d.poisoned = []) : (d.put a bs).poisoned = [] := by
  have key (ws : List Nat) (e : Dev) (he : e.poisoned = []) :
      (e.each ws (fun d w => d.mergeWord a bs.length w)).poisoned = [] := by
    induction ws generalizing e with
    | nil => exact he
    | cons w r ih => exact ih _ (mergeWord_clean a bs.length w he)
  exact key _ _ h

theorem copyRow_of_clean {d : Dev} (source src dst n : Nat) (h : d.poisoned = []) :
    d.copyRow source src dst n = d.put dst (memBytes d.mem src n) := by
  simp only [Dev.copyRow, each_readCheck_of_clean h, h, List.not_mem_nil, if_false]
  exact each_id (f := fun e _ => e) _ (fun _ => rfl)

theorem memBytes_length (m : List Host.Cell) (a n : Nat) : (memBytes m a n).length = n := by
  induction n generalizing a with
  | zero => rfl
  | succ n ih => simp [memBytes, ih]

/-- Rows of clean words, each at its own places: a byte that is none of their destinations reads as before. -/
theorem foldl_copyRow_other (source n b : Nat) (src dst : Nat → Nat) (rows : List Nat) (d : Dev) (h : d.poisoned = [])
    (hb : ∀ r ∈ rows, b < dst r ∨ dst r + n ≤ b) :
    memByte (rows.foldl (fun d r => d.copyRow source (src r) (dst r) n) d).mem b = memByte d.mem b := by
  induction rows generalizing d with
  | nil => rfl
  | cons r rs ih =>
    have hr := hb r List.mem_cons_self
    rw [List.foldl_cons, copyRow_of_clean source _ _ n h, ih _ (put_clean _ _ h) (fun r hr => hb r (List.mem_cons_of_mem _ hr)),
      put_mem (by simp [h]), memByte_write_other _ _ _ _ (by rwa [memBytes_length])]

/-! ## Ends of transfers, and landings -/

theorem transferEnd_ok {c : Fin 96} {tag : Nat} {d : Dev} {t : Xfer}
    (ht : (d.core c).tags.find? (fun e => e.1 = tag) = some (tag, t)) (hp : t.poison = none) :
    transferEnd c tag .ok d =
      if t.publish then (d.setCore c { d.core c with tags := kvErase (d.core c).tags tag }).publishFill t.pubSlot t.pubEpoch
      else d.setCore c { d.core c with tags := kvErase (d.core c).tags tag } := by
  simp only [transferEnd, ht, Dev.transferOk, hp]

section Landing

variable {s : State} {a : At} {d : Dev} {x : CoreSt} {addr : Nat} {fetch : Bool}

/-- A galley read lands on a core that it finds, on a die of the imposition and a bank that is not gated. -/
theorem exec_landing (how : Landing) (he : s.dev.engineTo a.core a.cycle = d) (hl : d.lands a x) (ha : d.addrOk addr = true)
    (hd : d.dieIn addr = true) (hg : d.gatedAt addr = false) :
    exec (.galleyReadLanding a addr fetch how .none) s = s.after (
      if how = .missed then d.stopCore a.core x 0x0303
      else if how = .detected ∨ d.isPoisoned addr = true then
        d.coreDetection a.core x addr (if fetch then 1 else 0) .none
      else d.setCore a.core x) := by
  show s.after (readLanding a addr fetch how .none (s.dev.engineTo a.core a.cycle)) = _
  rw [he, readLanding, lands_of _ hl]
  simp [ha, hd, hg]

/-- A first detection, of a word that is not restorable, freezes the core (R61, R96). -/
theorem coreDetection_first {source : Nat} (hn : x.detected = false) (hr : (d.detection addr source).restorable addr = false) :
    d.coreDetection a.core x addr source .none =
      (d.detection addr source).setCore a.core { x.discard with frozen := true, ended := false, detected := true } := by
  have hi : (d.detection addr source).restoreIf addr .none = d.detection addr source :=
    if_neg (by simp [hr])
  rw [Dev.coreDetection, hi, Dev.freezeCore, hn, if_neg (by simp)]

end Landing

/-! ## The statements -/

/-- Settles O19: each of the ten is a launch with its D_OP and mode. -/
theorem transfersLaunch : Obligations.TransfersLaunch := by
  intro s a d x desc tag h
  exact ⟨updAt_launch 1 0 desc tag h, updAt_launch 1 1 desc tag h, updAt_launch 2 0 desc tag h, updAt_launch 3 0 desc tag h,
    updAt_launch 4 0 desc tag h, updAt_launch 4 1 desc tag h, updAt_launch 4 2 desc tag h, updAt_launch 4 3 desc tag h,
    updAt_launch 5 0 desc tag h, updAt_launch 6 0 desc tag h⟩

/-- Settles O20: a launch uses its descriptor when that lands; when its words move, each D_OP by its own lemma. -/
theorem launchedTransfersMove : Obligations.LaunchedTransfersMove := by
  intro d e c l t y he hl ht hy
  have hs := stepLaunch_of he hl ht
  rw [← hy] at hs
  refine ⟨fun hm hg hb hw => ?_, fun hm hd f hf out hout => ?_⟩
  · rw [hs, hm, if_neg (by simp), useDescriptor_of hg hb hw]
  · rw [hm, if_pos rfl, ← hf, ← hout] at hs
    rw [hs]
    refine ⟨fun h0 hu => ⟨fun ho hi => ?_, fun ho hi => ?_, fun ho hp => ?_, fun ho => ?_⟩, fun ho hn hr => ?_,
      fun w ho hr hn hw hk r hrr => ?_, fun ho hp hw hr => ⟨fun g hg hq => ?_, fun hg => ?_⟩,
      fun ho hn hr hlen p hp h0 => ?_, fun w ho hw => ?_⟩
    · rw [moveNow_copy hd h0 hu ho, hi, if_neg (by simp)]
    · rw [moveNow_copy hd h0 hu ho, hi, if_pos rfl]
    · rw [moveNow_ddrRead hd h0 hu ho hp]
    · rw [moveNow_ddrWrite hd h0 hu ho]
    · rw [moveNow_empty ho hn hr]
    · rw [moveNow_walk hd ho hr hn hw hk hrr]
    · rw [moveNow_remote_granted hd ho hp hw hr hg hq]
    · rw [moveNow_remote_ungranted hd ho hp hw hr hg]
    · rw [moveNow_tableRead hd ho hn hr hlen hp h0]
    · rw [moveNow_loadTable ho hw]

/-- Settles O21, by induction on the rows: none of them writes the byte. -/
theorem copiesChangeTheirRowsOnly : Obligations.CopiesChangeTheirRowsOnly := by
  intro d source y hp hs hd b hb
  have hrows : d.copyRows source y = (List.range y.rows).foldl
      (fun d r => d.copyRow source (y.src + r * y.srcPitch * 64) (y.dst + r * y.dstPitch * 64) y.length) d := by
    simp [Dev.copyRows, hs, hd]
  rw [hrows]
  exact foldl_copyRow_other source y.length b (fun r => y.src + r * y.srcPitch * 64) (fun r => y.dst + r * y.dstPitch * 64)
    (List.range y.rows) d hp (fun r hr => hb r (List.mem_range.mp hr))

/-- Settles O22: a transfer's end by PUBLISH, a landing by how the word arrived. Which results a landing finds in flight is the
model's choice (log entry 160). -/
theorem transfersEndAndWordsLand : Obligations.TransfersEndAndWordsLand := by
  intro s
  refine ⟨fun c tag t d hd ht hp => ?_, fun a d x addr fetch he hl ha hdi hg => ⟨fun hn => ?_, ?_, ?_⟩⟩
  · have hx : exec (.transferComplete c tag .ok) s = s.after (transferEnd c tag.val .ok d) := by
      rw [hd]
      rfl
    rw [hx, transferEnd_ok ht hp]
    exact ⟨fun h => by rw [h, if_neg (by simp)], fun h => by rw [h, if_pos rfl]⟩
  · rw [exec_landing .clean he hl ha hdi hg, if_neg (by decide), if_neg (by simp [hn]), State.withCore]
  · rw [exec_landing .missed he hl ha hdi hg, if_pos rfl]
  · intro hn e hes hr
    rw [exec_landing .detected he hl ha hdi hg, if_neg (by decide), if_pos (Or.inl rfl), coreDetection_first hn (hes ▸ hr), hes]

end Sys2Proof.Proofs
end

