-- ==== Sys2Proof/Proofs/Entries.lean ====
section
/-! Dictionary writes of a value that pass their checks (R323, R325): from the effect of an entry's group to the next state of
the command that writes it. -/

namespace Sys2Proof.Proofs

open Sys2Proof Sys2Proof.Machine Sys2Proof.Laws

/-! ## Keys -/

/-- An entry that is neither string nor domain, whose write starts no store and reaches no flash or fuse. -/
def valueKey (key : Nat) : Bool :=
  (rowOf key).any (fun r => r.ty ≠ 9 && r.ty ≠ 15) && !storesKey key && !reachesNv key

theorem valueKey_row {key : Nat} (h : valueKey key = true) :
    ∃ r, rowOf key = some r ∧ ¬(r.ty = 9 ∨ r.ty = 15) ∧ storesKey key = false ∧ reachesNv key = false := by
  simp only [valueKey, Bool.and_eq_true, Bool.not_eq_true', Option.any_eq_true] at h
  obtain ⟨⟨⟨r, hr, hty⟩, hs⟩, hn⟩ := h
  exact ⟨r, hr, by simpa using hty, hs, hn⟩

/-- What the writes need to know of a row: its type, its size, and whether each path has a value of its own. -/
def rowFields (key : Nat) : Option (Nat × Nat × Bool) := (rowOf key).map (fun r => (r.ty, r.size, r.perPath))

theorem row_of_rowFields {key ty n : Nat} {pp : Bool} (h : rowFields key = some (ty, n, pp)) :
    ∃ r, rowOf key = some r ∧ r.ty = ty ∧ r.perPath = pp ∧ entrySize key = n := by
  obtain ⟨r, hr, hf⟩ := Option.map_eq_some_iff.mp h
  obtain ⟨rfl, rfl, rfl⟩ : r.ty = ty ∧ r.size = n ∧ r.perPath = pp := by simpa using hf
  refine ⟨r, hr, rfl, rfl, ?_⟩
  rw [rowOf, keyIx, keySub] at hr
  simp only [entrySize, hr]

theorem entry_of_rowFields {key ty n : Nat} {pp : Bool} (h : rowFields key = some (ty, n, pp)) (hty : ty ≠ 9 ∧ ty ≠ 15)
    (hs : storesKey key = false) (hn : reachesNv key = false) :
    valueKey key = true ∧ entrySize key = n ∧ (rowOf key).any (·.perPath) = pp := by
  obtain ⟨r, hr, rfl, rfl, hsz⟩ := row_of_rowFields h
  exact ⟨by simp [valueKey, hr, hty, hs, hn], hsz, by rw [hr]; rfl⟩

/-- The entries that stand alone. -/
def aloneKeys : List Nat :=
  [0x1003_00, 0x2000_02, 0x2000_08, 0x2201_01, 0x2503_01, 0x2505_04, 0x3A01_01, 0x3E12_01, 0x3E12_04, 0x4200_04, 0x4211_01,
   0x4402_01, 0x4402_02, 0x4403_02, 0x4405_02, 0x4406_02, 0x4406_05, 0x4407_09, 0x4407_0A, 0x4410_01, 0x4600_01, 0x4811_05]

/-- No other entry has the effect of one of them. -/
theorem effectAlone_none {d : Dev} {p : Path} {key v : Nat} {bs : List Byte} {test : Bool} (h : aloneKeys.contains key = false) :
    d.effectAlone p key v bs test = none := by
  have hn : key ∉ aloneKeys := by simpa using h
  unfold Dev.effectAlone
  split
  case h_23 => rfl
  all_goals exact absurd (by decide) hn

/-- An entry that does not stand alone, start a store or reach flash and fuses. -/
def ordinaryKey (key : Nat) : Bool := !aloneKeys.contains key && !storesKey key && !reachesNv key

theorem of_ordinaryKey {key : Nat} (h : ordinaryKey key = true) :
    aloneKeys.contains key = false ∧ storesKey key = false ∧ reachesNv key = false := by
  simpa [ordinaryKey, and_assoc] using h

/-- An ordinary entry of one byte. -/
def byteKey (key : Nat) : Bool := (rowFields key).any (fun f => f.1 ≠ 9 && f.1 ≠ 15 && f.2.1 = 1) && ordinaryKey key

theorem of_byteKey {key v : Nat} (h : byteKey key = true) (hv : v < 256) :
    valueKey key = true ∧ v < 256 ^ entrySize key ∧ aloneKeys.contains key = false := by
  simp only [byteKey, Bool.and_eq_true, Option.any_eq_true] at h
  obtain ⟨⟨⟨ty, n, pp⟩, hrow, hf⟩, ho⟩ := h
  obtain ⟨hty, rfl⟩ : (ty ≠ 9 ∧ ty ≠ 15) ∧ n = 1 := by simpa using hf
  obtain ⟨ha, hs, hn⟩ := of_ordinaryKey ho
  obtain ⟨hk, hsz, -⟩ := entry_of_rowFields hrow hty hs hn
  exact ⟨hk, by rw [hsz]; exact hv, ha⟩

theorem valueKey_of_byteKey {key : Nat} (h : byteKey key = true) : valueKey key = true := (of_byteKey h (v := 0) (by decide)).1

/-! ## Effects -/

/-- A written value has an effect, whatever row its entry has among those of values. -/
def Takes (d : Dev) (p : Path) (key v : Nat) (test : Bool) (e : Dev) : Prop :=
  ∀ r : EntryRow, rowOf key = some r → ¬(r.ty = 9 ∨ r.ty = 15) → d.effect p key r (valueBytes key v) test = e

section Groups

variable {d e : Dev} {p : Path} {key v : Nat} {test : Bool}

theorem takes_alone (hv : v < 256 ^ entrySize key) (h : d.effectAlone p key v (valueBytes key v) test = some e) :
    Takes d p key v test e := fun _ _ hy => effect_alone hy hv h

theorem takes_units (hv : v < 256 ^ entrySize key) (ha : aloneKeys.contains key = false)
    (h : d.effectUnits p key v = some e) : Takes d p key v test e :=
  fun _ _ hy => effect_units hy hv (effectAlone_none ha) h

theorem takes_enable (hv : v < 256 ^ entrySize key) (ha : aloneKeys.contains key = false) (hu : d.effectUnits p key v = none)
    (h : d.effectEnable key v = some e) : Takes d p key v test e :=
  fun _ _ hy => effect_enable hy hv (effectAlone_none ha) hu h

theorem takes_runs (hv : v < 256 ^ entrySize key) (ha : aloneKeys.contains key = false) (hu : d.effectUnits p key v = none)
    (he : d.effectEnable key v = none) (h : d.effectRuns p key v = some e) : Takes d p key v test e :=
  fun _ _ hy => effect_runs hy hv (effectAlone_none ha) hu he h

/-- An entry of no group keeps the value that is written, here one that all paths see alike. -/
theorem takes_plain (hv : v < 256 ^ entrySize key) (hp : (rowOf key).any (·.perPath) = false)
    (ha : aloneKeys.contains key = false) (hu : d.effectUnits p key v = none) (he : d.effectEnable key v = none)
    (hr : d.effectRuns p key v = none) (h : (d.wr key v).afterKeep key (valueBytes key v) = e) : Takes d p key v test e := by
  intro r hrow hy
  rw [hrow, Option.any_some] at hp
  rw [effect_plain hy hv (effectAlone_none ha) hu he hr, keep_value hy hv, hp, if_neg (by simp), h]

end Groups

/-! ## Commands -/

/-- What follows a command goes by its device alone. -/
theorem after_close {s : State} {a b : Dev} (h : a = b) : s.after a.close = s.after b.close := by rw [h]

section Commands

variable {s : State} {p : Path} {key v : Nat} {test : Bool} {e : Dev}

theorem upd_write_takes (h : s.dev.passes p key v) (hk : valueKey key = true) (ht : Takes s.dev.accessed p key v test e) :
    s.upd (fun d => d.write p key (valueBytes key v) false test) = s.after e := by
  obtain ⟨r, hr, hy, hs, hn⟩ := valueKey_row hk
  exact command_after h hr hs hn (ht r hr hy)

theorem upd_write_close_takes (h : s.dev.passes p key v) (hk : valueKey key = true)
    (ht : Takes s.dev.accessed p key v test e) :
    s.upd (fun d => (d.write p key (valueBytes key v) false test).close) = s.closing e := by
  obtain ⟨r, hr, hy, hs, hn⟩ := valueKey_row hk
  exact command_closing h hr hs hn (ht r hr hy)

/-- The same where the effect leaves flash alone. -/
theorem upd_write_close_takes_of_nv (h : s.dev.passes p key v) (hk : valueKey key = true)
    (ht : Takes s.dev.accessed p key v test e) (hn : e.nv = s.dev.nv) :
    s.upd (fun d => (d.write p key (valueBytes key v) false test).close) = s.after e.close := by
  rw [upd_write_close_takes h hk ht, closing_eq hn]

/-- A store that passes its checks is no access until its response goes out (R338). -/
theorem upd_write_stores {ty n : Nat} {pp : Bool} (h : s.dev.passes p key v) (hrow : rowFields key = some (ty, n, pp))
    (hty : ty ≠ 9 ∧ ty ≠ 15) (hs : storesKey key = true) (hn : reachesNv key = false) (ht : Takes s.dev p key v test e) :
    s.upd (fun d => d.write p key (valueBytes key v) false test) = s.after e := by
  obtain ⟨r, hr, rfl, -, -⟩ := row_of_rowFields hrow
  rw [State.upd, write_stores test h hr hs, accept_keeps hn, ht r hr (not_or.mpr hty)]
  rfl

/-- A write that reaches flash or fuses has its effect there too. -/
theorem updNv_write_takes {ty n : Nat} {pp : Bool} (h : s.dev.passes p key v) (hrow : rowFields key = some (ty, n, pp))
    (hty : ty ≠ 9 ∧ ty ≠ 15) (hs : storesKey key = false) (hn : reachesNv key = true)
    (ht : Takes s.dev.accessed p key v test e) :
    s.updNv (fun d => d.write p key (valueBytes key v) false test) = .next { s with dev := e } := by
  obtain ⟨r, hr, rfl, -, -⟩ := row_of_rowFields hrow
  rw [State.updNv, write_passes test h hr hs, Dev.accept, if_pos hn, ht r hr (not_or.mpr hty)]

end Commands

end Sys2Proof.Proofs
end

