-- ==== Sys2Proof/Proofs/Start.lean ====
section
/-! The staged start, supply, power and plate entries (R30, R35, R38, R303 to R318, R425): each command by the case that its
standing condition leaves. -/

namespace Sys2Proof.Proofs

open Sys2Proof Sys2Proof.Machine Sys2Proof.Laws

/-! ## Supply and links -/

theorem supplyDroop_within {c : Fin 96} {need : Nat} {d : Dev} (h : need ≤ d.rd 0x2200_01) :
    supplyDroop c need d = { d with power := { d.power with atDroop := d.power.atDroop.filter (· ≠ c.val) } } :=
  if_neg (Nat.not_lt.mpr h)

theorem supplyDroop_beyond {c : Fin 96} {need : Nat} {d : Dev} (h : d.rd 0x2200_01 < need) (hc : c.val ∉ d.power.atDroop) :
    supplyDroop c need d =
      (({ d with power := { d.power with atDroop := setAdd c.val d.power.atDroop } } : Dev).bump 0x2205_01).event 0x0340 0 :=
  (if_pos h).trans (if_neg hc)

theorem supplyStop_running {c : Fin 96} {d e : Dev} (he : e = d.overrideOpen 0x0308) (hr : (e.core c).running = true)
    (hn : (e.core c).ended = false) : supplyStop c d = e.stopCore c (e.core c) 0x0308 := by
  subst he
  exact if_pos ⟨hr, by simp [hn]⟩

/-- A word that a compute die receives is charged to that die (R30). -/
theorem linkSource_compute {h : LinkHop} (hr : h.receiver.val < 6) : linkSource h = (0, h.receiver.val) := if_pos hr

/-- Settles O23: a droop by the envelope, the protective stop, and a link's CRC error at a compute die. -/
theorem supplyAndLinks : Obligations.SupplyAndLinks := by
  intro s c
  refine ⟨fun need h => congrArg s.after (supplyDroop_within h), fun need h hc => congrArg s.after (supplyDroop_beyond h hc),
    fun d hd hr hn => congrArg s.after (supplyStop_running hd hr hn), fun h id d hr hd => ?_⟩
  subst hd
  show s.after (linkCrcError h id s.dev) = _
  rw [linkCrcError, linkSource_compute hr]

/-! ## Full resets -/

theorem fullReset_eq (d : Dev) (cause : Nat) (h : BitVec.ofNat 64 cause ≠ BitVec.ofNat 64 (entryDefault 0x2002_01)) :
    d.fullReset cause = d.afterReset cause := by
  simp only [Dev.fullReset, Dev.afterReset, Dev.wr, Dev.inReset, kvPut, if_neg h, kvInsert]

theorem after_fullReset (s : State) {cause : Nat} (h : BitVec.ofNat 64 cause ≠ BitVec.ofNat 64 (entryDefault 0x2002_01)) :
    s.after (s.dev.fullReset cause) = s.after (s.dev.afterReset cause) := by
  rw [fullReset_eq _ _ h]

/-- A reset that a write asks for takes everything with it, the note of the access among it. -/
theorem fullReset_accessed (d : Dev) (cause : Nat) : d.accessed.fullReset cause = d.fullReset cause := by
  simp [Dev.fullReset, Dev.accessed]

/-- Settles O24, by the cause. -/
theorem fullResets : Obligations.FullResets := by
  intro s
  refine ⟨after_fullReset s (by decide), after_fullReset s (by decide), fun hr => ?_, fun p h => ?_, fun hr => ?_,
    after_fullReset s (by decide)⟩
  · rw [← after_fullReset s (by decide)]
    exact congrArg s.after (if_neg hr)
  · rw [← after_fullReset s (by decide), ← fullReset_accessed]
    exact upd_write_takes h (by decide) (takes_alone (by decide) rfl)
  · rw [← after_fullReset s (by decide)]
    exact congrArg s.after (if_pos hr)

end Sys2Proof.Proofs
end

