-- ==== Sys2Proof/Proofs/Chase.lean ====
section
/-! Chase entry (R305 to R307, R331, R444): what it leaves of the device when the parameter store is empty. -/

namespace Sys2Proof.Proofs

open Sys2Proof Sys2Proof.Machine Sys2Proof.Laws

/-! ## What an emergency leaves alone (R337) -/

/-- The entries that an emergency writes: the error history and two counters. -/
def emergencyKey (k : Nat) : Bool := keyIx k = 0x1003 || k = 0x4801_03 || k = 0x4801_04

section Emergency

variable {β : Type} {g : Dev → β} (hw : ∀ d k v, emergencyKey k = true → g (d.wr k v) = g d)
  (ho : ∀ d o, g { d with out := o } = g d) (hh : ∀ d h, g { d with host := h } = g d)
  (hn : ∀ d n, g { d with net := n } = g d)

include hw in
theorem logError_keeps (d : Dev) (status : Nat) : g (d.logError status) = g d := by
  have hk (i : Nat) (hi : i ≤ 16) : emergencyKey (0x1003_00 + i) = true := by
    have hx : keyIx (0x1003_00 + i) = 0x1003 := by unfold keyIx; omega
    simp [emergencyKey, hx]
  have hs (l : List Nat) (hl : ∀ i ∈ l, i < 16) (e : Dev) :
      g (l.foldl (fun d i => d.wr (0x1003_00 + 16 - i) (d.rd (0x1003_00 + 15 - i))) e) = g e := by
    induction l generalizing e with
    | nil => rfl
    | cons i r ih =>
      have h16 : 0x1003_00 + 16 - i = 0x1003_00 + (16 - i) := by have := hl i List.mem_cons_self; omega
      rw [List.foldl_cons, ih (fun j hj => hl j (List.mem_cons_of_mem _ hj)), h16, hw _ _ _ (hk _ (by omega))]
  unfold Dev.logError
  dsimp only
  rw [hw _ _ _ (hk 0 (by omega)), hw _ _ _ (hk 1 (by omega)), hs _ (fun i hi => by have := List.mem_range.mp hi; omega)]

include ho hh in
theorem sendVector_keeps (d : Dev) (v : Nat) : g (d.sendVector v) = g d := by
  unfold Dev.sendVector
  split
  · exact ho _ _
  · exact hh _ _

include hw ho hh hn in
/-- Anything that the error history, the outputs, the vectors and the waiting messages leave alone. -/
theorem emergency_keeps (d : Dev) (status cls source : Nat) : g (d.emergency status cls source) = g d := by
  unfold Dev.emergency
  extract_lets e f
  have he : g e = g d := logError_keeps hw d status
  have hf : g f = g d := by
    show g (if _ then _ else _) = g d
    split
    · rw [sendVector_keeps ho hh, he]
    · exact he
  split
  · split
    · rw [hn, hf]
    · rw [Dev.bump, Dev.bumpBy, hw _ _ _ (by decide), hf]
  · rw [Dev.sendEmcy, Dev.bump, Dev.bumpBy, hw _ _ _ (by decide), hn, Dev.emit, ho, hf]

end Emergency

/-! ## The part of the device that Chase entry must keep from its first write on -/

/-- STAGE, STORE_STATE, bus mastering, device time, local space and what waits of the store. -/
def chaseView (d : Dev) : Run × Nat × List Host.Cell × StartSt × Nat × Nat × Nat :=
  (d.run, d.now, d.mem, d.start, d.rd 0x2000_01, d.rd 0x4811_01, d.rd 0x4000_04)

theorem chaseView_wr (d : Dev) {k : Nat} (v : Nat) (h : k ∉ [0x2000_01, 0x4811_01, 0x4000_04]) :
    chaseView (d.wr k v) = chaseView d := by
  simp only [List.mem_cons, List.not_mem_nil, or_false, not_or] at h
  obtain ⟨h1, h2, h3⟩ := h
  simp [chaseView, rd_wr_other _ _ (Ne.symm h1), rd_wr_other _ _ (Ne.symm h2), rd_wr_other _ _ (Ne.symm h3)]

theorem chaseView_setReady (d : Dev) (b : Nat) (v : Bool) : chaseView (d.setReady b v) = chaseView d :=
  chaseView_wr d _ (by decide)

theorem chaseView_event (d : Dev) (status source : Nat) : chaseView (d.event status source) = chaseView d := by
  refine emergency_keeps (g := chaseView) (fun d k v hk => chaseView_wr d v ?_) (fun _ _ => rfl) (fun _ _ => rfl)
    (fun _ _ => rfl) d status clsEvent source
  intro hm
  simp only [List.mem_cons, List.not_mem_nil, or_false] at hm
  rcases hm with rfl | rfl | rfl <;> exact absurd hk (by decide)

theorem chaseView_pcieBit (d : Dev) : chaseView d.pcieBit = chaseView d := by
  unfold Dev.pcieBit
  split
  · exact chaseView_setReady d _ _
  · rfl

theorem chaseView_followBits (d : Dev) : chaseView d.followBits = chaseView d := by
  unfold Dev.followBits
  split
  · rw [chaseView_setReady, chaseView_setReady]
  · rfl

theorem chaseView_emit (d : Dev) (o : Out) : chaseView (d.emit o) = chaseView d := rfl

theorem chaseView_takeCanSettings (d : Dev) : chaseView d.takeCanSettings = chaseView d := rfl

theorem chaseView_startNets (d : Dev) : chaseView d.startNets = chaseView d := by
  unfold Dev.startNets
  dsimp only
  split
  · rw [chaseView_takeCanSettings, chaseView_setReady]
  · rw [chaseView_emit, chaseView_setReady, chaseView_takeCanSettings, chaseView_setReady]

theorem chaseView_cobDefaults (d : Dev) : chaseView d.cobDefaults = chaseView d := by
  have hs (c : Bool) (k v : Nat) (e : Dev) (hk : k ∉ [0x2000_01, 0x4811_01, 0x4000_04]) :
      chaseView (if c then e else e.wr k v) = chaseView e := by
    split
    · rfl
    · exact chaseView_wr e v hk
  unfold Dev.cobDefaults
  simp only [Dev.each, cobEntries, List.foldl_cons, List.foldl_nil]
  rw [hs _ _ _ _ (by decide), hs _ _ _ _ (by decide), hs _ _ _ _ (by decide)]

/-! ## READY 27 -/

theorem ready_followBits {d : Dev} {b : Nat} (hb : b < 39) : d.followBits.ready b = d.ready b := by
  unfold Dev.followBits
  split
  · rw [ready_setReady_other _ _ (by omega) (by omega), ready_setReady_other _ _ (by omega) (by omega)]
  · rfl

/-- The EtherCAT controller is ready once the networks have started. -/
theorem ready_startNets (d : Dev) : d.startNets.ready 27 = true := by
  have h : (d.setReady 27 true).takeCanSettings.ready 27 = true := ready_setReady_same d true (by decide)
  unfold Dev.startNets
  dsimp only
  split
  · exact h
  · show (Dev.setReady _ 28 true).ready 27 = true
    rw [ready_setReady_other _ _ (by decide) (by decide), h]

/-! ## An empty store -/

theorem dropMarked_of_empty {n : Nv} (h : n.store = []) : n.dropMarked.generation = none := by
  simp [Nv.generation, Nv.dropMarked, h]

/-- Reading an empty store shows STORE_STATE 3. -/
theorem readStore_of_empty {d : Dev} (h : d.nv.store = []) :
    d.readStore = ((d.setNv d.nv.dropMarked).wr 0x4811_04 d.nv.dropMarked.erasesMax).wr 0x4811_01 3 := by
  simp [Dev.readStore, dropMarked_of_empty h]

theorem readRefs_of_none {d : Dev} (h : d.nv.generation = none) : d.readRefs = d := by
  simp [Dev.readRefs, h]

theorem rd_setNv (d : Dev) (n : Nv) (k : Nat) : (d.setNv n).rd k = d.rd k := rfl

/-- Chase entry, up to the values that wait. -/
theorem chaseView_enterChase {d : Dev} (h : d.nv.store = []) :
    chaseView d.enterChase =
      (.on, d.now, d.mem, { d.start with stageTime := d.now }, 1, 3, d.rd 0x4000_04) := by
  have hd : ∀ e : Dev, chaseView (if e.rd 0x4400_06 = 0x0708 then e.event 0x0708 0 else e) = chaseView e := by
    intro e
    split
    · exact chaseView_event e _ _
    · rfl
  unfold Dev.enterChase
  dsimp only
  rw [hd, chaseView_pcieBit, chaseView_setReady, readStore_of_empty (by simpa using h), readRefs_of_none (by
    simpa using dropMarked_of_empty h)]
  simp [chaseView, rd_wr_same]
  refine ⟨?_, ?_⟩
  · rw [rd_setNv, rd_wr_other _ _ (by decide), rd_wr_same]
    rfl
  · rw [rd_setNv, rd_wr_other _ _ (by decide), rd_wr_other _ _ (by decide)]
    rfl

/-- With no value waiting, Chase entry applies none. -/
theorem applyChase_of_none {d : Dev} (h : d.start.later = []) (hd : d.start.laterDom = []) : d.applyChase = d := by
  simp [Dev.applyChase, Dev.waitingKeys, h, hd, Dev.each]

theorem busOn_of_chase {d : Dev} (hr : d.run = .on) (hs : d.stage = 1) : d.busOn = d.on? 0x4000_04 := by
  simp [Dev.busOn, hr, hs]

/-- Settles O26: `chaseView` follows the entry through its writes, READY 27 through the start of the networks. -/
theorem chaseAnswers : Obligations.ChaseAnswers := by
  intro s hb hs hl hld
  have hc := chaseView_enterChase (d := s.dev) hs
  have happ : s.dev.enterChase.applyChase = s.dev.enterChase := by
    have hst : s.dev.enterChase.start = { s.dev.start with stageTime := s.dev.now } := congrArg (fun v => v.2.2.2.1) hc
    exact applyChase_of_none (by rw [hst]; exact hl) (by rw [hst]; exact hld)
  generalize hd : s.dev.enterChase.applyChase.cobDefaults.startNets.followBits = d
  have hv : chaseView d = (.on, s.dev.now, s.dev.mem, { s.dev.start with stageTime := s.dev.now }, 1, 3,
      s.dev.rd 0x4000_04) := by
    rw [← hd, chaseView_followBits, chaseView_startNets, chaseView_cobDefaults, happ, hc]
  simp only [chaseView, Prod.mk.injEq] at hv
  obtain ⟨hrun, hnow, hmem, -, hstage, hstore, hbus⟩ := hv
  have hready : d.ready 27 = true := by rw [← hd, ready_followBits (by decide), ready_startNets]
  have hon : d.busOn = s.dev.on? 0x4000_04 := by rw [busOn_of_chase hrun hstage, Dev.on?, Dev.on?, hbus]
  refine ⟨d, ?_, hrun, hstage, hready, hstore, hnow, hmem⟩
  show Host.Outcome.next { s with dev := chaseEntry s.dev } = _
  rw [chaseEntry, if_pos hb, hd]
  simp only [hon]

end Sys2Proof.Proofs
end

