-- ==== Sys2Proof/Proofs/Dictionary.lean ====
section
/-! The dictionary server (R323 to R326, Table 16-4): the order of the checks, what a taken and a refused write do, and the
entries whose write only stores a value or clears counters. -/

namespace Sys2Proof.Proofs

open Sys2Proof Sys2Proof.Machine Sys2Proof.Laws

/-! ## Keys -/

theorem keyIx_dkey (ix : Nat) {sub : Nat} (h : sub < 256) : keyIx (dkey ix sub) = ix := by unfold keyIx dkey; omega

theorem keySub_dkey (ix : Nat) {sub : Nat} (h : sub < 256) : keySub (dkey ix sub) = sub := by unfold keySub dkey; omega

theorem dkey_inj (ix : Nat) {a b : Nat} (h : dkey ix a = dkey ix b) : a = b := Nat.add_left_cancel h

/-! ## The order of the checks -/

theorem serveCode_of_writeCode {d : Dev} {p : Path} {key c : Nat} {bs : List Byte} {sig : Bool}
    (h : d.writeCode p key bs sig = c) (hc : c ≠ 0) : d.serveCode p key bs sig = c := by
  simp [Dev.serveCode, h, hc]

theorem writeCode_missing {d : Dev} {p : Path} {key : Nat} {bs : List Byte} {sig : Bool} (h : rowOf key = none) :
    d.writeCode p key bs sig = if indexExists (keyIx key) then 0x0609_0011 else 0x0602_0000 := by
  simp only [Dev.writeCode, missing, h]

/-- The checks of a row, with the state's checks last. -/
theorem writeCode_row {d : Dev} {p : Path} {key : Nat} {r : EntryRow} {bs : List Byte} {sig : Bool} (h : rowOf key = some r) :
    d.writeCode p key bs sig =
      if !r.rw then 0x0601_0002 else if lengthCode key r bs.length ≠ 0 then lengthCode key r bs.length
      else if r.paired && !pairOk (ofLe bs) then 0x0800_0020 else d.stateCode p key r bs sig := by
  simp only [Dev.writeCode, h]

/-- In a stage that an entry is not writable in, the state's checks fail at once. -/
theorem stateCode_of_stage {d : Dev} {p : Path} {key : Nat} {r : EntryRow} {bs : List Byte} {sig : Bool}
    (h : d.stageOk r = false) : d.stateCode p key r bs sig = 0x0800_0022 := by
  simp [Dev.stateCode, h]

/-- Settles O45, check by check. -/
theorem writesAreChecked : Obligations.WritesAreChecked := by
  intro d p key bs sig
  refine ⟨fun h hi => serveCode_of_writeCode ?_ (by decide), fun h hi => serveCode_of_writeCode ?_ (by decide), fun r hr =>
    ⟨fun hw => serveCode_of_writeCode ?_ (by decide), fun hw hl hp ho => serveCode_of_writeCode ?_ (by decide),
      fun hw hl hp hst => serveCode_of_writeCode ?_ (by decide)⟩⟩
  · simp [writeCode_missing h, hi]
  · simp [writeCode_missing h, hi]
  · simp [writeCode_row hr, hw]
  · simp [writeCode_row hr, hw, hl, hp, ho]
  · have hpaired : (r.paired && !pairOk (ofLe bs)) = false := by rcases hp with hp | hp <;> simp [hp]
    simp [writeCode_row hr, hw, hl, hpaired, stateCode_of_stage hst]

/-! ## A write that is taken, and one that is refused -/

theorem write_taken {d : Dev} {p : Path} {key : Nat} {r : EntryRow} {bs : List Byte} {sig test : Bool} (h : d.run = .on)
    (hr : rowOf key = some r) (hc : d.serveCode p key bs sig = 0) :
    d.write p key bs sig test = (if storesKey key then d else d.accessed).accept p key r bs test := by
  simp only [Dev.write, h, hc, hr, ne_eq, not_true_eq_false, if_false]

/-- The free value of an open key is drawn before the write. -/
theorem writeOpen_eq {d e : Dev} {p : Path} {key : Nat} {bs : List Byte} {ok : Bool} (hs : d.spent key = e)
    (hf : d.flagOf key bs = ok) : d.writeOpen p key bs = e.write p key bs ok ok := by
  rw [Dev.writeOpen, hs, hf]

theorem spent_run (d : Dev) (key : Nat) : (d.spent key).run = d.run := by
  unfold Dev.spent
  split <;> rfl

/-- Settles O44: the key says whether a free value is drawn, and the checks whether the write has its effect. -/
theorem dictionaryWrites : Obligations.DictionaryWrites := by
  intro s p ix sub bs d ok htoken hplain hopen
  have hdok : s.dev.spent (dkey ix sub) = d ∧ s.dev.flagOf (dkey ix sub) bs = ok := by
    by_cases ho : openKey (dkey ix sub) = true
    · obtain ⟨rfl, rfl⟩ := hopen ho
      have hk : dkey ix sub ≠ 0x4406_02 := fun hk => absurd (hk ▸ ho) (by decide)
      exact ⟨if_pos ho, by simp [Dev.flagOf, hk, ho]⟩
    · have hno : openKey (dkey ix sub) = false := by simpa using ho
      have hspent : s.dev.spent (dkey ix sub) = s.dev := if_neg ho
      by_cases hk : dkey ix sub = 0x4406_02
      · obtain ⟨rfl, rfl⟩ := htoken hk
        exact ⟨hspent, if_pos hk⟩
      · obtain ⟨rfl, rfl⟩ := hplain hk hno
        exact ⟨hspent, by simp [Dev.flagOf, hk, hno]⟩
  obtain ⟨hd, hok⟩ := hdok
  have hrun : d.run = s.dev.run := hd ▸ spent_run s.dev _
  have hexec : exec (.dictionaryWrite p ix sub bs) s = .next { s with dev := (d.write p (dkey ix sub) bs ok ok).close } := by
    rw [← writeOpen_eq hd hok]
    rfl
  refine ⟨fun r hr hrow hc => ?_, fun code e hr hc hne he => ?_, fun hr => ?_⟩
  · have hw := write_taken (test := ok) (hrun.trans hr) hrow hc
    refine ⟨fun hs => ?_, fun hs => ?_⟩
    · rw [hexec, hw, if_neg (by simp [hs])]
    · rw [hexec, hw, if_pos hs]
  · subst hc
    have hw := write_fails (test := ok) (hrun.trans hr) hne
    rw [hexec, hw, Dev.refuseWrite, ← he]
    exact ⟨fun hp => by rw [if_neg hp], fun hp => by rw [if_pos hp]⟩
  · have hoff : d.run ≠ .on := fun h => hr (hrun.symm.trans h)
    rw [hexec, write_silent hoff, Dev.close, if_neg (fun h => hoff h.1)]

/-! ## The abort record -/

theorem refusalStatus_freq (d : Dev) (p : Path) (code : Nat) : d.refusalStatus p 0x2201_01 code = d := by
  simp [Dev.refusalStatus, chanEntry, axisEntry, keyIx]

theorem rd_emit (d : Dev) (o : Out) (k : Nat) : (d.emit o).rd k = d.rd k := rfl

theorem rd_abort (d : Dev) (p : Path) (key code k : Nat) :
    (d.abort p key code).rd k = (((d.bump 0x4801_01).wr 0x4801_06 code).wr 0x4801_07 key).rd k := by
  rw [Dev.abort, rd_emit, Dev.noteAbort]
  exact rd_congr (by rfl) k

theorem rd_abort_code (d : Dev) (p : Path) (key code : Nat) : (d.abort p key code).rd 0x4801_06 = code % 2 ^ 64 := by
  rw [rd_abort, rd_wr_other _ _ (by decide), rd_wr_same]

theorem rd_abort_entry (d : Dev) (p : Path) (key code : Nat) : (d.abort p key code).rd 0x4801_07 = key % 2 ^ 64 := by
  rw [rd_abort, rd_wr_same]

theorem rd_abort_other (d : Dev) (p : Path) (key code : Nat) {k : Nat} (h1 : k ≠ 0x4801_01) (h6 : k ≠ 0x4801_06)
    (h7 : k ≠ 0x4801_07) : (d.abort p key code).rd k = d.rd k := by
  rw [rd_abort, rd_wr_other _ _ h7, rd_wr_other _ _ h6, rd_bump_other _ h1]

section

variable (d : Dev) (p : Path) (key code : Nat)

theorem abort_dom : (d.abort p key code).dom = d.dom := by simp [Dev.abort, Dev.noteAbort, Dev.emit]

theorem abort_perVal : (d.abort p key code).perVal = d.perVal := by simp [Dev.abort, Dev.noteAbort, Dev.emit]

theorem abort_mem : (d.abort p key code).mem = d.mem := by simp [Dev.abort, Dev.noteAbort, Dev.emit]

theorem abort_out : (d.abort p key code).out = d.out ++ [.sdoAbort p key code] := by simp [Dev.abort, Dev.noteAbort, Dev.emit]

end

theorem rd_refuseWrite {d : Dev} {p : Path} {key code k : Nat} (h : p = .mailbox → k ≠ 0x4801_09) :
    (d.refuseWrite p key code).rd k = ((d.refusalStatus p key code).abort p key code).rd k := by
  unfold Dev.refuseWrite
  dsimp only
  split
  · exact rd_wr_other _ _ (h ‹_›)
  · rfl

/-- Settles O46: a refusal on FREQ_REQUEST leaves no status of its own, so the abort record is all that changes; a mailbox
request that is refused is an access besides. -/
theorem refusedWritesChangeNothing : Obligations.RefusedWritesChangeNothing := by
  intro s p v code hr hc hne
  subst hc
  generalize hcode : s.dev.serveCode p 0x2201_01 (valueBytes 0x2201_01 v) false = code at hne
  have hexec : exec (.freqRequest p v) s = s.after (s.dev.refuseWrite p 0x2201_01 code) := by
    rw [← hcode, ← write_fails (test := false) hr (by rw [hcode]; exact hne)]
    rfl
  have hf : s.dev.refuseWrite p 0x2201_01 code =
      if p = .mailbox then (s.dev.abort p 0x2201_01 code).accessed else s.dev.abort p 0x2201_01 code := by
    rw [Dev.refuseWrite, refusalStatus_freq]
  have hrd (k : Nat) (hk : p = .mailbox → k ≠ 0x4801_09) :
      (s.dev.refuseWrite p 0x2201_01 code).rd k = (s.dev.abort p 0x2201_01 code).rd k := by
    rw [rd_refuseWrite hk, refusalStatus_freq]
  have hkeep {β : Type} (g : Dev → β) (hg : ∀ d k v, g (d.wr k v) = g d) :
      g (s.dev.refuseWrite p 0x2201_01 code) = g (s.dev.abort p 0x2201_01 code) := by
    rw [hf]
    split
    · exact hg _ _ _
    · rfl
  refine ⟨_, hexec, (hrd _ (fun _ => by decide)).trans (rd_abort_code _ _ _ _),
    (hrd _ (fun _ => by decide)).trans (rd_abort_entry _ _ _ _),
    fun k h1 h6 h7 h9 => (hrd k h9).trans (rd_abort_other _ _ _ _ h1 h6 h7), ?_, ?_, ?_, ?_⟩
  · exact (hkeep Dev.dom (fun _ _ _ => rfl)).trans (abort_dom _ _ _ _)
  · exact (hkeep Dev.perVal (fun _ _ _ => rfl)).trans (abort_perVal _ _ _ _)
  · exact (hkeep Dev.mem (fun _ _ _ => rfl)).trans (abort_mem _ _ _ _)
  · exact (hkeep Dev.out (fun _ _ _ => rfl)).trans (abort_out _ _ _ _)

/-! ## Entries that are set one after the other -/

/-- Every entry of a list takes its value. -/
def wrAll (key val : Nat → Nat) (l : List Nat) (d : Dev) : Dev := l.foldl (fun d i => d.wr (key i) (val i)) d

theorem rd_wrAll_other {key val : Nat → Nat} {l : List Nat} {k : Nat} (d : Dev) (h : ∀ i ∈ l, k ≠ key i) :
    (wrAll key val l d).rd k = d.rd k := by
  induction l generalizing d with
  | nil => rfl
  | cons i r ih =>
    exact (ih _ (fun j hj => h j (List.mem_cons_of_mem _ hj))).trans (rd_wr_other _ _ (h i List.mem_cons_self))

theorem rd_wrAll_mem {key val : Nat → Nat} {l : List Nat} {j : Nat} (d : Dev) (hinj : ∀ i, key i = key j → i = j) (hj : j ∈ l) :
    (wrAll key val l d).rd (key j) = val j % 2 ^ 64 := by
  induction l generalizing d with
  | nil => exact absurd hj List.not_mem_nil
  | cons i r ih =>
    by_cases hr : j ∈ r
    · exact ih _ hr
    · have hij : j = i := (List.mem_cons.mp hj).resolve_right hr
      subst hij
      exact (rd_wrAll_other _ (fun i hi hk => hr (hinj i hk.symm ▸ hi))).trans (rd_wr_same _ _ _)

theorem statClear_eq (slot : Nat) (d : Dev) : statClear slot d =
    wrAll (fun i => dkey (0x2440 + slot) (i + 1)) (fun i => entryDefault (dkey (0x2440 + slot) (i + 1))) (List.range 9) d := rfl

theorem historyClear_eq (d : Dev) : historyClear d = wrAll (dkey 0x1003) (fun _ => 0) (List.range 17) d := rfl

theorem rd_accessed {d : Dev} {k : Nat} (h : k ≠ 0x4801_09) : d.accessed.rd k = d.rd k := rd_wr_other _ _ h

/-! ## Entries whose write stores a value or clears counters -/

theorem rd_with_nv (d : Dev) (n : Nv) (k : Nat) : ({ d with nv := n } : Dev).rd k = d.rd k := rfl

/-- An entry of no group that keeps one value for each path. -/
theorem takes_path {d : Dev} {p : Path} {key v : Nat} {test : Bool} (hv : v < 256 ^ entrySize key)
    (hp : (rowOf key).any (·.perPath) = true) (ha : aloneKeys.contains key = false) (hu : d.effectUnits p key v = none)
    (he : d.effectEnable key v = none) (hr : d.effectRuns p key v = none) :
    Takes d p key v test ((d.wrPath p key v).afterKeep key (valueBytes key v)) := by
  intro r hrow hy
  rw [hrow, Option.any_some] at hp
  rw [effect_plain hy hv (effectAlone_none ha) hu he hr, keep_value hy hv, if_pos hp]

theorem clearKey_row (i : Fin 2) : rowFields (dkey 0x2403 (i.val + 1)) = some (27, 8, false) := by decide +revert

theorem statKey (slot : Fin 64) (h : slot.val ≠ 0) : byteKey (dkey (0x2440 + slot.val) 10) = true := by
  decide +kernel +revert

theorem sizeKey_row (i : Fin 7) : rowFields (dkey 0x4101 (i.val + 1)) = some (27, 8, false) := by decide +kernel +revert

theorem selectKey_row : rowFields 0x4812_01 = some (7, 4, true) := by decide +kernel

theorem clearKey_ordinary (i : Fin 2) : ordinaryKey (dkey 0x2403 (i.val + 1)) = true := by decide +revert

theorem sizeKey_ordinary (i : Fin 7) : ordinaryKey (dkey 0x4101 (i.val + 1)) = true := by decide +revert

/-- An entry outside the indices of channels and axes has no effect of theirs. -/
theorem effectUnits_none {d : Dev} {p : Path} {key v : Nat} (h : keyIx key < 0x3000 ∨ 0x3800 ≤ keyIx key) :
    d.effectUnits p key v = none := by
  have hc (off sub : Nat) : chanEntry key off sub = false := by
    simp only [chanEntry, Bool.and_eq_false_iff, decide_eq_false_iff_not]; omega
  have ha (off sub : Nat) : axisEntry key off sub = false := by
    simp only [axisEntry, Bool.and_eq_false_iff, decide_eq_false_iff_not]; omega
  simp [Dev.effectUnits, hc, ha]

theorem effectEnable_none {d : Dev} {key v : Nat} (h : keySub key ≠ 11) : d.effectEnable key v = none := if_pos h

section

variable {s : State} {p : Path}

theorem exec_coreCounterClear (i : Fin 2) (h : s.dev.passes p (dkey 0x2403 (i.val + 1)) 0) :
    exec (.coreCounterClear p (i.val + 1) 0) s = s.after (s.dev.accessed.wr (dkey 0x2403 (i.val + 1)) 0) := by
  obtain ⟨ha, hst, hn⟩ := of_ordinaryKey (clearKey_ordinary i)
  obtain ⟨hk, hsz, hp⟩ := entry_of_rowFields (clearKey_row i) (by decide) hst hn
  have hv : 0 < 256 ^ entrySize (dkey 0x2403 (i.val + 1)) := by rw [hsz]; decide
  have hix : keyIx (dkey 0x2403 (i.val + 1)) = 0x2403 := keyIx_dkey _ (by omega)
  have hsub : keySub (dkey 0x2403 (i.val + 1)) = i.val + 1 := keySub_dkey _ (by omega)
  refine upd_write_takes h hk (takes_plain hv hp ha (effectUnits_none (by omega)) (effectEnable_none (by omega)) ?_ ?_)
  · simp [Dev.effectRuns, hix]
  · have hbits : ¬(dkey 0x2403 (i.val + 1) = 0x2000_04 ∨ dkey 0x2403 (i.val + 1) = 0x2000_05) := by unfold dkey; omega
    simp [Dev.afterKeep, axisEntry, hix, hbits]

theorem exec_statSlotClear {slot : Fin 64} (h0 : slot.val ≠ 0) (h : s.dev.passes p (dkey (0x2440 + slot.val) 10) 1) :
    exec (.statSlotClear p slot 1) s = s.after (statClear slot.val s.dev.accessed) := by
  obtain ⟨hk, hv, ha⟩ := of_byteKey (statKey slot h0) (v := 1) (by decide)
  have hix : keyIx (dkey (0x2440 + slot.val) 10) = 0x2440 + slot.val := keyIx_dkey _ (by decide)
  have hsub : keySub (dkey (0x2440 + slot.val) 10) = 10 := keySub_dkey _ (by decide)
  refine upd_write_takes h hk (takes_runs hv ha (effectUnits_none (by omega)) (effectEnable_none (by omega)) ?_)
  have hrange : 0x2441 ≤ 0x2440 + slot.val ∧ 0x2440 + slot.val ≤ 0x247F := by omega
  simp [Dev.effectRuns, hix, hsub, hrange]

theorem exec_errorHistoryClear (h : s.dev.passes p 0x1003_00 0) :
    exec (.errorHistoryClear p 0) s = s.after (historyClear s.dev.accessed) :=
  upd_write_takes h (by decide) (takes_alone (by decide) rfl)

theorem exec_describeSelect {v : Nat} (hv : v < 2 ^ 32) (h : s.dev.passes p 0x4812_01 v) :
    exec (.describeSelect p v) s = s.after (s.dev.accessed.wrPath p 0x4812_01 v) := by
  obtain ⟨hk, hsz, hp⟩ := entry_of_rowFields selectKey_row (by decide) (by decide) (by decide)
  have hfit : v < 256 ^ entrySize 0x4812_01 := by rw [hsz]; omega
  refine (upd_write_takes h hk (takes_path hfit hp (by decide) (effectUnits_none (by decide))
    (effectEnable_none (by decide)) ?_)).trans (congrArg s.after ?_)
  · simp [Dev.effectRuns, keyIx]
  · simp [Dev.afterKeep, axisEntry, keyIx]

theorem valueBytes_eight {key : Nat} (h : entrySize key = 8) (raw : Val) : valueBytes key raw.toNat = leBytes 8 raw.toNat := by
  rw [valueBytes, h, if_pos (show raw.toNat < 256 ^ 8 from raw.isLt)]

theorem exec_ddrLayoutSizeWrite (i : Fin 7) {raw : Val} (h : s.dev.passes p (dkey 0x4101 (i.val + 1)) raw.toNat) :
    exec (.ddrLayoutSizeWrite p (i.val + 1) raw) s =
      s.closing (s.dev.accessed.wr (dkey 0x4101 (i.val + 1)) raw.toNat).layoutFix := by
  obtain ⟨ha, hst, hn⟩ := of_ordinaryKey (sizeKey_ordinary i)
  obtain ⟨hk, hsz, hp⟩ := entry_of_rowFields (sizeKey_row i) (by decide) hst hn
  have hix : keyIx (dkey 0x4101 (i.val + 1)) = 0x4101 := keyIx_dkey _ (by omega)
  have hsub : keySub (dkey 0x4101 (i.val + 1)) = i.val + 1 := keySub_dkey _ (by omega)
  have hv : raw.toNat < 256 ^ entrySize (dkey 0x4101 (i.val + 1)) := by rw [hsz]; exact raw.isLt
  show s.upd (fun d => (d.write p (dkey 0x4101 (i.val + 1)) (leBytes 8 raw.toNat) false false).close) = _
  rw [← valueBytes_eight hsz raw]
  refine upd_write_close_takes h hk (takes_plain hv hp ha (effectUnits_none (by omega)) (effectEnable_none (by omega)) ?_ ?_)
  · simp [Dev.effectRuns, hix]
  · simp [Dev.afterKeep, hix]

end

/-- Settles O43: what each of the five writes does, and what its entries read afterwards. -/
theorem valuesAndCounters : Obligations.ValuesAndCounters := by
  intro s p
  refine ⟨fun i h => exec_coreCounterClear i h, fun slot h0 h => ⟨_, exec_statSlotClear h0 h, fun i h1 h9 => ?_, fun k hk hi => ?_⟩,
    fun h => ⟨_, exec_errorHistoryClear h, fun i hi => ?_, fun k hk hi => ?_⟩, fun v hv h => exec_describeSelect hv h,
    fun i raw h => exec_ddrLayoutSizeWrite i h⟩
  · obtain ⟨j, rfl⟩ : ∃ j, i = j + 1 := ⟨i - 1, by omega⟩
    rw [rd_with_nv, statClear_eq]
    exact rd_wrAll_mem (j := j) _ (fun _ b => by have := dkey_inj _ b; omega) (List.mem_range.mpr (by omega))
  · rw [rd_with_nv, statClear_eq, rd_wrAll_other _ (fun i hi' => hi (i + 1) (by omega) (by have := List.mem_range.mp hi'; omega)),
      rd_accessed hk]
  · rw [rd_with_nv, historyClear_eq]
    exact rd_wrAll_mem (j := i) _ (fun _ b => dkey_inj _ b) (List.mem_range.mpr (by omega))
  · rw [rd_with_nv, historyClear_eq, rd_wrAll_other _ (fun i hi' => hi i (by have := List.mem_range.mp hi'; omega)), rd_accessed hk]

end Sys2Proof.Proofs
end

