-- ==== Sys2Proof/Proofs/Stages.lean ====
section
/-! Proof, Press and the work of frames, slots and ticks (R36, R38, R126 to R129, R296 to R302, R308 to R318, R334, R425). -/

namespace Sys2Proof.Proofs

open Sys2Proof Sys2Proof.Machine Sys2Proof.Laws

/-! ## Proof -/

section Proof

variable {d : Dev}

theorem proofEntryBase_of (spd : List (Fin 8 × Spd)) (hr : d.run = .on) (hs : d.stage = 1) :
    proofEntryBase spd d = d.enterProof spd := if_pos ⟨hr, hs⟩

theorem ddrTrainingDone_passed {x : Nat} (ho : d.channelOpen x = true) (hx : x ∉ d.ddrTrained) :
    ddrTrainingDone x true d = { d with ddrTrained := setAdd x d.ddrTrained } := by
  rw [ddrTrainingDone, if_pos ⟨ho, by simpa using hx⟩, if_pos rfl]

theorem ddrTrainingDone_failed {x : Nat} (ho : d.channelOpen x = true) (hx : x ∉ d.ddrTrained) :
    ddrTrainingDone x false d = ((d.setFailed (12 + x)).emergency 0x0450 clsLasting x).layoutFix := by
  rw [ddrTrainingDone, if_pos ⟨ho, by simpa using hx⟩, if_neg (by decide), Dev.channelFails]

theorem ddrMemoryTestDone_passed {x : Nat} (n : Nat) (ho : d.channelOpen x = true) (hx : x ∈ d.ddrTrained) :
    ddrMemoryTestDone x true n d =
      ({ d.bumpBy (dkey 0x4105 (x + 1)) n with ddrPassed := setAdd x (d.bumpBy (dkey 0x4105 (x + 1)) n).ddrPassed } : Dev).layoutFix := by
  rw [ddrMemoryTestDone, if_pos ⟨ho, by simpa using hx⟩]
  exact if_pos rfl

theorem functionStart_of {fn : StartFn} (hr : d.run = .on) (hs : d.stage = 2) (hf : fnBit fn ∉ d.start.fnsStarted) :
    functionStart fn d =
      Dev.setReady { d with start := { d.start with fnsStarted := setAdd (fnBit fn) d.start.fnsStarted } } (fnBit fn) true :=
  if_pos ⟨hr, .inl hs, by simpa using hf⟩

end Proof

/-- Settles O27, start by start. -/
theorem proofStarts : Obligations.ProofStarts := by
  intro s
  refine ⟨fun spd hr hs => ?_, fun n f hn => after_close (if_pos hn), fun x ho hx => ⟨?_, ?_⟩,
    fun x n ho hx => ?_,
    fun fn hr hs hf => ?_⟩
  · rw [← proofEntryBase_of spd hr hs]
    rfl
  · rw [← ddrTrainingDone_passed ho hx]
    rfl
  · rw [← ddrTrainingDone_failed ho hx]
    rfl
  · rw [← ddrMemoryTestDone_passed n ho hx]
    rfl
  · rw [← functionStart_of hr hs hf]
    rfl

/-! ## Stage targets -/

theorem stage_accessed_wr_target (d : Dev) (v : Nat) : (d.accessed.wr 0x2000_02 v).stage = d.stage := by
  rw [Dev.stage, rd_wr_other _ _ (by decide), rd_accessed (by decide), Dev.stage]

theorem targetProofDo_elsewhere {d : Dev} (h : d.stage ≠ 3) : targetProofDo d.accessed = d.accessed.wr 0x2000_02 2 :=
  if_neg (by rw [stage_accessed_wr_target]; exact h)

/-- In Press with no adaptation run on, the leave is marked. -/
theorem targetProofDo_press {d : Dev} (h : d.stage = 3) (hr : d.rd 0x3E12_02 ≠ 1) :
    targetProofDo d.accessed = (d.accessed.wr 0x2000_02 2).wr 0x2000_06 1 := by
  have hrun : (d.accessed.wr 0x2000_02 2).rd 0x3E12_02 ≠ 1 := by
    rw [rd_wr_other _ _ (by decide), rd_accessed (by decide)]; exact hr
  exact (if_pos (by rw [stage_accessed_wr_target]; exact h)).trans (if_neg hrun)

section Targets

variable {s : State} {p : Path}

theorem exec_targetStageProof (h : s.dev.passes p 0x2000_02 2) (hn : (targetProofDo s.dev.accessed).nv = s.dev.nv) :
    exec (.targetStageProof p) s = s.after (targetProofDo s.dev.accessed).close :=
  upd_write_close_takes_of_nv h (by decide) (takes_alone (by decide) rfl) hn

theorem exec_targetStagePress (h : s.dev.passes p 0x2000_02 3) :
    exec (.targetStagePress p) s = s.after (targetPressDo s.dev.accessed).close :=
  upd_write_close_takes_of_nv h (by decide) (takes_alone (by decide) rfl) rfl

end Targets

/-- Settles O28: TARGET_STAGE by the stage it is written in, and the entry into Press. -/
theorem stageTargets : Obligations.StageTargets := by
  intro s p
  refine ⟨fun h hs => ?_, fun h hs hr => ?_, fun h => exec_targetStagePress h, fun hr hs ht hc =>
    after_close (if_pos ⟨hr, hs, ht, hc⟩)⟩
  · have ht := targetProofDo_elsewhere hs
    rw [exec_targetStageProof h (by rw [ht]; rfl), ht]
  · have ht := targetProofDo_press hs hr
    rw [exec_targetStageProof h (by rw [ht]; rfl), ht]

/-! ## Frames and slots -/

theorem frameBegins_of {d : Dev} (temps : TempsIn) (h : d.inPress = true) :
    frameBegins temps d = ((d.startFrame.sampleTemps temps).applyLater).takeSnapshot := by
  rw [frameBegins, if_pos h, frameStart, if_pos h]

theorem endSlot_idle {d : Dev} {c : Fin 96} (h : (d.core c).running = false ∨ (d.core c).ended = true) :
    d.endSlot c = d.idleCore c := by
  have hn : ¬((d.core c).running = true ∧ (!(d.core c).ended) = true) := by
    rcases h with h | h <;> simp [h]
  simp only [Dev.endSlot, if_neg hn]

/-- Settles O29. The order at a frame start, effects, stored values, snapshot, is the model's reading (log entry 43). -/
theorem framesAndSlots : Obligations.FramesAndSlots := by
  intro s hp
  refine ⟨fun temps => congrArg s.after (frameBegins_of temps hp), rfl, fun c n e scrub he => ⟨fun h => ?_, fun hr hn => ?_⟩⟩
  · rw [exec_slotStart scrub hp he, endSlot_idle h]
  · rw [exec_slotStart scrub hp he, endSlot_unended hr hn]

/-! ## The 1 ms tick -/

/-- Every die has been scrubbed. -/
def scrubDies (d : Dev) (scrub : ScrubIn) : Dev := (List.range 6).foldl (fun d n => d.scrubDie n (d.rd 0x2301_01) scrub) d

theorem tick_of {d : Dev} (scrub : ScrubIn) (temps : TempsIn) (hr : d.run = .on) (hs : d.stage ≤ 2) :
    tick scrub temps d = ((if (scrubDies d scrub).stage = 2
      then ((scrubDies d scrub).patrol scrub).refreshWork scrub.dram else scrubDies d scrub).sampleTemps temps).takeSnapshot := by
  rw [tick, if_pos ⟨hr, hs⟩, backgroundTick, if_pos ⟨hr, hs⟩]
  rfl

/-- Settles O30. That the snapshot closes the tick is the model's reading (log entry 43). -/
theorem backgroundTicks : Obligations.BackgroundTicks := by
  intro s scrub temps d hr hd
  have hd' : scrubDies s.dev scrub = d := hd.symm
  refine ⟨fun hs hds => ?_, fun hs hds => ?_⟩
  · refine congrArg s.after ((tick_of scrub temps hr (by omega)).trans ?_)
    rw [hd', if_neg (by omega)]
  · refine congrArg s.after ((tick_of scrub temps hr (by omega)).trans ?_)
    rw [hd', if_pos hds]

/-! ## Thermal and power loops -/

theorem thermalPointUp_of {d : Dev} (h : d.tjStep ≤ d.tjMax) (hf : d.power.thermal < d.floorPoint) : thermalPointUp d =
    (({ d with power := { d.power with thermal := d.power.thermal + 1, atThermal := false } } : Dev).loopPoint).thermalEdge := by
  simp [thermalPointUp, h, hf]

theorem powerPointUp_of {d : Dev} (hc : d.capMw ≠ 0) (h : d.capMw < d.rd 0x2204_02) (hf : d.power.power < d.floorPoint) :
    powerPointUp d =
      (({ d with power := { d.power with power := d.power.power + 1, atPower := false } } : Dev).loopPoint).powerEdge := by
  simp [powerPointUp, hc, h, hf]

/-- Settles O31, loop by loop. -/
theorem thermalAndPowerLoops : Obligations.ThermalAndPowerLoops := by
  intro s
  refine ⟨fun h hf => congrArg s.after (thermalPointUp_of h hf), fun h hp => congrArg s.after (if_pos ⟨h, hp⟩),
    fun hc h hf => congrArg s.after (powerPointUp_of hc h hf), fun h hp => congrArg s.after (if_pos ⟨h, hp⟩),
    fun h => congrArg s.after (if_pos h), fun rails temps d hd => ?_, fun rails => rfl, fun die => rfl⟩
  subst hd
  rfl

/-! ## Frequency, plate set and suspect entries -/

/-- Settles O32: each write has its entry's effect; ACTIVATE_AREA by whether the device is in Press. -/
theorem plateEntries : Obligations.PlateEntries := by
  intro s p
  have hfit (v : Fin 3) : v.val < 256 ^ entrySize 0x2201_01 := by decide +revert
  have harea (v : Fin 2) : v.val < 256 ^ entrySize 0x2503_01 := by decide +revert
  refine ⟨fun v h => upd_write_takes h (by decide) (takes_alone (hfit v) rfl), fun v t h hs => ?_, fun v t h hs => ?_,
    fun h => upd_write_close_takes h (by decide) (takes_alone (by decide) rfl)⟩
  · exact upd_write_close_takes h (by decide) (takes_alone (harea v) (congrArg some (if_neg hs)))
  · exact upd_write_close_takes h (by decide) (takes_alone (harea v) (congrArg some (if_pos hs)))

end Sys2Proof.Proofs
end

