-- ==== Sys2Proof/Proofs/Axes.lean ====
section
/-! Axes (R162 to R180, R442): line steps, pulses and resumes, what fails an axis, and its entries. -/

namespace Sys2Proof.Proofs

open Sys2Proof Sys2Proof.Machine Sys2Proof.Laws

/-! ## Steps, resumes and pulses -/

section Moves

variable {d : Dev} {ax : Nat}

theorem lineStep_of (h : d.stepping ax = true) :
    lineStep ax d = (if (d.taking ax).any d.spaceLow then d.withhold ax else d.takeStep ax).fiAll := if_pos h

theorem axisResume_of (h : d.axState ax = 4) (hr : (d.retrySheet ax).roomBack ax = true)
    (hn : ((d.retrySheet ax).axis ax).need = 0) : axisResume ax d = ((d.retrySheet ax).startAxis ax true).fiAll :=
  (if_pos h).trans (if_pos ⟨hr, hn⟩)

theorem reservationResume_of (h : d.axState ax = 5) (hn : ((d.retrySheet ax).axis ax).need = 0) :
    reservationResume ax d = ((d.retrySheet ax).startAxis ax false).fiAll := (if_pos h).trans (if_pos hn)

theorem stallEvent_of (h : d.axState ax = 4) (hs : (d.axis ax).stallRaised = false) :
    stallEvent ax d = (d.updAxis ax (fun a => { a with stallRaised := true })).axisStatus ax 0x0227 :=
  if_pos ⟨h, by simp [hs]⟩

/-- What a pulse of a free axis comes to, once POSITION and the ramp index have moved (R166). -/
theorem freeAxisPulse_of {k : Nat} {pos : Int} {e : Dev} (hr : d.run = .on) (h2 : d.aget ax 0 1 = 2) (h1 : 1 ≤ d.axState ax)
    (h3 : d.axState ax ≤ 3) (hk : k = d.nextIndex ax)
    (hp : pos = if (d.axis ax).forward then d.rdInt (akey ax 3 3) + 1 else d.rdInt (akey ax 3 3) - 1)
    (he : e = ((d.wrp (akey ax 3 3) (unsigned 32 pos)).emit (.stepPulse ax)).updAxis ax
      (fun a => { a with rest := false, index := k })) :
    freeAxisPulse ax d =
      if (d.axis ax).decel ∧ (d.axis ax).reason = 3 then (if k = 0 then e.stopAxis ax 3 else e.setAxState ax 3)
      else if (signed 32 (d.axis ax).goal - pos).natAbs = 0 then
        (e.updAxis ax (fun a => { a with rest := true, index := 0, decel := false, reason := 0 })).setAxState ax 0
      else if (signed 32 (d.axis ax).goal - pos).natAbs ≤ k then e.decelerate ax 0
      else e.setAxState ax (e.movingState ax k) := by
  subst hk hp he
  rw [freeAxisPulse, if_pos ⟨hr, h2, h1, h3⟩]

end Moves

/-- Settles O33. That a free axis decelerates as soon as the pulses left are no more than its ramp index is the model's
reading of R166 (log entry 58). -/
theorem axesMove : Obligations.AxesMove := by
  intro s ax
  refine ⟨fun h hs => congrArg s.after ?_, fun h hs => congrArg s.after ?_,
    fun h hr hn => congrArg s.after (axisResume_of h hr hn), fun h hn => congrArg s.after (reservationResume_of h hn),
    fun h hs => congrArg s.after (stallEvent_of h hs), fun hr ds level => congrArg s.after (if_pos hr),
    fun k pos d hr h2 h1 h3 hk hp hd => ?_⟩
  · rw [lineStep_of h, if_neg (by simp [hs])]
  · rw [lineStep_of h, if_pos hs]
  · have hpulse := freeAxisPulse_of hr h2 h1 h3 hk hp hd
    have hnone {b : Bool} {q : Prop} (hb : b = false) : ¬(b = true ∧ q) := fun h => by simp [hb] at h
    refine ⟨fun hb hreason => congrArg s.after ?_, fun hb hgoal => congrArg s.after ?_, fun hb hgoal hle => congrArg s.after ?_,
      fun hb hlt => congrArg s.after ?_⟩
    · rw [hpulse, if_pos ⟨hb, hreason⟩]
    · rw [hpulse, if_neg (hnone hb), if_pos (by omega)]
    · rw [hpulse, if_neg (hnone hb), if_neg (by omega), if_pos hle]
    · rw [hpulse, if_neg (hnone hb), if_neg (by omega), if_neg (by omega)]

/-! ## What fails an axis -/

section Fails

variable {d : Dev} {ax : Nat}

theorem jam_of {e : Nat} {es : List Nat} (he : (d.axis ax).edges = e :: es) (hp : d.onPath ax = true)
    (hf : (d.front ax).isSome = true) (hd : d.aget ax 0 10 ≠ 255)
    (hl : e + d.aget ax 0 11 + d.rdp (akey ax 2 2) ≤ d.lineSteps ax) : jam ax d = d.jammed ax 0x0223 := by
  simp only [jam, he]
  exact if_pos ⟨hp, hf, hd, hl⟩

/-- One coupled channel with a document too long is enough. -/
theorem longDocumentJam_of {ch n : Nat} (hp : d.onPath ax = true) (hc : ch ∈ d.coupled ax) (hn : (d.chan ch).longSteps = some n)
    (hl : d.rdp (akey ax 2 3) ≤ n) : longDocumentJam ax d = d.jammed ax 0x0228 := by
  unfold longDocumentJam
  exact if_pos ⟨hp, List.any_eq_true.mpr ⟨ch, hc, by simp [hn, hl]⟩⟩

end Fails

/-- Settles O34, by what fails. -/
theorem axesFail : Obligations.AxesFail := by
  intro s ax
  exact ⟨fun e es he hp hf hd hl => after_close (jam_of he hp hf hd hl),
    fun ch n hp hc hn hl => after_close (longDocumentJam_of hp hc hn hl),
    fun hr => after_close (if_pos hr), rfl,
    fun ht hs => after_close (if_pos ⟨ht, hs⟩)⟩

/-! ## Entries of an axis -/

theorem axisEnableKey (ax : Fin 4) : byteKey (akey ax.val 0 15) = true ∧ chanEntry (akey ax.val 0 15) 0 9 = false ∧
    chanEntry (akey ax.val 0 15) 7 2 = false ∧ axisEntry (akey ax.val 0 15) 0 15 = true ∧ axisNo (akey ax.val 0 15) = ax.val := by
  decide +kernel +revert

theorem goKey (ax : Fin 4) : byteKey (akey ax.val 3 2) = true ∧ chanEntry (akey ax.val 3 2) 0 9 = false ∧
    chanEntry (akey ax.val 3 2) 7 2 = false ∧ axisEntry (akey ax.val 3 2) 0 15 = false ∧
    axisEntry (akey ax.val 3 2) 3 2 = true ∧ axisNo (akey ax.val 3 2) = ax.val := by
  decide +kernel +revert

theorem clearSafeKey (ax : Fin 4) : byteKey (akey ax.val 4 2) = true ∧ chanEntry (akey ax.val 4 2) 0 9 = false ∧
    chanEntry (akey ax.val 4 2) 7 2 = false ∧ axisEntry (akey ax.val 4 2) 0 15 = false ∧
    axisEntry (akey ax.val 4 2) 3 2 = false ∧ axisEntry (akey ax.val 4 2) 4 2 = true ∧ axisNo (akey ax.val 4 2) = ax.val := by
  decide +kernel +revert

section Effects

variable {d : Dev} {p : Path} {v : Nat} {test : Bool}

theorem takes_axisEnable (ax : Fin 4) (hv : v < 256) : Takes d p (akey ax.val 0 15) v test
    (if v = 1 then d.axisEnableDo ax.val else d.axisDisableDo ax.val) := by
  obtain ⟨hb, h1, h2, h3, hax⟩ := axisEnableKey ax
  obtain ⟨-, hfit, ha⟩ := of_byteKey hb hv
  exact takes_units hfit ha (by simp [Dev.effectUnits, h1, h2, h3, hax])

theorem takes_go (ax : Fin 4) (hv : v < 256) : Takes d p (akey ax.val 3 2) v test (d.goDo ax.val) := by
  obtain ⟨hb, h1, h2, h3, h4, hax⟩ := goKey ax
  obtain ⟨-, hfit, ha⟩ := of_byteKey hb hv
  exact takes_units hfit ha (by simp [Dev.effectUnits, h1, h2, h3, h4, hax])

theorem takes_clearSafe (ax : Fin 4) (hv : v < 256) : Takes d p (akey ax.val 4 2) v test (d.clearSafeDo ax.val) := by
  obtain ⟨hb, h1, h2, h3, h4, h5, hax⟩ := clearSafeKey ax
  obtain ⟨-, hfit, ha⟩ := of_byteKey hb hv
  exact takes_units hfit ha (by simp [Dev.effectUnits, h1, h2, h3, h4, h5, hax])

end Effects

section

variable {d e : Dev} {ax : Nat}

theorem axisDisableDo_rest (he : e = (d.clearLatched ax).wr (akey ax 0 15) 0) (hs : e.axState ax ≠ 6)
    (hr : (e.axis ax).rest = true) : d.axisDisableDo ax = (e.enterSafe ax false).fiAll := by
  subst he
  simp only [Dev.axisDisableDo, if_neg hs, if_pos hr]

theorem axisDisableDo_moving (he : e = (d.clearLatched ax).wr (akey ax 0 15) 0) (hs : e.axState ax ≠ 6)
    (hr : (e.axis ax).rest = false) : d.axisDisableDo ax = (e.decelerate ax 3).fiAll := by
  subst he
  simp only [Dev.axisDisableDo, if_neg hs, hr, Bool.false_eq_true, if_false]

end

/-- Settles O35: each write by its entry's effect; ENABLE 0 by whether the axis rests, GO by whether it is at TARGET. -/
theorem axisEntries : Obligations.AxisEntries := by
  intro s p ax
  have henable := valueKey_of_byteKey (axisEnableKey ax).1
  refine ⟨fun h => upd_write_close_takes h henable (takes_axisEnable ax (by decide)), fun h d hd hs => ⟨fun hr => ?_, fun hr => ?_⟩,
    fun h => upd_write_close_takes h (valueKey_of_byteKey (clearSafeKey ax).1) (takes_clearSafe ax (by decide)),
    fun h d hd => ⟨fun hat => ?_, fun hat fwd hf => ?_⟩⟩
  · refine (upd_write_close_takes h henable (takes_axisEnable ax (by decide))).trans (congrArg s.closing ?_)
    exact (if_neg (by decide)).trans (axisDisableDo_rest hd hs hr)
  · refine (upd_write_close_takes h henable (takes_axisEnable ax (by decide))).trans (congrArg s.closing ?_)
    exact (if_neg (by decide)).trans (axisDisableDo_moving hd hs hr)
  · refine (upd_write_takes h (valueKey_of_byteKey (goKey ax).1) (takes_go ax (by decide))).trans (congrArg s.after ?_)
    subst hd
    exact if_pos hat
  · refine (upd_write_takes h (valueKey_of_byteKey (goKey ax).1) (takes_go ax (by decide))).trans (congrArg s.after ?_)
    subst hd hf
    exact if_neg hat

end Sys2Proof.Proofs
end

