-- ==== Sys2Proof/Proofs/Scan.lean ====
section
/-! Scan channels (R130, R139, R149, R157, R160): lines, truncations, ENABLE and REF_STORE. -/

namespace Sys2Proof.Proofs

open Sys2Proof Sys2Proof.Machine Sys2Proof.Laws

theorem channelEnableKey (ch : Fin 4) : byteKey (ckey ch.val 0 9) = true ∧ chanEntry (ckey ch.val 0 9) 0 9 = true ∧
    chanNo (ckey ch.val 0 9) = ch.val := by
  decide +kernel +revert

theorem refStoreKey (ch : Fin 4) : rowFields (ckey ch.val 7 2) = some (5, 1, false) ∧ chanEntry (ckey ch.val 7 2) 0 9 = false ∧
    chanEntry (ckey ch.val 7 2) 7 2 = true ∧ chanNo (ckey ch.val 7 2) = ch.val ∧ reachesNv (ckey ch.val 7 2) = false ∧
    aloneKeys.contains (ckey ch.val 7 2) = false := by
  decide +kernel +revert

section

variable {d e : Dev} {p : Path} {v : Nat} {test : Bool}

theorem takes_channelEnable (ch : Fin 4) (hv : v < 256) : Takes d p (ckey ch.val 0 9) v test
    (if v = 1 then d.channelEnableDo ch.val else d.channelDisableDo ch.val) := by
  obtain ⟨hb, h1, hch⟩ := channelEnableKey ch
  obtain ⟨-, hfit, ha⟩ := of_byteKey hb hv
  exact takes_units hfit ha (by simp [Dev.effectUnits, h1, hch])

theorem exec_refStore {s : State} (ch : Fin 4) (h : s.dev.passes p (ckey ch.val 7 2) 1) :
    exec (.refStore p ch 1) s = s.after (refStoreDo p ch.val s.dev) := by
  obtain ⟨hrow, h1, h2, hch, hn, ha⟩ := refStoreKey ch
  obtain ⟨-, -, -, -, hsz⟩ := row_of_rowFields hrow
  have hs : storesKey (ckey ch.val 7 2) = true := by simp [storesKey, h2]
  have hfit : 1 < 256 ^ entrySize (ckey ch.val 7 2) := by rw [hsz]; decide
  exact upd_write_stores h hrow (by decide) hs hn (takes_units hfit ha (by simp [Dev.effectUnits, h1, h2, hch]))

theorem scanLineComplete_of {ch : Nat} (line : LineIn) (hr : d.run = .on) (ht : d.takes ch = true) :
    scanLineComplete ch line d = ((pageTruncated ch d).takeLine ch line).fiAll := if_pos ⟨hr, ht⟩

theorem pageTruncated_of {ch : Nat} (h : d.truncationDue ch = true) :
    pageTruncated ch d = ((d.endAtStored ch 0x0209).updChan ch (fun c => { c with longSteps := some 0 })).fiAll := if_pos h

theorem channelEnableDo_off {ch n : Nat} (h : d.chanOn ch = false)
    (hn : n = match d.axisOf ch with | some ax => (d.axis ax).edges.length | none => 0) :
    d.channelEnableDo ch = ((((d.wr (ckey ch 0 9) 1).updChan ch (fun c =>
      { c with lineNo := 0, trigs := [], lastGood := none, held := [], clear := false,
               inPage := false, skipping := false, stops := 0, makeready := none, wantMakeready := false,
               firstGap := true, unres := n, longSteps := none, ringChecked := false })).modeAtGap ch).gapBegins ch).fiAll := by
  subst hn
  exact if_neg (by simp [h])

theorem channelDisableDo_off {ch : Nat} (h : d.chanOn ch = false) : d.channelDisableDo ch = d.wr (ckey ch 0 9) 0 :=
  if_pos (by simp [h])

/-- A channel that is on is cut, and its axis, where it has one, forgets its sheets. -/
theorem channelDisableDo_on {ch : Nat} (h : d.chanOn ch = true)
    (he : e = ((d.cutPage ch).wr (ckey ch 0 9) 0).updChan ch (fun c =>
      { c with held := [], skipping := false, inPage := false, makeready := none, wantMakeready := false, longSteps := none,
               unres := 0 })) :
    (e.axisOf ch = none → d.channelDisableDo ch = e.fiAll) ∧
    ∀ ax, e.axisOf ch = some ax → d.channelDisableDo ch = Dev.fiAll (e.updAxis ax (fun a =>
      { a with sheets := dropItems ch a.sheets, edges := if e.coupledOn ax = [] then [] else a.edges })) := by
  subst he
  refine ⟨fun hx => ?_, fun ax hx => ?_⟩
  all_goals
    rw [Dev.channelDisableDo, if_neg (by simp [h])]
    simp only [hx]

end

/-- Settles O36. That ENABLE 0 cuts a page at its last stored line and that REF_STORE occupies the parameter store are the
model's readings (log entries 22 and 46). -/
theorem scanChannels : Obligations.ScanChannels := by
  intro s p ch
  have henable := valueKey_of_byteKey (channelEnableKey ch).1
  refine ⟨fun line hr ht => after_close (scanLineComplete_of line hr ht),
    fun h => after_close (pageTruncated_of h), fun h hoff n hn => ?_, fun h hon d hd => ?_,
    fun h hoff => ?_, fun h => exec_refStore ch h⟩
  · refine (upd_write_close_takes h henable (takes_channelEnable ch (by decide))).trans (congrArg s.closing ?_)
    exact (if_pos rfl).trans (channelEnableDo_off hoff hn)
  · have hdo := channelDisableDo_on hon hd
    have hexec : exec (.channelDisable p ch) s = s.closing (s.dev.accessed.channelDisableDo ch.val) :=
      (upd_write_close_takes h henable (takes_channelEnable ch (by decide))).trans (congrArg s.closing (if_neg (by decide)))
    exact ⟨fun hx => by rw [hexec, hdo.1 hx], fun ax hx => by rw [hexec, hdo.2 ax hx]⟩
  · refine (upd_write_close_takes h henable (takes_channelEnable ch (by decide))).trans (congrArg s.closing ?_)
    exact (if_neg (by decide)).trans (channelDisableDo_off hoff)

end Sys2Proof.Proofs
end

