-- ==== Sys2Proof/Proofs/Text.lean ====
section
/-! Geometry Units, slugs and the Text Unit (R15, R194, R226, R227, R238, R239, R248, R260, R293, R443). -/

namespace Sys2Proof.Proofs

open Sys2Proof Sys2Proof.Machine Sys2Proof.Laws

/-! ## Geometry, migrations, rows and cut-offs -/

section

variable {d : Dev}

theorem geometryFormeRun_of {u : Nat} {f : Forme} {pg : Nat × Nat} {r : List (Nat × Nat)} {p : PageSide} (hf : d.unitForme u = some f)
    (hp : f.pages = pg :: r) (hq : d.page? pg.1 pg.2 = some p) : geometryFormeRun u d = d.runGeometry f p := by
  simp only [geometryFormeRun, hf, hp, hq]

/-- A migration that meets no DDR5 error has met nothing. -/
theorem ddrMet_clean : d.ddrMet ⟨[], none⟩ = d := by
  simp [Dev.ddrMet, Dev.each]

theorem migrate_toDdr {n a l b : Nat} (hw : slugWordOk (d.slugWord n) = true) (hst : (d.slugAt n).state = 1)
    (hp : (d.slugAt n).pool = 1) (hm : ∀ m ∈ d.slug.moves, m.1 ≠ n) (ha : d.slotAddr 1 (d.slugAt n).loc = some a)
    (hl : d.freeLoc 2 = some l) (hb : d.slotAddr 2 l = some b) {e : Dev}
    (he : e = (d.copyRow 4 a b (d.formBytes (d.slugAt n))).bump 0x3C02_04) :
    d.migrate n .toDdr = { e with slug := { e.slug with moves := e.slug.moves ++ [(n, 2, l)] } } := by
  have hmoves : d.slug.moves.all (fun m => m.1 ≠ n) = true := by simpa using hm
  subst he
  simp only [Dev.migrate, hw, hst, hp, hmoves, ddrMet_clean, decide_true, if_true, Bool.not_true, Bool.false_eq_true, if_false,
    and_self, Option.isSome_none, false_and, or_self, ha, hl, hb]

theorem textRowProcess_of {row i : Nat} {f : FountIn} {x : SeqSt} {e : Dev}
    (hi : d.dueSeqs.find? (fun i => (d.seqEnt i).row = row && d.dueSeqs.all (fun j => !d.rowBefore j i)) = some i)
    (hc : (d.stepOf i).find? (fun j => !(kvGet SeqSt.init d.seqs j).checked && !d.rowCandsOk j) = none)
    (he : e = d.checkStep i) (hx : x = kvGet SeqSt.init e.seqs i) (hf : e.fount? (textReqOf x.request).fount = some f) :
    textRowProcess row d = e.takeToken i x (textReqOf x.request) f
      (if (textReqOf x.request).grammar = 255 then none else e.grammar? (textReqOf x.request).grammar) := by
  subst hx he
  simp only [textRowProcess, hi, hc, hf]

theorem decodeCutoff_open {i : Nat} (hl : d.liveSeqs.contains i = true) (h2 : (d.seqEnt i).state ≠ 2)
    (h3 : (d.seqEnt i).state ≠ 3) : decodeCutoff i d = d.cutSeq i := by
  rw [decodeCutoff, if_neg (by rw [hl]; decide)]
  exact if_neg (by simp [h2, h3])

theorem decodeCutoff_running {i : Nat} (hl : d.liveSeqs.contains i = true) (h2 : (d.seqEnt i).state = 2) :
    decodeCutoff i d = { d with seqs := kvPut SeqSt.init d.seqs i { kvGet SeqSt.init d.seqs i with cut := true } } := by
  rw [decodeCutoff, if_neg (by rw [hl]; decide)]
  exact if_pos (.inl h2)

theorem layoutCutoff_of {r n : Nat} {p : PageSide} (hp : d.page? r n = some p) (hb : p.bare = none) (hg : p.group = none)
    (hd : p.geometryDone = false) : layoutCutoff r n d =
      (d.bumpBy 0x2100_05 (d.formes.filter (fun f => f.kind ≤ 2 && f.pages.contains (r, n))).length).barePage p 0x0331 := by
  simp [layoutCutoff, hp, hb, hg, hd]

theorem structuringCutoff_of {r n : Nat} {p : PageSide} (hp : d.page? r n = some p) (hb : p.bare = none) (hg : p.group = none) :
    structuringCutoff r n d = d.barePage p 0x0332 := by
  simp [structuringCutoff, hp, hb, hg]

end

/-- Settles O37. The lowest free place of a migrated slug is the model's choice (log entry 20). -/
theorem geometrySlugsAndText : Obligations.GeometrySlugsAndText := by
  intro s
  refine ⟨fun u f pg r p hf hp hq => after_close (geometryFormeRun_of hf hp hq),
    fun n a l b hw hst hp hm ha hl hb => congrArg s.after (migrate_toDdr hw hst hp hm ha hl hb rfl),
    fun row i f d x hi hc hd hx hf => after_close (textRowProcess_of hi hc hd hx hf),
    fun i hl h2 h3 => after_close (decodeCutoff_open hl h2 h3),
    fun i hl h2 => after_close (decodeCutoff_running hl h2), fun r n p hp hb hg =>
      ⟨fun hd => after_close (layoutCutoff_of hp hb hg hd),
        after_close (structuringCutoff_of hp hb hg)⟩⟩

/-! ## UNLOAD and TEXT_CLEAR -/

theorem fountUnloadKey (k : Fin 8) : byteKey (fountKey k.val 7) = true := by decide +kernel +revert

theorem grammarUnloadKey (g : Fin 32) : byteKey (grammarKey g.val 7) = true := by decide +kernel +revert

section

variable {d e : Dev} {p : Path} {v : Nat} {test : Bool}

theorem takes_fountUnload (k : Fin 8) (hv : v < 256) :
    Takes d p (fountKey k.val 7) v test (fountUnloadDo k.val d).followBits := by
  obtain ⟨-, hfit, ha⟩ := of_byteKey (fountUnloadKey k) hv
  have hix : keyIx (fountKey k.val 7) = 0x3A10 + k.val := keyIx_dkey _ (by decide)
  have hsub : keySub (fountKey k.val 7) = 7 := keySub_dkey _ (by decide)
  refine takes_runs hfit ha (effectUnits_none (by omega)) (effectEnable_none (by omega)) ?_
  have hrange : 0x3A10 ≤ 0x3A10 + k.val ∧ 0x3A10 + k.val < 0x3A18 := by omega
  have hstat : ¬(0x3A10 + k.val ≤ 0x247F) := by omega
  simp [Dev.effectRuns, hix, hsub, hrange, hstat]

theorem takes_grammarUnload (g : Fin 32) (hv : v < 256) :
    Takes d p (grammarKey g.val 7) v test (grammarUnloadDo g.val d).followBits := by
  obtain ⟨-, hfit, ha⟩ := of_byteKey (grammarUnloadKey g) hv
  have hix : keyIx (grammarKey g.val 7) = 0x3A20 + g.val := keyIx_dkey _ (by decide)
  have hsub : keySub (grammarKey g.val 7) = 7 := keySub_dkey _ (by decide)
  refine takes_runs hfit ha (effectUnits_none (by omega)) (effectEnable_none (by omega)) ?_
  have hrange : 0x3A20 ≤ 0x3A20 + g.val ∧ 0x3A20 + g.val < 0x3A40 := by omega
  have hstat : ¬(0x3A20 + g.val ≤ 0x247F) := by omega
  have hfount : ¬(0x3A20 + g.val < 0x3A18) := by omega
  simp [Dev.effectRuns, hix, hsub, hrange, hstat, hfount]

end

/-- Settles O38: each write by its entry's effect. -/
theorem textEntries : Obligations.TextEntries := by
  intro s p
  refine ⟨fun k h d hd => ?_, fun g h d hd => ?_, fun h => upd_write_takes h (by decide) (takes_alone (by decide) rfl)⟩
  · subst hd
    exact upd_write_close_takes h (valueKey_of_byteKey (fountUnloadKey k)) (takes_fountUnload k (by decide))
  · subst hd
    exact upd_write_close_takes h (valueKey_of_byteKey (grammarUnloadKey g)) (takes_grammarUnload g (by decide))

end Sys2Proof.Proofs
end

