-- ==== Sys2Proof/Proofs/Batch.lean ====
section
/-! Image decodes, the adaptation run and commits (R265 to R285, R440). -/

namespace Sys2Proof.Proofs

open Sys2Proof Sys2Proof.Machine Sys2Proof.Laws

/-! ## Image decodes -/

section Decodes

variable {d e : Dev} {n : Nat} {x : Decode}

theorem imageDecodeStart_of {img : ImageIn} {ring seq desc : Nat} {rest : List (Nat × Nat)} {k : Nat} {job : Option (Nat × Nat)}
    (hb : d.busOn = true) (hi : d.batch.images = (ring, seq) :: rest) (hk : d.freeEngine = some k)
    (hj : job = (d.page? ring seq).bind (·.job)) (hd : desc = ((job.bind (fun j => d.entry? j.1 j.2)).map (·.desc)).getD 0)
    (hx : x = ⟨k, ring, seq, boundImage desc img, d.now, max (8 * meanOf d.batch.times) 2000000, false, false, job⟩)
    (he : e = (Dev.bump { d with batch := { d.batch with images := rest, decodes := d.batch.decodes ++ [x] } }
      0x3E01_01).updPage ring seq (fun p => { p with engine := some k })) :
    (∀ q, e.picture x = some q → imageDecodeStart img d = e.reserveImage x q) ∧
    (e.picture x = none → imageDecodeStart img d = e.failDecode x 0x0811 0x3E01_04) := by
  subst he hx hd hj
  refine ⟨fun q hq => ?_, fun hq => ?_⟩
  all_goals simp only [imageDecodeStart, hb, hi, hk, hq]

theorem decodeDeferred_late (hx : d.decodeAt n = some x) (hd : x.deferred = false) (hb : x.start + x.budget ≤ d.now) :
    decodeDeferred n d = ((d.setDecodes (updIf (fun y => y.engine = n) (fun y => { y with deferred := true }) d.batch.decodes)).bump
      0x3E01_02).updPage x.ring x.seq (fun p => { p with deferred := true }) := by
  simp only [decodeDeferred, hx]
  exact if_neg (by simp [hd, hb])

theorem decodeDeferred_same (hx : d.decodeAt n = some x) (h : x.deferred = true ∨ d.now < x.start + x.budget) :
    decodeDeferred n d = d := by
  simp only [decodeDeferred, hx]
  exact if_pos h

theorem decodeAbandoned_late (hx : d.decodeAt n = some x) (hd : x.deferred = true)
    (hb : x.start + d.rdp 0x3E01_06 * 1000000 ≤ d.now) : decodeAbandoned n d = d.failDecode x 0x0812 0x3E01_03 := by
  simp only [decodeAbandoned, hx]
  exact if_pos ⟨hd, hb⟩

theorem decodeAbandoned_same (hx : d.decodeAt n = some x) (h : x.deferred = true → d.now < x.start + d.rdp 0x3E01_06 * 1000000) :
    decodeAbandoned n d = d := by
  simp only [decodeAbandoned, hx]
  exact if_neg (fun hc => absurd (h hc.1) (by omega))

/-- A decode that ends within its time is neither deferred nor abandoned by its end. -/
theorem imageDecodeComplete_of {q : Pic} {pg : PageSide} (hx : d.decodeAt n = some x) (hw : x.waits = false)
    (hq : d.picture x = some q) (hp : d.page? x.ring x.seq = some pg) (hb : pg.bare = none)
    (ht : x.deferred = false ∧ d.now < x.start + x.budget ∨ x.deferred = true ∧ d.now < x.start + d.rdp 0x3E01_06 * 1000000) :
    imageDecodeComplete n d =
      (((d.countDecode x).setDecodes (d.batch.decodes.filter (fun y => y.engine ≠ n))).placeImage x pg q).completeJob x.job 0
        x.seq := by
  have hdef : decodeDeferred n d = d := decodeDeferred_same hx (ht.elim (fun h => .inr h.2) (fun h => .inl h.1))
  have hab : decodeAbandoned n d = d := decodeAbandoned_same hx (fun h => ht.elim (fun c => by simp [h] at c) (fun c => c.2))
  simp only [imageDecodeComplete, hdef, hab, hx, hw, hq, hp, hb, Option.isSome_none, Bool.false_eq_true, if_false]

end Decodes

/-- Settles O39. Counting at the start and placing all rows at the end are the model's readings (log entries 54 and 55). -/
theorem imageDecodes : Obligations.ImageDecodes := by
  intro s e
  refine ⟨fun img ring n rest k hb hi hk job desc x d hj hd hx he => ?_, fun x q pg hx hw hq hp hb ht =>
    after_close (imageDecodeComplete_of hx hw hq hp hb ht),
    fun x hx hd hb => after_close (decodeDeferred_late hx hd hb),
    fun x hx hd hb => after_close (decodeAbandoned_late hx hd hb)⟩
  have h := imageDecodeStart_of hb hi hk hj hd hx he
  exact ⟨fun q hq => after_close (h.1 q hq),
    fun hq => after_close (h.2 hq)⟩

/-! ## The adaptation run -/

section Adaptation

variable {d e : Dev}

theorem adaptStartDo_of (hr : d.rd 0x3E12_02 = 0) (he : e = (((d.wr 0x3E12_01 1).wr 0x3E12_02 1).wr 0x3E12_03 0).failImport)
    (h1 : e.rdp 0x3E10_01 ≠ 0) (h3 : e.rdp 0x3E10_03 ≠ 0) : adaptStartDo d =
      { e with batch := { e.batch with pos := 0, step := 1, skips := 0, mom := [], working := [], lastParity := 0 } } := by
  subst he
  rw [adaptStartDo, if_neg (by omega)]
  exact if_neg (not_or.mpr ⟨h1, h3⟩)

theorem adaptStopDo_running (hr : d.rd 0x3E12_02 = 1) (hf : d.formes.any (fun f => f.kind = 9 && f.group.isSome) = false) :
    adaptStopDo d = d.runEnds 0 := by
  rw [adaptStopDo, if_pos hr, if_neg (by simp [hf])]

theorem adaptBatchBuild_of (times : List Nat) (hr : d.rd 0x3E12_02 = 1) (hb : d.building.isSome = true) :
    adaptBatchBuild times d = (d.each times Dev.considerSample).passSkips (2 * d.rdp 0x3E10_01 + 1) := by
  rw [adaptBatchBuild, if_neg (not_not.mpr hr), if_pos (.inl hb)]

theorem sampleOverBudget_of {b : Batch} (he : e = d.passSkips (2 * d.rdp 0x3E10_01 + 1)) (hb : e.building = some b)
    (hr : e.rd 0x3E12_02 = 1) : sampleOverBudget d = e.slowSample b e.nextSample := by
  subst he
  simp only [sampleOverBudget, hb, hr]

end Adaptation

/-- Settles O40: RUN 1 and RUN 0, a batch from the samples considered, a sample over its budget, and PUBLISH. -/
theorem adaptationRuns : Obligations.AdaptationRuns := by
  intro s p
  refine ⟨fun h d hd hr e he h1 h3 => ?_, fun h hr hf => ?_,
    fun times hr hb => after_close (adaptBatchBuild_of times hr hb),
    fun d b hd hb hr => after_close (sampleOverBudget_of hd hb hr),
    fun h => upd_write_takes h (by decide) (takes_alone (by decide) rfl)⟩
  · subst hd
    exact (upd_write_close_takes h (by decide) (takes_alone (by decide) rfl)).trans
      (congrArg s.closing ((if_pos rfl).trans (adaptStartDo_of hr he h1 h3)))
  · exact (upd_write_close_takes h (by decide) (takes_alone (by decide) rfl)).trans
      (congrArg s.closing ((if_neg (by decide)).trans (adaptStopDo_running hr hf)))

/-! ## Commits -/

theorem mayCommit_of {d : Dev} {f : Forme} (hg : f.group.isSome = true) (hl : f.framesLeft ≤ 1) (hf : f.fault = 0)
    (ht : d.tagsDone f.id = true) (hr : f.kind = 2 → f.ran = true) : d.mayCommit f = true := by
  by_cases hk : f.kind = 2
  · simp [Dev.mayCommit, hg, hl, hf, ht, hr hk]
  · simp [Dev.mayCommit, hg, hl, hf, ht, hk]

theorem formeCommit_of {d : Dev} {id : Nat} {f : Forme} {res : CommitIn} (hid : d.forme? id = some f) (hm : d.mayCommit f = true)
    (hb : d.badBoxes f res = false) :
    formeCommit id res d = (((d.dropForme id).queueFolds id).commitKind f res).bump 0x2100_03 := by
  simp [formeCommit, hid, hm, hb]

/-- Settles O41. -/
theorem formesCommit : Obligations.FormesCommit := by
  intro s id f res hid hg hl hf ht hr hb
  exact after_close (formeCommit_of hid (mayCommit_of hg hl hf ht hr) hb)

end Sys2Proof.Proofs
end

