-- ==== Sys2Proof/Proofs/HostSide.lean ====
section
/-! The host side (R304, R341 to R345, R354 to R360, R444, Tables 17-1, 17-8): the endpoint, host words, reads, messages, enables
and BAR2. -/

namespace Sys2Proof.Proofs

open Sys2Proof Sys2Proof.Machine Sys2Proof.Laws

/-! ## The endpoint -/

section Endpoint

variable {d : Dev}

theorem pcieLinkChange_up (gen width : Nat) (hr : d.run ≠ .held) : pcieLinkChange true gen width d =
    Dev.pcieBit ((Dev.wr { d with host := { d.host with linkUp := true } } 0x4000_02 gen).wr 0x4000_03 width) := by
  simp only [pcieLinkChange, if_neg hr, Bool.not_true, Bool.and_false, Bool.false_and, Bool.false_eq_true, if_false, if_true]

theorem on_wr_same (d : Dev) (key : Nat) (v : Nat) (hv : v < 2 ^ 64) : (d.wr key v).on? key = decide (v ≠ 0) := by
  rw [Dev.on?, rd_wr_same, Nat.mod_eq_of_lt hv]

theorem stage_wr_master (d : Dev) (v : Nat) : (d.wr 0x4000_04 v).stage = d.stage := rd_wr_other _ _ (by decide)

theorem busMasterEnable_off (hr : d.run ≠ .held) : busMasterEnable false d = d.wr 0x4000_04 0 := by
  have hoff : (d.wr 0x4000_04 0).busOn = false := by simp [Dev.busOn, on_wr_same]
  rw [busMasterEnable, if_neg hr]
  exact if_neg (by simp [flag, hoff])

/-- Bus mastering goes on without effect where the part does not answer to the host (R343, R444). -/
theorem busMasterEnable_unanswered (hr : d.run ≠ .held) (hs : ¬(d.run = .on ∧ d.stage ≤ 3)) :
    busMasterEnable true d = d.wr 0x4000_04 1 := by
  have hoff : (d.wr 0x4000_04 1).busOn = false := by
    simp only [Dev.busOn, wr_run, stage_wr_master]
    by_cases h1 : d.run = .on
    · have h3 : ¬(d.stage ≤ 3) := fun h => hs ⟨h1, h⟩
      simp [h3]
    · simp [h1]
  rw [busMasterEnable, if_neg hr]
  exact if_neg (by simp [flag, hoff])

theorem busMasterEnable_on (hr : d.run = .on) (hs : d.stage ≤ 3) : busMasterEnable true d = (d.wr 0x4000_04 1).sendOwed := by
  have hon : (d.wr 0x4000_04 1).busOn = true := by simp [Dev.busOn, stage_wr_master, on_wr_same, hr, hs]
  rw [busMasterEnable, if_neg (by rw [hr]; decide)]
  exact if_pos hon

end Endpoint

/-- Settles O42: PERST_N and the resets by the level, bus mastering by whether the part answers to the host. -/
theorem pcieSide : Obligations.PcieSide := by
  intro s
  refine ⟨fun hr => ?_, ?_, fun hr => after_close (if_neg hr),
    fun hr gen width => after_close (pcieLinkChange_up gen width hr),
    fun hr => congrArg s.after (busMasterEnable_off hr), fun hr hs => congrArg s.after (busMasterEnable_unanswered hr hs),
    fun hr hs => congrArg s.after (busMasterEnable_on hr hs)⟩
  · show s.after (perstN true s.dev).close = _
    rw [perstN, if_pos ⟨rfl, hr⟩]
  · show s.after (perstN false s.dev).close = _
    rw [perstN, if_neg (by simp)]

/-! ## Host words and reads -/

section Reads

variable {d : Dev} {w : HostReadOf}

theorem hostReadCompletion_first (h : ∀ r ∈ d.host.reads, r.what ≠ w) : hostReadCompletion w d =
    { d with host := { d.host with reads := d.host.reads ++ [⟨w, 1, d.now + 1000000⟩] } } := by
  have hany : ¬(d.host.reads.any (fun r => r.what = w) = true) := by simpa using h
  exact if_neg hany

/-- A retry is counted; what it leaves depends on its outcome and on its number (R360). -/
theorem hostReadRetry_of {r : HostRead} {e : Dev} {others : List HostRead} (hr : d.host.reads.find? (fun q => q.what = w) = some r)
    (he : e = d.bump 0x4000_08) (ho : others = d.host.reads.filter (fun q => q.what ≠ w)) :
    hostReadRetry w none d = { e with host := { e.host with reads := others } } ∧
    (∀ f, r.tries < 2 → hostReadRetry w (some f) d =
      { e with host := { e.host with reads := others ++ [⟨w, r.tries + 1, e.now + 1000000⟩] } }) ∧
    ∀ f, 2 ≤ r.tries → hostReadRetry w (some f) d = e.failRead w := by
  subst he ho
  refine ⟨?_, fun f ht => ?_, fun f ht => ?_⟩
  · simp only [hostReadRetry, hr, bump_host]
  · simp only [hostReadRetry, hr, bump_host]
    exact if_neg (by omega)
  · simp only [hostReadRetry, hr]
    exact if_pos ht

end Reads

/-- Settles O53: a poll's three passes, a first failure, and a retry by its outcome and its number. -/
theorem hostWords : Obligations.HostWords := by
  intro s
  refine ⟨fun hb x => after_close (if_pos hb),
    fun w f h => congrArg s.after (hostReadCompletion_first h), fun w r hr d others hd ho => ?_⟩
  obtain ⟨hnone, hfew, hmany⟩ := hostReadRetry_of hr hd ho
  exact ⟨after_close hnone, fun f ht => after_close (hfew f ht),
    fun f ht => after_close (hmany f ht)⟩

/-! ## Messages, enables, pass-through and BAR2 -/

theorem ringEnableKey (r : Fin 16) : byteKey (dkey (0x4030 + r.val) 11) = true := by decide +kernel +revert

theorem listEnableKey (n : Fin 16) : byteKey (dkey (0x4010 + n.val) 11) = true := by decide +kernel +revert

section Enables

variable {d : Dev} {p : Path} {test : Bool}

theorem takes_ringEnable (r : Fin 16) (h : d.on? (dkey (0x4030 + r.val) 11) = false) :
    Takes d p (dkey (0x4030 + r.val) 11) 1 test (ringEnableDo r.val (d.wr (dkey (0x4030 + r.val) 11) 1)) := by
  obtain ⟨-, hfit, ha⟩ := of_byteKey (ringEnableKey r) (v := 1) (by decide)
  have hix : keyIx (dkey (0x4030 + r.val) 11) = 0x4030 + r.val := keyIx_dkey _ (by decide)
  have hsub : keySub (dkey (0x4030 + r.val) 11) = 11 := keySub_dkey _ (by decide)
  have hrange : ¬(0x4030 + r.val < 0x4020) ∧ 0x4030 ≤ 0x4030 + r.val ∧ 0x4030 + r.val < 0x4040 := by omega
  exact takes_enable hfit ha (effectUnits_none (by omega)) (by simp [Dev.effectEnable, hix, hsub, hrange, h])

theorem takes_listEnable (n : Fin 16) (h : d.on? (dkey (0x4010 + n.val) 11) = false) :
    Takes d p (dkey (0x4010 + n.val) 11) 1 test (jobListEnableDo n.val (d.wr (dkey (0x4010 + n.val) 11) 1)) := by
  obtain ⟨-, hfit, ha⟩ := of_byteKey (listEnableKey n) (v := 1) (by decide)
  have hix : keyIx (dkey (0x4010 + n.val) 11) = 0x4010 + n.val := keyIx_dkey _ (by decide)
  have hsub : keySub (dkey (0x4010 + n.val) 11) = 11 := keySub_dkey _ (by decide)
  have hrange : 0x4010 ≤ 0x4010 + n.val ∧ 0x4010 + n.val < 0x4020 := by omega
  exact takes_enable hfit ha (effectUnits_none (by omega)) (by simp [Dev.effectEnable, hix, hsub, hrange, h])

/-- The counter and the start of a ring whose pages wait are kept, others start from zero. -/
theorem ringEnableDo_eq (r : Fin 16) : ringEnableDo r.val d =
    ((d.setRing r.val (if d.pages.any (fun q => q.ring = r.val && !q.released)
      then ⟨0, 0, (d.ring r.val).counter, (d.ring r.val).start⟩ else ⟨0, 0, 0, 0⟩)).hostWrite
      (d.addrPair (0x4030 + r.val) 4) (leBytes 8 (pairOf 0))).notify (.ring r) := by
  have hany : d.pages.any (fun q => q.ring = r.val && !q.released) = !(d.unreleased r.val).isEmpty := by
    rw [Bool.eq_iff_iff]
    simp [Dev.unreleased]
  rw [hany]
  unfold ringEnableDo
  simp only [r.isLt, dite_true]
  cases (d.unreleased r.val).isEmpty <;> rfl

end Enables

section Moves

variable {d : Dev}

theorem passthroughDrain_of {ch : Fin 4} {bs : List Byte} {r : List (List Byte)} (hf : (d.chan ch.val).fifo = bs :: r)
    (hb : d.busOn = true) (hl : bs.length ≤ d.passFree ch.val) {x : RingRt} {prod : Nat} {e : Dev} (hx : x = d.pass ch.val)
    (hp : prod = (x.produced + bs.length) % 2 ^ 32)
    (he : e = Dev.updChan { d with out := d.out ++
      (ringWrites (d.addrPair (passIx ch.val) 2) (d.passSize ch.val) x.produced bs ++
        [Out.hostWrite (d.addrPair (passIx ch.val) 4) (leBytes 8 (pairOf prod))]) } ch.val (fun c => { c with fifo := r })) :
    passthroughDrain ch d =
      (((e.setPass ch.val { x with produced := prod }).bump (dkey (passIx ch.val) 13)).notify (.pass ch)).fiAll := by
  subst he hp hx
  simp only [passthroughDrain, hf]
  exact if_pos ⟨hb, hl⟩

theorem bar2Read_in {o n : Nat} (met : DdrIn) (hr : d.run ≠ .held) (h : o + n ≤ d.ddrBytes) :
    bar2Read o ⟨n, met⟩ d = (d.ddrMet met).emit (.bar2Data (memBytes d.mem (ddrBase + o) n)) :=
  (if_neg hr).trans (if_pos h)

theorem bar2Read_beyond {o n : Nat} (met : DdrIn) (hr : d.run ≠ .held) (h : d.ddrBytes < o + n) :
    bar2Read o ⟨n, met⟩ d = d.emit .unsupportedRequest := (if_neg hr).trans (if_neg (Nat.not_le.mpr h))

end Moves

/-- Settles O54. -/
theorem hostInterface : Obligations.HostInterface := by
  intro s p
  refine ⟨fun x hx => congrArg s.after (if_pos hx), fun v => rfl, fun r h hoff d hd => ?_, fun n h hoff d hd => ?_,
    fun ch bs r hf hb hl x prod d hx hp hd => congrArg s.after (passthroughDrain_of hf hb hl hx hp hd),
    fun hr o n met => ⟨fun h => congrArg s.after (bar2Read_in met hr h), fun h => congrArg s.after (bar2Read_beyond met hr h),
      fun bs => congrArg s.after (if_neg hr)⟩⟩
  · subst hd
    rw [← ringEnableDo_eq]
    exact upd_write_close_takes h (valueKey_of_byteKey (ringEnableKey r)) (takes_ringEnable r hoff)
  · subst hd
    exact upd_write_close_takes h (valueKey_of_byteKey (listEnableKey n)) (takes_listEnable n hoff)

end Sys2Proof.Proofs
end

