-- ==== Sys2Proof/Proofs/Jobs.lean ====
section
/-! Job entries (R45, R346 to R353, Table 17-4): the entry that is served, the checks it passes, and its work. -/

namespace Sys2Proof.Proofs

open Sys2Proof Sys2Proof.Machine Sys2Proof.Laws

section

variable {d : Dev} {n : Fin 16} {want : Nat → Bool} {f : Dev → JobEntry → Dev} {e : JobEntry}

theorem serve_of (hr : d.run = .on) (hs : d.stage ≤ 3) (hn : d.nextEntry n want = some e)
    (hb : d.on? 0x4000_04 = true ∨ namesHost e.desc = false) : d.serve n want f = f d e := by
  have hgo : (d.on? 0x4000_04 || !namesHost e.desc) = true := by rcases hb with h | h <;> simp [h]
  simp only [Dev.serve, if_pos (And.intro hr hs), hn, if_pos hgo]

/-- While bus mastering is off an entry that names host memory is refused (R45). -/
theorem serve_unhosted (hr : d.run = .on) (hs : d.stage ≤ 3) (hn : d.nextEntry n want = some e) (hb : d.on? 0x4000_04 = false)
    (hh : namesHost e.desc = true) : d.serve n want f = d.refuseEntry n e.k 0x04E0 := by
  have hstop : ¬((d.on? 0x4000_04 || !namesHost e.desc) = true) := by simp [hb, hh]
  simp only [Dev.serve, if_pos (And.intro hr hs), hn, if_neg hstop]

theorem orRefuse_pass {sts : List Nat} {g : Dev → Dev} {k : Nat} (h : ∀ x ∈ sts, x = 0) : d.orRefuse k e sts g = g d := by
  have hnone : sts.find? (fun s => s ≠ 0) = none := by simpa using h
  simp only [Dev.orRefuse, hnone]

theorem need_of {st : Nat} {c : Bool} (h : c = true) : need st c = 0 := if_pos h

/-- A load whose checks pass leaves no refusal. -/
theorem noteRefusal_zero (t : Nat) : d.noteRefusal t 0 = d := by
  unfold Dev.noteRefusal
  split
  · exact if_pos (.inl rfl)
  · rfl

end

/-! ## The work of each kind -/

section Work

variable {d : Dev} {n : Fin 16} {e : JobEntry} (hr : d.run = .on) (hs : d.stage ≤ 3)
  (hb : d.on? 0x4000_04 = true ∨ namesHost e.desc = false)

include hr hs hb

theorem jobImage_of {mesh m : List Byte} (hm : m = mesh.take (auxLen e.desc)) (hn : d.nextEntry n (fun w => jobKind w = 1) = some e)
    (hmesh : auxLen e.desc = 0 ∨ meshOk m = true) (hlens : bits e.desc 809 806 = 0) (hready : d.ready 3 = true)
    (hleave : d.leavePending = false) : jobImage n mesh d = d.numberImage n e m := by
  subst hm
  rw [jobImage, serve_of hr hs hn hb]
  refine orRefuse_pass fun x hx => ?_
  simp only [List.mem_cons, List.not_mem_nil, or_false] at hx
  rcases hx with rfl | rfl | rfl
  · exact need_of (by rcases hmesh with h | h
                      · simp [show bits e.desc 223 192 = 0 from h]
                      · simp [h])
  · exact need_of (by simp [hlens])
  · exact need_of (by simp [hready, hleave])

theorem jobTokenise_of {text : List Byte} {t : List Nat × Nat} {x : Dev} (hn : d.nextEntry n (fun w => jobKind w = 2) = some e)
    (hf : d.fountStatus (bits e.desc 895 893) = 0) (hl : 48 * descLen e.desc ≤ auxLen e.desc) (hready : d.ready 34 = true)
    (ht : t = d.tokensOf (bits e.desc 895 893) (text.take (descLen e.desc))) (hx : x = d.countTokens t) :
    jobTokenise n text d = (if t.1.isEmpty then x else
      x.hostWrite (bits e.desc 159 128 + 2 ^ 32 * bits e.desc 95 64) (tokenBytes t.1)).completeEntry n e.k (textStatus t)
        t.1.length := by
  subst ht hx
  rw [jobTokenise, serve_of hr hs hn hb]
  refine orRefuse_pass fun x hx => ?_
  simp only [List.mem_cons, List.not_mem_nil, or_false] at hx
  rcases hx with rfl | rfl | rfl
  · exact hf
  · exact need_of (by simpa using hl)
  · exact need_of hready

theorem jobSample_of {img : SampleIn} {text : List Byte} {t : List Nat × Nat} {place : Nat}
    (hn : d.nextEntry n (fun w => jobKind w = 3) = some e) (hf : d.fountStatus (bits e.desc 812 810) = 0)
    (htm : bits e.desc 809 802 = 255) (hrun : d.rd 0x3E12_02 = 0)
    (ht : t = d.tokensOf (bits e.desc 812 810) (text.take (auxLen e.desc))) (hlen : t.1.length < 65536)
    (hp : d.samplePlace (bits e.desc 831 816) (roundUp64 (descLen e.desc) + 4 * t.1.length) = some place)
    (h34 : d.ready 34 = true) (h38 : d.ready 38 = true) (hddr : d.ddrReady = true) : jobSample n img text d =
      ((d.storeSample e img t.1 place).countTokens t).completeEntry n e.k (textStatus t) t.1.length := by
  subst ht
  rw [jobSample, serve_of hr hs hn hb]
  simp only [hp, Option.getD_some]
  refine orRefuse_pass fun x hx => ?_
  simp only [List.mem_cons, List.not_mem_nil, or_false] at hx
  rcases hx with rfl | rfl | rfl | rfl | rfl | rfl
  · exact hf
  · exact need_of (by simp [htm])
  · exact need_of (by simp [hrun])
  · exact need_of (by simpa using hlen)
  · exact need_of rfl
  · exact need_of (by simp [h34, h38, hddr])

theorem jobTemplateBuild_of {text : List Byte} {t : List Nat × Nat}
    (ht : t = d.tokensOf (bits e.desc 884 882) (text.take (descLen e.desc)))
    (hst : ∀ x ∈ d.templateStatus e.desc t.1.length, x = 0) (hn : d.nextEntry n (isTemplate false false) = some e) :
    jobTemplateBuild n text d = (((d.countTokens t).shapeTemplate e.desc t.1.length).buildTemplate
      (bits e.desc 895 888)).awaitTemplate n e (textStatus t) := by
  subst ht
  rw [jobTemplateBuild, serve_of hr hs hn hb]
  exact orRefuse_pass hst

theorem jobTemplateImport_of {text : List Byte} {t : List Nat × Nat}
    (ht : t = d.tokensOf (bits e.desc 884 882) (text.take (descLen e.desc)))
    (hst : ∀ x ∈ d.templateStatus e.desc t.1.length, x = 0) (hn : d.nextEntry n (isTemplate false true) = some e) :
    jobTemplateImport n text d = ((d.countTokens t).awaitTemplate n e (textStatus t)).startImport (bits e.desc 895 888)
      (bits e.desc 879 872) t.1.length (bits e.desc 887 885) := by
  subst ht
  rw [jobTemplateImport, serve_of hr hs hn hb]
  exact orRefuse_pass hst

theorem jobTemplateClear_of (hn : d.nextEntry n (isTemplate true false) = some e)
    (hnamed : d.templateNamed (bits e.desc 895 888) = false) (h33 : d.ready 33 = true) (h34 : d.ready 34 = true)
    (h37 : d.ready 37 = true) : jobTemplateClear n d = (d.emptyTemplate (bits e.desc 895 888)).completeEntry n e.k 0 0 := by
  rw [jobTemplateClear, serve_of hr hs hn hb]
  refine orRefuse_pass fun x hx => ?_
  simp only [List.mem_cons, List.not_mem_nil, or_false] at hx
  rcases hx with rfl | rfl
  · exact need_of (by simp [hnamed])
  · exact need_of (by simp [h33, h34, h37])

theorem jobRequests_of {table u : List Byte} (hu : u = table.take (descLen e.desc))
    (hn : d.nextEntry n (fun w => jobKind w = 5) = some e) (hslot : d.slotInUse (bits e.desc 895 892) = false)
    (hst : ∀ x ∈ tableEntries u, d.tableEntryStatus x = 0) (hready : d.ready 34 = true) :
    jobRequests n table d = (d.storeTable (bits e.desc 895 892) u).completeEntry n e.k 0 (u.length / 1152) := by
  subst hu
  rw [jobRequests, serve_of hr hs hn hb]
  refine orRefuse_pass fun x hx => ?_
  simp only [List.cons_append, List.mem_cons, List.mem_append, List.mem_map, List.not_mem_nil, or_false] at hx
  rcases hx with rfl | ⟨y, hy, rfl⟩ | rfl
  · exact need_of (by simp [hslot])
  · exact hst y hy
  · exact need_of hready

theorem jobLoad_of (hn : d.nextEntry n (fun w => jobKind w = 6) = some e) (hl : d.loadCheck (bits e.desc 895 888) = 0) :
    jobLoad n d = (d.startLoad (bits e.desc 895 888) none false (some (n, e.k))).working n e.k := by
  rw [jobLoad, serve_of hr hs hn hb]
  simp only [hl, noteRefusal_zero]
  exact orRefuse_pass (by simp)

end Work

/-- Settles O55. Serving the oldest fetched entry of its kind and the place of a stored sample are the model's choices (log
entries 51 and 26). -/
theorem jobsRun : Obligations.JobsRun := by
  intro s n e hr hs
  refine ⟨fun hoff hh => ⟨fun hn => ?_, fun mesh hn => ?_⟩, fun hb =>
    ⟨fun mesh m hm hn hmesh hlens hready hleave =>
      after_close (jobImage_of hr hs hb hm hn hmesh hlens hready hleave),
    fun text t d hn hf hl hready ht hd => ?_,
    fun img text t place hn hf htm hrun ht hlen hp h34 h38 hddr =>
      after_close (jobSample_of hr hs hb hn hf htm hrun ht hlen hp h34 h38 hddr),
    fun text t ht hst =>
      ⟨fun hn => after_close (jobTemplateBuild_of hr hs hb ht hst hn),
        fun hn => after_close (jobTemplateImport_of hr hs hb ht hst hn)⟩,
    fun hn hnamed h33 h34 h37 => after_close (jobTemplateClear_of hr hs hb hn hnamed h33 h34 h37),
    fun table u hu hn hslot hst hready =>
      after_close (jobRequests_of hr hs hb hu hn hslot hst hready),
    fun hn hl => after_close (jobLoad_of hr hs hb hn hl)⟩⟩
  · exact after_close (serve_unhosted hr hs hn hoff hh)
  · exact after_close (serve_unhosted hr hs hn hoff hh)
  · have hdo := after_close (s := s) (jobTokenise_of hr hs hb hn hf hl hready ht hd)
    refine ⟨fun he => hdo.trans ?_, fun he => hdo.trans ?_⟩
    · simp [he]
    · simp [he]

end Sys2Proof.Proofs
end

