-- ==== Sys2Proof/Proofs/Store.lean ====
section
/-! The parameter store and the mailbox (R327 to R329, R332, R333). -/

namespace Sys2Proof.Proofs

open Sys2Proof Sys2Proof.Machine Sys2Proof.Laws

/-! ## The parameter store -/

theorem saveKey (i : Fin 4) : rowFields (dkey 0x1010 (i.val + 1)) = some (7, 4, false) ∧
    aloneKeys.contains (dkey 0x1010 (i.val + 1)) = false ∧ reachesNv (dkey 0x1010 (i.val + 1)) = false := by
  decide +kernel +revert

theorem restoreKey (i : Fin 4) : rowFields (dkey 0x1011 (i.val + 1)) = some (7, 4, false) ∧
    aloneKeys.contains (dkey 0x1011 (i.val + 1)) = false ∧ reachesNv (dkey 0x1011 (i.val + 1)) = true ∧
    storesKey (dkey 0x1011 (i.val + 1)) = false := by
  decide +kernel +revert

/-- The groups and the channels that a sub-index of 1010h saves. -/
theorem saveDo_sub (p : Path) (i : Fin 4) (d : Dev) : saveDo p (i.val + 1) d =
    d.startSave p (dkey 0x1010 (i.val + 1)) (if i.val = 0 then [2, 3] else if i.val = 3 then [] else [i.val + 1])
      (if i.val = 0 ∨ i.val = 3 then [0, 1, 2, 3] else []) := by
  have hgroups : (storeGroups1010 (i.val + 1)).filter (· ≠ 4) =
      if i.val = 0 then [2, 3] else if i.val = 3 then [] else [i.val + 1] := by decide +revert
  have hrefs : (if (storeGroups1010 (i.val + 1)).contains 4 then List.range 4 else []) =
      if i.val = 0 ∨ i.val = 3 then [0, 1, 2, 3] else [] := by decide +revert
  simp only [saveDo, hgroups, hrefs]

theorem storeGroups_marks (i : Fin 4) (marks : List Nat) : (storeGroups1010 (i.val + 1)).foldl (fun m g => setAdd g m) marks =
    if i.val = 0 then setAdd 4 (setAdd 3 (setAdd 2 marks)) else setAdd (i.val + 1) marks := by
  by_cases h : i.val = 0
  · rw [if_pos h, h]
    rfl
  · have hone : i.val + 1 ≠ 1 := by omega
    simp only [storeGroups1010, if_neg h, if_neg hone, List.foldl_cons, List.foldl_nil]

section Store

variable {s : State} {p : Path} {d : Dev} {v : Nat} {test : Bool}

theorem takes_save (i : Fin 4) (hv : v < 2 ^ 32) : Takes d p (dkey 0x1010 (i.val + 1)) v test (saveDo p (i.val + 1) d) := by
  obtain ⟨hrow, ha, -⟩ := saveKey i
  obtain ⟨-, -, -, -, hsz⟩ := row_of_rowFields hrow
  have hix : keyIx (dkey 0x1010 (i.val + 1)) = 0x1010 := keyIx_dkey _ (by omega)
  have hsub : keySub (dkey 0x1010 (i.val + 1)) = i.val + 1 := keySub_dkey _ (by omega)
  refine takes_runs (by rw [hsz]; omega) ha (effectUnits_none (by omega)) (effectEnable_none (by omega)) ?_
  simp [Dev.effectRuns, hix, hsub]

theorem takes_restore (i : Fin 4) (hv : v < 2 ^ 32) : Takes d p (dkey 0x1011 (i.val + 1)) v test (restoreDo (i.val + 1) d) := by
  obtain ⟨hrow, ha, -, -⟩ := restoreKey i
  obtain ⟨-, -, -, -, hsz⟩ := row_of_rowFields hrow
  have hix : keyIx (dkey 0x1011 (i.val + 1)) = 0x1011 := keyIx_dkey _ (by omega)
  have hsub : keySub (dkey 0x1011 (i.val + 1)) = i.val + 1 := keySub_dkey _ (by omega)
  refine takes_runs (by rw [hsz]; omega) ha (effectUnits_none (by omega)) (effectEnable_none (by omega)) ?_
  simp [Dev.effectRuns, hix, hsub]

theorem exec_paramStoreSave (i : Fin 4) (hv : v < 2 ^ 32) (h : s.dev.passes p (dkey 0x1010 (i.val + 1)) v) :
    exec (.paramStoreSave p (i.val + 1) v) s = s.after (saveDo p (i.val + 1) s.dev) := by
  obtain ⟨hrow, -, hn⟩ := saveKey i
  have hs : storesKey (dkey 0x1010 (i.val + 1)) = true := by
    simp [storesKey, keyIx_dkey 0x1010 (show i.val + 1 < 256 by omega)]
  exact upd_write_stores h hrow (by decide) hs hn (takes_save i hv)

theorem exec_paramStoreRestore (i : Fin 4) (hv : v < 2 ^ 32) (h : s.dev.passes p (dkey 0x1011 (i.val + 1)) v) :
    exec (.paramStoreRestore p (i.val + 1) v) s = .next { s with dev := restoreDo (i.val + 1) s.dev.accessed } := by
  obtain ⟨hrow, -, hn, hs⟩ := restoreKey i
  exact updNv_write_takes h hrow (by decide) hs hn (takes_restore i hv)

theorem compactionComplete_of {e : Dev} (hc : d.fw.compacting = true) (hs : d.fw.saving = none)
    (he : e = { d with fw := { d.fw with compacting := false } }) :
    compactionComplete d = (e.setStore d.nv.compact).storeIdle := by
  subst he
  have hidle : ¬(d.fw.saving.isSome = true) := by simp [hs]
  exact (if_pos hc).trans (if_neg hidle)

theorem storeDone_of {x : Saving} {e : Dev} (ok : Bool) (hx : d.fw.saving = some x)
    (he : e = { d with fw := { d.fw with saving := none } }) :
    storeDone ok d = (if ok then e.keepGeneration x else e.storeIdle).storeResponse (some x) ok := by
  subst he
  simp only [storeDone, paramStoreDone, hx]

end Store

theorem compactKey : rowFields 0x4811_05 = some (5, 1, false) := by decide +kernel

/-- Settles O47. The sectors that a compaction erases, the step of wear levelling and the marks of a restore are the model's
choices (log entries 155 and 45). -/
theorem parameterStore : Obligations.ParameterStore := by
  intro s p
  refine ⟨fun i h => ?_, fun i h => ?_, fun h => ?_, fun hc hs d hd => ?_, fun x hx d hd => ⟨?_, ?_⟩, fun hr hs => ?_⟩
  · rw [exec_paramStoreSave i (by decide) h, saveDo_sub]
  · rw [exec_paramStoreRestore i (by decide) h, restoreDo, storeGroups_marks]
    rfl
  · obtain ⟨hk, hsz, -⟩ := entry_of_rowFields compactKey (by decide) (by decide) (by decide)
    exact upd_write_takes h hk (takes_alone (by rw [hsz]; decide) rfl)
  · rw [← compactionComplete_of hc hs hd]
    rfl
  · show Host.Outcome.next { s with dev := storeDone true s.dev } = _
    rw [storeDone_of true hx hd, if_pos rfl]
  · show Host.Outcome.next { s with dev := storeDone false s.dev } = _
    rw [storeDone_of false hx hd, if_neg (by decide)]
  · show Host.Outcome.next { s with dev := paramStoreWearLevel s.dev } = _
    rw [paramStoreWearLevel, if_pos ⟨hr, hs⟩]

/-! ## The mailbox -/

section Mailbox

variable {d x : Dev} {h : Nat} {bs : List Byte}

theorem mailboxServe_left (hx : x = { d with host := { d.host with request := h, requestData := bs } })
    (hold : (pairedAt h 448).2 = false ∨ (pairedAt h 448).1 = d.host.lastReq) : mailboxServe h bs d = x := by
  subst hx
  exact if_pos (hold.elim (fun hp => .inr (.inr (.inl (by simp [hp])))) (fun hp => .inr (.inr (.inr hp))))

/-- A new request is accepted, and answered by its command. -/
theorem mailboxServe_new {e : Dev} (hx : x = { d with host := { d.host with request := h, requestData := bs } })
    (hr : d.run = .on) (hp : d.host.perst = false) (hw : (pairedAt h 448).2 = true) (hn : (pairedAt h 448).1 ≠ d.host.lastReq)
    (he : e = Dev.bump { x with host := { x.host with lastReq := (pairedAt h 448).1 } } 0x4801_02) :
    mailboxServe h bs d =
      if requestCode h ≠ 0 then e.mailReply (requestCode h) [] false
      else if bits h 295 292 = 1 then e.mailboxReadDo h else e.mailboxWriteDo h bs := by
  subst hx he
  refine if_neg ?_
  simp [hr, hp, hw, hn]

end Mailbox

/-- Settles O48: a request that is not new is left alone; a new one is answered by its code or its command. -/
theorem mailboxServes : Obligations.MailboxServes := by
  intro s h bs d hd
  refine ⟨fun hold => ?_, fun e hr hp hw hn he => ?_⟩
  · rw [← mailboxServe_left hd hold]
    rfl
  · have hserve := mailboxServe_new hd hr hp hw hn he
    refine ⟨fun code hc hne => ?_, fun hc hcmd => ?_, fun hc hcmd hbs => ?_⟩
    · show Host.Outcome.next { s with dev := (mailboxServe h bs s.dev).close } = _
      rw [hserve, hc, if_pos hne]
    · show Host.Outcome.next { s with dev := (mailboxServe h bs s.dev).close } = _
      rw [hserve, if_neg (not_not.mpr hc), if_neg (by omega)]
    · subst hbs
      show Host.Outcome.next { s with dev := mailboxServe h [] s.dev } = _
      rw [hserve, if_neg (not_not.mpr hc), if_pos hcmd]

end Sys2Proof.Proofs
end

