-- ==== Sys2Proof/Proofs/FieldBus.lean ====
section
/-! Process data and the field buses (R330, R331, R334 to R339, R400). -/

namespace Sys2Proof.Proofs

open Sys2Proof Sys2Proof.Machine Sys2Proof.Laws

theorem after_dev (s : State) : s.after s.dev = .next s := rfl

/-! ## Process data -/

section Cycles

variable {d : Dev}

theorem rxpdoReceived_of {p : Path} {bs : List Byte} (hr : d.rxRuns p = true)
    (hl : ((d.mapped 0x1600).map mapSize).sum ≤ bs.length) (ht : d.tickMoves (splitPdo (d.mapped 0x1600) bs) = false) :
    rxpdoReceived p bs d = d.each (splitPdo (d.mapped 0x1600) bs) (fun d v => d.rxValue p v.1 v.2) := by
  have hmoves : ¬(d.tickMoves (splitPdo (d.mapped 0x1600) bs) = true) := by simp [ht]
  simp only [rxpdoReceived, if_pos (And.intro hr hl), if_neg hmoves]

theorem rxpdoReceived_silent {p : Path} (bs : List Byte) (hr : d.rxRuns p = false) : rxpdoReceived p bs d = d :=
  if_neg (by simp [hr])

/-- A trigger of EtherCAT sends where it is that of the sync type in force. -/
theorem pdoCycle_ecat {t : PdoTrigger} (ht : t = .sync0 ∨ t = .smEvent ∨ t = .freeRun) :
    pdoCycle t d = if d.run = .on ∧ (d.net.al = .safeop ∨ d.net.al = .op) ∧ d.ecatCycle t = true then d.syncManagerCycle else d := by
  rcases ht with rfl | rfl | rfl <;> rfl

theorem pdoCycle_sync (h : d.canRuns = true) : pdoCycle .sync d = d.syncCycle := if_pos h

theorem pdoCycle_sync_silent (h : d.canRuns = false) : pdoCycle .sync d = d := if_neg (by simp [h])

theorem pdoCycle_event {n : Fin 8} (hc : d.canRuns = true) (hn : d.tpdoOn n.val = true)
    (hty : d.rd (dkey (0x1800 + n.val) 2) = 254) (htimer : d.rd (dkey (0x1800 + n.val) 5) ≠ 0)
    (hi : d.inhibitOver n.val = true) : pdoCycle (.eventTimer n) d = d.sendTpdo n.val := if_pos ⟨hc, hn, hty, htimer, hi⟩

theorem pdoCycle_event_silent (n : Fin 8) (h : d.canRuns = false) : pdoCycle (.eventTimer n) d = d := if_neg (by simp [h])

end Cycles

/-- Settles O49. The sync type in force and the states that gate a cycle are the model's reading (log entries 158 and 42). -/
theorem processDataCycles : Obligations.ProcessDataCycles := by
  intro s
  refine ⟨fun p bs hr hl ht => after_close (rxpdoReceived_of hr hl ht),
    fun hc => congrArg s.after (pdoCycle_sync hc), fun t ht hr hal => ⟨fun hc => congrArg s.after ?_, fun hc => ?_⟩,
    fun n hc hn hty htimer hi => congrArg s.after (pdoCycle_event hc hn hty htimer hi)⟩
  · rw [pdoCycle_ecat ht, if_pos ⟨hr, hal, hc⟩]
  · rw [← after_dev s]
    refine congrArg s.after ?_
    rw [pdoCycle_ecat ht, if_neg (by simp [hc])]

/-- Settles O50: a TxPDO is spelled from its mapping and the snapshot, and both are equal. -/
theorem pdosCarryTheSnapshot : Obligations.PdosCarryTheSnapshot := by
  intro d e p n hs hm
  have hmapped : d.mapped (0x1A00 + n) = e.mapped (0x1A00 + n) := by simp only [Dev.mapped, hm]
  rw [Dev.pdoBytes, Dev.pdoBytes, hmapped, hs]

theorem canRuns_of_nmt {d : Dev} (h : d.net.nmt ≠ 5) : d.canRuns = false := by simp [Dev.canRuns, h]

/-- Settles O51. That nothing at all happens outside NMT operational and outside OP is the model's reading (log entry 42). -/
theorem processDataNeedsOperational : Obligations.ProcessDataNeedsOperational := by
  intro s
  refine ⟨fun h => congrArg s.after (pdoCycle_sync_silent (canRuns_of_nmt h)),
    fun h n => congrArg s.after (pdoCycle_event_silent n (canRuns_of_nmt h)), fun h bs => ?_, fun h bs => ?_⟩
  · exact after_close (rxpdoReceived_silent bs (by simp [Dev.rxRuns, h]))
  · exact after_close (rxpdoReceived_silent bs (by simp [Dev.rxRuns, canRuns_of_nmt h]))

/-! ## The field buses -/

section Buses

variable {d : Dev}

theorem emcyInhibitExpiry_of {e : Emcy} {es : List Emcy} (h : d.net.emcyQueue = e :: es) :
    emcyInhibitExpiry d = Dev.sendEmcy { d with net := { d.net with emcyQueue := es } } e := by
  simp only [emcyInhibitExpiry, h]

theorem ecatStateRequest_allowed {x : AlState} (hr : d.run = .on) (h : d.alAllowed x = true) : ecatStateRequest x d =
    Dev.emit { d with net := { d.net with al := x, alCode := 0 } } (.alStatus x 0) := by
  simp [ecatStateRequest, hr, h]

theorem ecatStateRequest_refused {x : AlState} (hr : d.run = .on) (h : d.alAllowed x = false) : ecatStateRequest x d =
    Dev.emit { d with net := { d.net with alCode := 0x0011 } } (.alStatus d.net.al 0x0011) := by
  simp [ecatStateRequest, hr, h]

theorem foeWrite_load {name : List Byte} {t : Nat} (hr : d.run = .on) (hs : d.stage ≠ 4) (ht : foeTarget name = some t) :
    foeWrite name d = d.foeLoad t := by
  simp [foeWrite, hr, hs, ht]

theorem foeWrite_unknown {name : List Byte} (hr : d.run = .on) (hs : d.stage ≠ 4) (ht : foeTarget name = none) :
    foeWrite name d = d.emit (.foeError 0x8001) := by
  simp [foeWrite, hr, hs, ht]

/-- A stalled transfer that is neither a load nor a recovery image only loses what was staged. -/
theorem sdoTransferTimeout_of {p : Path} {key : Nat} (hr : d.run = .on) (hload : key ≠ 0x4403_02) (hrec : key ≠ 0x4410_01) :
    sdoTransferTimeout p key d = Dev.abort { d with net := { d.net with
      staging := d.net.staging.filter (fun x => !(x.1 = p && x.2.1 = key)) } } p key 0x0504_0000 := by
  simp only [sdoTransferTimeout, hr, ne_eq, not_true_eq_false, if_false, if_neg hload, if_neg hrec]

end Buses

/-- Settles O52. The AL transitions with their code, the FoE error and reset communication are the model's readings (log
entries 38, 39 and 41). -/
theorem fieldBuses : Obligations.FieldBuses := by
  intro s
  refine ⟨fun e es h => congrArg s.after (emcyInhibitExpiry_of h), fun hr h28 hb => congrArg s.after (if_pos ⟨hr, h28, hb⟩),
    fun hr h28 => ⟨congrArg s.after (if_pos ⟨hr, h28⟩), congrArg s.after (if_pos ⟨hr, h28⟩),
      congrArg s.after (if_pos ⟨hr, h28⟩)⟩,
    fun hr hs d hd => ?_, fun hr x => ⟨fun h => congrArg s.after (ecatStateRequest_allowed hr h),
      fun h => congrArg s.after (ecatStateRequest_refused hr h)⟩,
    fun hr hs name => ⟨fun t ht => congrArg s.after (foeWrite_load hr hs ht), fun ht => congrArg s.after (foeWrite_unknown hr hs ht)⟩,
    fun hr p ix sub hload hrec => after_close (sdoTransferTimeout_of hr hload hrec)⟩
  subst hd
  exact congrArg s.after (if_pos ⟨hr, hs⟩)

end Sys2Proof.Proofs
end

