-- ==== Sys2Proof/Proofs/Fabric.lean ====
section
/-! The fabric (R376 to R395, Table 19-7): its ports, and what the packets of each type do. -/

namespace Sys2Proof.Proofs

open Sys2Proof Sys2Proof.Machine Sys2Proof.Laws

/-! ## Ports -/

theorem fabricEnableKey : rowFields 0x4200_04 = some (1, 1, false) := by decide +kernel

theorem adapterImportKey : rowFields 0x4211_01 = some (5, 1, false) := by decide +kernel

section Ports

variable {d e : Dev}

theorem exec_fabricEnable {s : State} {p : Path} (h : s.dev.passes p 0x4200_04 1) :
    exec (.fabricEnable p) s = s.closing (fabricEnableDo 1 s.dev.accessed) := by
  obtain ⟨hk, hsz, -⟩ := entry_of_rowFields fabricEnableKey (by decide) (by decide) (by decide)
  exact upd_write_close_takes h hk (takes_alone (by rw [hsz]; decide) rfl)

theorem fabricEnableDo_proof (he : e = d.wr 0x4200_04 1) (hs : 2 ≤ e.stage) : fabricEnableDo 1 d = e.trainPorts := by
  subst he
  simp only [fabricEnableDo, if_neg (Nat.not_lt.mpr hs), if_true]

theorem fabricEnableDo_early (he : e = d.wr 0x4200_04 1) (hs : e.stage < 2) : fabricEnableDo 1 d = e := by
  subst he
  simp only [fabricEnableDo, if_pos hs]

theorem fabricPortAligned_of {port nb x y f : Nat} (hp : d.portState port = 1) (hl : d.looped (0x40 + port) = false)
    (he : e = (d.emit (.exchange port d.here d.sizeX d.sizeY)).wr (dkey (portIx port) 2) nb) : fabricPortAligned port nb x y f d =
      if x = e.sizeX ∧ y = e.sizeY ∧ f = (port + 2) % 4 ∧ nb = e.neighbourAt port then
        ((e.wr (dkey (portIx port) 1) 2).setPort port PortSt.init).setReady (29 + port) true
      else ((e.wr (dkey (portIx port) 1) 4).fabStatus 0x0602).event 0x0602 0 := by
  subst he
  rw [fabricPortAligned, if_neg (by simp [hp, hl])]

theorem fabricRetrain_of {port : Nat} (hs : 2 ≤ d.stage) (hr : d.run = .on) (hon : d.on? 0x4200_04 = true)
    (hm : bit (d.rd 0x4201_01) port = true) (hp : d.portState port = 3) (hl : d.looped (0x40 + port) = false) :
    fabricRetrain port d = d.wr (dkey (portIx port) 1) 1 := if_pos ⟨hs, hr, hon, hm, .inl hp, by simp [hl]⟩

theorem port_bump (k port : Nat) : (d.bump k).port port = d.port port := by simp only [Dev.port, bump_fabric]

theorem fabricCrcMismatch_of {port : Nat} (hp : d.portState port = 2) : fabricCrcMismatch port d =
    Dev.sendLink ((d.bump (dkey (portIx port) 5)).setPort port { d.port port with dropping := true }) port [] 1 := by
  rw [fabricCrcMismatch, if_neg (not_not.mpr hp), Dev.askReplay, port_bump]

end Ports

/-- Settles O56: each port command by the port's state and its neighbour's answer. -/
theorem fabricPorts : Obligations.FabricPorts := by
  intro s p port
  refine ⟨fun h d hd => ⟨fun hs => ?_, fun hs => ?_⟩, fun hp hl nb x y f d hd => ⟨fun hx hy hf hn => ?_, fun hx => ?_⟩,
    fun hs hr hon hm hp hl => congrArg s.after (fabricRetrain_of hs hr hon hm hp hl), rfl, rfl,
    fun hp => congrArg s.after (fabricCrcMismatch_of hp)⟩
  · rw [exec_fabricEnable h, fabricEnableDo_proof hd hs]
  · rw [exec_fabricEnable h, fabricEnableDo_early hd hs]
  · exact after_close ((fabricPortAligned_of hp hl hd).trans (if_pos ⟨hx, hy, hf, hn⟩))
  · exact after_close ((fabricPortAligned_of hp hl hd).trans (if_neg (fun h => hx h.1)))

/-! ## Packets that come in -/

section Packets

variable {d : Dev} {port ty : Nat} {pk : PacketIn}

theorem receive_of {ok : Hdr → Bool} {f : Dev → Hdr → Dev} (hp : d.portState port = 2)
    (hseq : (hdrOf pk.header).seq = ((d.port port).lastRx + 1) % 4096) (hty : (hdrOf pk.header).ty < 8)
    (hok : ok (hdrOf pk.header) = true) : d.receive port pk ok f = f (d.numbered port pk) (hdrOf pk.header) := by
  simp only [Dev.receive, if_neg (not_not.mpr hp), if_neg (not_not.mpr hseq), if_neg (Nat.not_le.mpr hty), if_pos hok]
  rfl

/-- A packet of its type for this device, in order, is taken with its slot free. -/
theorem receiveHere_of {f : Dev → Hdr → Dev} (h : d.inOrder port pk ty) (hty : ty < 8) :
    d.receiveHere port pk ty f = f (d.arrived port pk) (hdrOf pk.header) := by
  obtain ⟨hp, hseq, ht, hd⟩ := h
  exact receive_of hp hseq (by omega) (by simp [ht, hd])

theorem fabricLinkReceived_of {h : Hdr} {c : Nat} {q : PortSt} {u : Kv Nat} (hp : d.portState port = 2) (hh : h = hdrOf pk.header)
    (hty : h.ty = 0) (hst : h.status ≠ 1) (hc : c = h.window * 2 ^ 16 + h.offset / 2 ^ 18) (hq : q = d.port port)
    (hu : u = (List.range 6).foldl (fun m k => kvPut 0 m k (kvGet 0 q.used k - c / 16 ^ k % 16)) q.used) :
    fabricLinkReceived port pk d = (d.setPort port { q with used := u }).drainPort port := by
  subst hu hq hc hh
  rw [fabricLinkReceived, if_neg (by rintro (h | h); exacts [h hp, h hty])]
  exact if_neg hst

theorem fabricPacketForward_of {h : Hdr} {e : Dev} {out : Nat} (hp : d.portState port = 2) (hh : h = hdrOf pk.header)
    (hseq : h.seq = ((d.port port).lastRx + 1) % 4096) (h0 : h.ty ≠ 0) (h8 : h.ty < 8) (hd : h.dest ≠ d.here)
    (he : e = d.numbered port pk) (ho : e.outPort h.dest = some out) : fabricPacketForward port pk d =
      e.sendOn out ⟨Hdr.word { h with cls := e.outClass (some port) out h.cls }, pk.payload⟩
        (1 + 8 * port + 2 * h.vc + h.cls) := by
  subst he hh
  rw [fabricPacketForward, receive_of hp hseq h8 (by simp [h0, hd])]
  simp only [ho]

end Packets

/-! ## Timeouts, deadlines and imports -/

section Ends

variable {d e : Dev} {tag : Nat}

theorem fabricRespTimeout_of {o : Outstanding} (ho : d.fabric.outstanding.find? (fun o => o.tag = tag) = some o)
    (he : e = (d.bump 0x4210_05).fabStatus 0x0604) :
    (o.ty = 1 → fabricRespTimeout tag d = (e.giveUpGrant o).backlogSettled) ∧
    (o.ty = 5 → fabricRespTimeout tag d = (e.freeEntry tag).failImport.backlogSettled) ∧
    (o.ty = 6 → fabricRespTimeout tag d = ((e.freeEntry tag).stopSeries o.dest).backlogSettled) := by
  subst he
  refine ⟨fun h => ?_, fun h => ?_, fun h => ?_⟩
  all_goals simp [fabricRespTimeout, ho, h]

theorem fabricRespTimeout_import (ho : d.fabric.outstanding.find? (fun o => o.tag = tag) = none)
    (ht : d.fabric.adapterTag = some tag) : fabricRespTimeout tag d = d.failImport := by
  simp [fabricRespTimeout, ho, ht]

theorem windowDeadline_of {n : Nat} (ho : (d.window n).isOpen = true) (ht : (d.window n).template ≠ 255)
    (hf : (d.window n).full = false) : windowDeadline n d = d.revoke n false := if_pos ⟨ho, ht, by simp [hf]⟩

theorem exec_adapterImportFrom {s : State} {p : Path} {dev : Nat} (hv : dev < 256) (h : s.dev.passes p 0x4211_01 dev) :
    exec (.adapterImportFrom p dev) s = s.after (adapterImportDo dev s.dev.accessed) := by
  obtain ⟨hk, hsz, -⟩ := entry_of_rowFields adapterImportKey (by decide) (by decide) (by decide)
  exact upd_write_takes h hk (takes_alone (by rw [hsz]; omega) rfl)

theorem adapterImportDo_of {source : Nat} {x : Dev} (hd : x = (d.wr 0x4211_01 source).wr 0x4211_02 1)
    (he : e = { x with fabric := { x.fabric with adapterIn := [], adapterHead := none, adapterTag := none } }) :
    adapterImportDo source d =
      if (e.outPort source).isSome then e.sendMgmt 5 source 0 0 0 [] else (e.fabStatus 0x0603).failImport := by
  subst he hd
  rfl

end Ends

/-- Settles O57, packet type by packet type. The credit bits of a LINK packet, the series of an adapter import and its timeout
are the model's choices (log entries 108, 110, 112, 114 and 167). -/
theorem fabricPackets : Obligations.FabricPackets := by
  intro s port pk h hh
  refine ⟨fun hp hty hst c q u hc hq hu => congrArg s.after (fabricLinkReceived_of hp hh hty hst hc hq hu),
    fun d out hp hseq h0 h8 hd he ho => congrArg s.after (fabricPacketForward_of hp hh hseq h0 h8 hd he ho), fun d hd => ?_,
    fun o tag d ho hd => ?_, fun tag ho ht => after_close (fabricRespTimeout_import ho ht),
    fun w ho ht hf => after_close (windowDeadline_of ho ht hf),
    fun p dev hv hp d hd e he => ⟨fun ho => ?_, fun ho => ?_⟩⟩
  · subst hh hd
    refine ⟨fun hi => after_close (receiveHere_of hi (by decide)), fun hi o ho => ?_,
      fun hi hw hm => ?_, fun hi hw => ?_, fun hi => congrArg s.after (receiveHere_of hi (by decide)),
      fun hi => after_close (receiveHere_of hi (by decide)), fun hi o ho => ?_⟩
    · refine after_close ((receiveHere_of hi (by decide)).trans ?_)
      simp only [ho]
    · refine after_close ((receiveHere_of hi (by decide)).trans ?_)
      simp only [hw, hm, Bool.not_true, Bool.false_eq_true, if_false]
    · refine after_close ((receiveHere_of hi (by decide)).trans ?_)
      simp only [hw, Bool.not_true, Bool.false_eq_true, if_false]
    · refine after_close ((receiveHere_of hi (by decide)).trans ?_)
      simp only [ho]
  · obtain ⟨h1, h5, h6⟩ := fabricRespTimeout_of ho hd
    exact ⟨fun h => after_close (h1 h), fun h => after_close (h5 h),
      fun h => after_close (h6 h)⟩
  · rw [exec_adapterImportFrom hv hp, adapterImportDo_of hd he, if_pos ho]
  · rw [exec_adapterImportFrom hv hp, adapterImportDo_of hd he, if_neg (by simp [ho])]

end Sys2Proof.Proofs
end

