-- ==== Sys2Proof/Proofs/Firmware.lean ====
section
/-! Loads and firmware (R397 to R405): manifests, slots, activation, confirmation and recovery. -/

namespace Sys2Proof.Proofs

open Sys2Proof Sys2Proof.Machine Sys2Proof.Laws

/-! ## Loads and slots -/

section Loads

variable {d : Dev}

theorem loadManifestReceived_of {t : Nat} {c : ContainerIn} {l : Load} (hl : d.loadOf t = some l) (hm : l.manifest = none) :
    loadManifestReceived t c d = d.checkManifest l c := by
  simp [loadManifestReceived, hl, hm]

theorem loadComplete_of {t : Nat} {c : ContainerIn} {l : Load} {e : Dev} (he : e = loadManifestReceived t c d)
    (hl : e.loadOf t = some l) : loadComplete t c d = e.finishLoad l c := by
  subst he
  simp only [loadComplete, hl]

/-- A written slot is valid with its image, or rejected, by what the built package shows. -/
theorem fwSlotWritten_of {ok : Bool} {l : Load} {c : ContainerIn} {st : Nat} (hb : d.fw.building = some (l, c))
    (hst : d.builtStatus ok c = st) {e : Dev}
    (he : e = d.setNv (d.nv.setSlot (1 - d.fw.running) (if st = 0 then ⟨2, d.builtImage c⟩ else ⟨5, none⟩))) :
    fwSlotWritten ok d = Dev.endLoad { e with fw := { e.fw with building := none } } l st (ckTotal c) := by
  subst he hst
  simp only [fwSlotWritten, hb]
  split <;> rfl

end Loads

/-! ## The boot record -/

/-- Of a record and one whose GEN is greater by one, the newer is in force, in whichever copy it stands (R397). -/
theorem record_newer_first {n : Nv} {q : BootRec} (h : ∀ b, n.boot1 = some b → b.gen < q.gen) :
    ({ n with boot0 := some q } : Nv).record = q := by
  rcases hb : n.boot1 with _ | b
  · simp [Nv.record]
  · have hlt : ¬(q.gen < b.gen) := by have := h b hb; omega
    simp [Nv.record, hlt]

theorem record_newer_second {n : Nv} {q : BootRec} (h : ∀ a, n.boot0 = some a → a.gen < q.gen) :
    ({ n with boot1 := some q } : Nv).record = q := by
  rcases ha : n.boot0 with _ | a
  · simp [Nv.record]
  · simp [Nv.record, h a ha]

/-- No copy has a greater GEN than the record in force. -/
theorem gen_le_record (n : Nv) :
    (∀ a, n.boot0 = some a → a.gen ≤ n.record.gen) ∧ ∀ b, n.boot1 = some b → b.gen ≤ n.record.gen := by
  unfold Nv.record
  split
  case h_1 a b h0 h1 => rw [h0, h1]; split <;> constructor <;> intro c hc <;> cases hc <;> omega
  case h_2 a h0 h1 => rw [h0, h1]; exact ⟨fun c hc => (congrArg BootRec.gen (Option.some.inj hc)).ge, fun _ hc => (nomatch hc)⟩
  case h_3 b h0 h1 => rw [h0, h1]; exact ⟨fun _ hc => (nomatch hc), fun c hc => (congrArg BootRec.gen (Option.some.inj hc)).ge⟩
  case h_4 h0 h1 => rw [h0, h1]; exact ⟨fun _ hc => (nomatch hc), fun _ hc => (nomatch hc)⟩

/-- A written record is in force, with GEN one greater, as long as GEN does not wrap. -/
theorem record_write (n : Nv) (r : BootRec) (h : n.record.gen + 1 < 2 ^ 32) :
    (n.write r).record = { r with gen := n.record.gen + 1 } := by
  obtain ⟨h0, h1⟩ := gen_le_record n
  have hnew0 (a : BootRec) (ha : n.boot0 = some a) : a.gen < n.record.gen + 1 := Nat.lt_succ_of_le (h0 a ha)
  have hnew1 (b : BootRec) (hb : n.boot1 = some b) : b.gen < n.record.gen + 1 := Nat.lt_succ_of_le (h1 b hb)
  simp only [Nv.write, Nat.mod_eq_of_lt h]
  split
  · exact record_newer_first hnew1
  · exact record_newer_second hnew0
  · split
    · exact record_newer_first hnew1
    · exact record_newer_second hnew0

theorem write_minSv (n : Nv) (r : BootRec) : (n.write r).minSv = n.minSv := by
  unfold Nv.write
  dsimp only
  split
  · rfl
  · rfl
  · split <;> rfl

/-! ## Activation and confirmation -/

theorem activateKey : rowFields 0x4402_01 = some (5, 1, true) := by decide +kernel

theorem confirmKey : rowFields 0x4402_02 = some (5, 1, true) := by decide +kernel

section Trial

variable {s : State} {p : Path} {d : Dev}

theorem exec_fwActivate {v : Nat} (hv : v < 256) (h : s.dev.passes p 0x4402_01 v) :
    exec (.fwActivate p v) s = .next { s with dev := fwActivateDo v s.dev.accessed } := by
  obtain ⟨-, -, -, -, hsz⟩ := row_of_rowFields activateKey
  exact updNv_write_takes h activateKey (by decide) (by decide) (by decide) (takes_alone (by rw [hsz]; omega) rfl)

theorem exec_confirm (h : s.dev.passes p 0x4402_02 1) :
    exec (.confirm p 1) s = .next { s with dev := s.dev.accessed.confirmNow } := by
  obtain ⟨-, -, -, -, hsz⟩ := row_of_rowFields confirmKey
  exact updNv_write_takes h confirmKey (by decide) (by decide) (by decide) (takes_alone (by rw [hsz]; decide) rfl)

theorem onTrial_accessed : d.accessed.onTrial = d.onTrial := by
  simp only [Dev.onTrial, Dev.stage, rd_accessed (show 0x2000_01 ≠ 0x4801_09 by decide), nv_accessed]
  rfl

/-- A confirmed trial: the record without its mark, and the least security version raised (R403). -/
theorem confirmNow_of (ht : d.onTrial = true) : d.confirmNow =
    (d.setNv { d.nv.write { d.nv.record with trial := false, tries := 0 } with
      minSv := max d.nv.minSv d.runningImage.securityVersion }).setReady 41 true := by
  rw [Dev.confirmNow, if_pos ht]
  dsimp only
  rw [write_minSv]

end Trial

/-! ## Recovery -/

/-- A piece in order after the first goes behind those before it (R405). -/
theorem recoveryImageWrite_of {d : Dev} {p : Path} {o : Nat} {bs : List Byte} {e : Dev} (hr : d.run = .on) (hs : d.stage = 4)
    (ho : o = d.fw.recoveryNext) (h0 : o ≠ 0) (hl : o + bs.length ≤ fwSlotBytes) (hp : p ≠ .ecat ∨ d.net.al = .boot)
    (he : e = Dev.recoveryShows { d with fw := { d.fw with
      recoveryNext := o + bs.length, recoveryBytes := d.fw.recoveryBytes ++ bs } } 1 0) :
    recoveryImageWrite p o bs none d = e ∧ ∀ c, recoveryImageWrite p o bs (some c) d = e.recoveryDone c := by
  have hcode : d.recoveryCode o bs.length = 0 := by
    rw [Dev.recoveryCode, if_neg (not_not.mpr ho), if_neg (Nat.not_lt.mpr hl)]
  have htake : d.recoveryTake o bs = e := by
    rw [he, Dev.recoveryTake]
    simp only [if_neg h0]
  have hpiece (last : Option ContainerIn) : recoveryImageWrite p o bs last d = d.recoveryPiece p o bs last :=
    (if_neg (not_not.mpr hr)).trans (if_pos ⟨hs, hp⟩)
  refine ⟨?_, fun c => ?_⟩
  · rw [hpiece, Dev.recoveryPiece, hcode]
    simp only [ne_eq, not_true_eq_false, if_false, htake]
  · rw [hpiece, Dev.recoveryPiece, hcode]
    simp only [ne_eq, not_true_eq_false, if_false, htake]

/-- Settles O58. Where the bytes of a recovery piece stand until the image is whole, and what makes an image the one on trial,
are the model's choices (log entries 117 and 98). -/
theorem loadsAndFirmware : Obligations.LoadsAndFirmware := by
  intro s
  refine ⟨fun t c l hl hm => ?_, fun t c l d hd hl => ?_, fun ok l c hb => ⟨fun hst => ?_, fun st hst hne => ?_⟩,
    fun p v h => ?_, fun p h ht hg => ?_, fun hr ht hraised => congrArg s.after (if_pos ⟨hr, ht, by simp [hraised]⟩),
    fun hr hs p o bs ho h0 hl hp d hd => ?_⟩
  · rw [← loadManifestReceived_of hl hm]
    rfl
  · rw [← loadComplete_of hd hl]
    rfl
  · rw [show exec (.fwSlotWritten ok) s = .next { s with dev := (fwSlotWritten ok s.dev).close } from rfl,
      fwSlotWritten_of hb hst rfl, if_pos rfl]
  · rw [show exec (.fwSlotWritten ok) s = .next { s with dev := (fwSlotWritten ok s.dev).close } from rfl,
      fwSlotWritten_of hb hst rfl, if_neg hne]
  · exact exec_fwActivate (by omega) h
  · have hconfirm := confirmNow_of (d := s.dev.accessed) (onTrial_accessed.trans ht)
    refine ⟨_, exec_confirm h, ?_⟩
    rw [hconfirm]
    refine ⟨rfl, ?_, ?_, ready_setReady_same _ _ (by decide)⟩
    · exact congrArg BootRec.trial (record_write _ _ hg)
    · have hactive := congrArg BootRec.active (record_write s.dev.nv { s.dev.nv.record with trial := false, tries := 0 } hg)
      exact hactive
  · obtain ⟨hnone, hsome⟩ := recoveryImageWrite_of hr hs ho h0 hl hp hd
    refine ⟨?_, fun c => ?_⟩
    · rw [← hnone]
      rfl
    · rw [← hsome]
      rfl

end Sys2Proof.Proofs
end

