-- ==== Sys2Proof/Proofs/Secure.lean ====
section
/-! Attestation, debug grants, owner keys, loopbacks, galley tests and JTAG (R406 to R420, Table 21-3). -/

namespace Sys2Proof.Proofs

open Sys2Proof Sys2Proof.Machine Sys2Proof.Laws

/-! ## Attestation and debug grants -/

theorem attestKey : rowFields 0x4405_02 = some (5, 1, true) := by decide +kernel

theorem lockKey : rowFields 0x4406_05 = some (5, 1, true) := by decide +kernel

theorem tokenKey : (rowOf 0x4406_02).isSome = true := by decide +kernel

theorem programKey : (rowOf 0x4407_09).isSome = true := by decide +kernel

theorem revokeKey : rowFields 0x4407_0A = some (5, 1, true) := by decide +kernel

section Grants

variable {s : State} {p : Path} {d : Dev}

theorem exec_attestRequest (h : s.dev.passes p 0x4405_02 1) :
    exec (.attestRequest p 1) s = s.after (attestDo p s.dev.accessed) := by
  obtain ⟨hk, hsz, -⟩ := entry_of_rowFields attestKey (by decide) (by decide) (by decide)
  exact upd_write_takes h hk (takes_alone (by rw [hsz]; decide) rfl)

theorem exec_debugLock (h : s.dev.passes p 0x4406_05 1) :
    exec (.debugLock p 1) s = s.after (debugLockDo s.dev.accessed) := by
  obtain ⟨hk, hsz, -⟩ := entry_of_rowFields lockKey (by decide) (by decide) (by decide)
  exact upd_write_takes h hk (takes_alone (by rw [hsz]; decide) rfl)

/-- A token that passes its checks is granted (R407). -/
theorem exec_tokenWrite {token signature bs : List Byte} (hb : bs = token ++ signature) (hr : s.dev.run = .on)
    (hc : s.dev.serveCode p 0x4406_02 bs (s.dev.tokenSigned bs) = 0) :
    exec (.tokenWrite p token signature) s = s.after (s.dev.accessed.grantToken bs) := by
  subst hb
  obtain ⟨r, hrow⟩ := Option.isSome_iff_exists.mp tokenKey
  show s.after (s.dev.write p 0x4406_02 (token ++ signature) (s.dev.tokenSigned (token ++ signature)) false) = _
  rw [write_taken hr hrow hc, if_neg (by decide), accept_keeps (by decide)]
  rfl

theorem debugGrantExpiry_of {g : Nat × Nat} {r : List (Nat × Nat)} (h : d.fw.grants = g :: r) : debugGrantExpiry d =
    { d with fw := { d.fw with grants := d.fw.grants.filter (fun e => e.2 ≠ r.foldl (fun m e => min m e.2) g.2) } } := by
  simp only [debugGrantExpiry, h]

/-! ## Owner keys -/

theorem exec_ownerKeyProgram {bs : List Byte} (hr : s.dev.run = .on) (hc : s.dev.serveCode p 0x4407_09 bs false = 0) :
    exec (.ownerKeyProgram p bs) s = .next { s with dev := ownerProgramDo bs s.dev.accessed } := by
  obtain ⟨r, hrow⟩ := Option.isSome_iff_exists.mp programKey
  show Host.Outcome.next { s with dev := s.dev.write p 0x4407_09 bs false false } = _
  rw [write_taken hr hrow hc, if_neg (by decide), Dev.accept, if_pos (by decide)]
  rfl

theorem exec_ownerKeyRevoke {v : Nat} (hv : v < 256) (h : s.dev.passes p 0x4407_0A v) :
    exec (.ownerKeyRevoke p v) s = .next { s with dev := ownerRevokeDo v s.dev.accessed } := by
  obtain ⟨-, -, -, -, hsz⟩ := row_of_rowFields revokeKey
  exact updNv_write_takes h revokeKey (by decide) (by decide) (by decide) (takes_alone (by rw [hsz]; omega) rfl)

end Grants

/-- Settles O59. That a token's signature verifies is the configuration's function of its bytes and of the signer's key, the
model's choice (log entries 30, 104 and 156). -/
theorem security : Obligations.Security := by
  intro s p
  refine ⟨fun h d msg hd hm => ?_, fun token signature bs hb hr hc => exec_tokenWrite hb hr hc,
    fun g r h => congrArg s.after (debugGrantExpiry_of h), fun h => exec_debugLock h,
    fun bs hr hc => ⟨_, exec_ownerKeyProgram hr hc, kvGet_insert_same _ _ _ _, fun k hk => kvGet_insert_other _ _ _ hk⟩,
    fun v h => ⟨_, exec_ownerKeyRevoke (by omega) h, setBit_testBit s.dev.nv.ownerRevoked v.val true,
      fun k hk => setBit_testBit_other s.dev.nv.ownerRevoked true hk⟩⟩
  subst hd hm
  exact exec_attestRequest h

/-! ## Loopbacks -/

theorem loopbackKey (e : Fin 4) : byteKey (dkey (0x4610 + e.val) 6) = true := by decide +kernel +revert

section Loops

variable {s : State} {p : Path} {d : Dev} {v : Nat} {test : Bool}

theorem takes_loopback (e : Fin 4) (hv : v < 256) : Takes d p (dkey (0x4610 + e.val) 6) v test
    (if v = 1 then d.loopbackStart e.val else d.loopbackStop e.val) := by
  obtain ⟨-, hfit, ha⟩ := of_byteKey (loopbackKey e) hv
  have hix : keyIx (dkey (0x4610 + e.val) 6) = 0x4610 + e.val := keyIx_dkey _ (by decide)
  have hsub : keySub (dkey (0x4610 + e.val) 6) = 6 := keySub_dkey _ (by decide)
  refine takes_runs hfit ha (effectUnits_none (by omega)) (effectEnable_none (by omega)) ?_
  have hrange : 0x4610 ≤ 0x4610 + e.val ∧ 0x4610 + e.val < 0x4614 := by omega
  have hfount : ¬(0x4610 + e.val < 0x3A18) := by omega
  have hgrammar : ¬(0x4610 + e.val < 0x3A40) := by omega
  simp [Dev.effectRuns, hix, hsub, hrange, hfount, hgrammar]

theorem loopbackLock_of {e : Fin 4} {l : Loop} {lanes : List (Nat × List Bool)} (hl : d.loopOf e.val = some l)
    (hk : d.locksOn l ⟨e, lanes⟩ = true) : loopbackLock ⟨e, lanes⟩ d =
      { d with test := { d.test with loops := kvInsert d.test.loops e.val { l with locked := true } } } := by
  simp [loopbackLock, hl, hk]

theorem loopbackLock_not {e : Fin 4} {l : Loop} {lanes : List (Nat × List Bool)} (hl : d.loopOf e.val = some l)
    (hk : d.locksOn l ⟨e, lanes⟩ = false) : loopbackLock ⟨e, lanes⟩ d = d := by
  simp [loopbackLock, hl, hk]

theorem loopbackLockTimeout_of {e : Nat} {l : Loop} (hl : d.loopOf e = some l) (hk : l.locked = false) :
    loopbackLockTimeout e d = d.loopEnds e l 3 (lbStatus l.target + 1) := by
  simp [loopbackLockTimeout, hl, hk]

theorem loopbackDurationEnd_of {e : Nat} {l : Loop} (n m f : Nat) (hl : d.loopOf e = some l) :
    loopbackDurationEnd e n m f d = d.loopResult e l n m f := by
  simp only [loopbackDurationEnd, hl]

end Loops

/-! ## Galley tests and JTAG -/

theorem galleyTestKey : rowFields 0x4600_01 = some (5, 1, true) := by decide +kernel

theorem exec_galleyTestRequest {s : State} {p : Path} {v : Nat} (hv : v < 64) (h : s.dev.passes p 0x4600_01 v) :
    exec (.galleyTestRequest p v) s = s.after (s.dev.accessed.galleyTestDo v) := by
  obtain ⟨hk, hsz, -⟩ := entry_of_rowFields galleyTestKey (by decide) (by decide) (by decide)
  exact upd_write_takes h hk (takes_alone (by rw [hsz]; omega) rfl)

/-- Settles O60. The bits and lanes that a lock takes, what a boundary scan carries and the one code of the debug ports are the
model's choices (log entries 168, 95 and 96). -/
theorem testAccess : Obligations.TestAccess := by
  intro s
  refine ⟨fun p e h => ?_, fun p e h => ?_, fun e l hl =>
    ⟨fun lanes hk => congrArg s.after (loopbackLock_of hl hk), fun lanes hk => congrArg s.after (loopbackLock_not hl hk),
      fun hk => after_close (loopbackLockTimeout_of hl hk),
      fun n m f => after_close (loopbackDurationEnd_of n m f hl)⟩,
    rfl, fun p v hv h => exec_galleyTestRequest hv h, rfl, rfl, rfl, rfl, rfl, rfl, fun port =>
      ⟨fun h => congrArg s.after (if_pos h), fun h => congrArg s.after (if_neg (by simp [h]))⟩⟩
  · exact upd_write_close_takes h (valueKey_of_byteKey (loopbackKey e)) (takes_loopback e (by decide))
  · exact upd_write_close_takes h (valueKey_of_byteKey (loopbackKey e)) (takes_loopback e (by decide))

end Sys2Proof.Proofs
end
